-- ==== Sys2Proof/Word.lean ====
section
/-! DEFINITION. The word types of the Duwaune architecture (R17, R18): 32-bit instruction and register words, bytes,
64-bit memory addresses, and the name fields of R22. -/
namespace Sys2Proof

/-- A 32-bit word: an instruction word, an s-name, a lane, an address of scratchpad (R17, R18). -/
abbrev Word := BitVec 32

/-- A byte. -/
abbrev Byte := BitVec 8

/-- A 64-bit double word: a memory address (R152) or a 64-bit operand. -/
abbrev DWord := BitVec 64

/-- A 6-bit name field: v0 to v63, s0 to s63, or a p-name or a-name to be checked by R22. -/
abbrev Name := BitVec 6

/-- A 3-bit p-name field, p0 to p7 (R89). -/
abbrev PName := BitVec 3

/-- A 4-bit a-name field, a0 to a15 (R238). -/
abbrev AName := BitVec 4

/-- A 32-bit lane mask: bit `i` stands for lane `i` (R62, R89). -/
abbrev Mask := BitVec 32

end Sys2Proof
end

