-- ==== Sys2Proof/Syntax.lean ====
section
/-! DEFINITION. The instructions of Duwaune as syntax: the operand shapes of each format (R21 to R41), and the one
inductive `Instr` with a constructor for every row of the opcode table. Register numbers stay bit fields, because R22
checks them after decode; every code is a constructor. -/
namespace Sys2Proof

/-- The guard of R13 and R23: `p` names a p-name, `neg` is pred-negate. -/
structure Guard where
  p   : PName
  neg : Bool
deriving DecidableEq, Repr

/-- The type codes of R26. -/
inductive Ty where
  | s8 | n8 | s16 | n16 | s32 | n32 | s64 | n64 | f16 | bf16 | f32 | f64
deriving DecidableEq, Repr

/-- The rounding codes of R25. -/
inductive Rm where
  | rn | rz | ru | rd
deriving DecidableEq, Repr

/-- The lane conditions that ICMP takes (R27). -/
inductive ICond where
  | eq | ne | lt | le | gt | ge
deriving DecidableEq, Repr

/-- The lane conditions that FCMP takes (R27). -/
inductive FCond where
  | eq | ne | lt | le | gt | ge | un | ord
deriving DecidableEq, Repr

/-- The uniform conditions of R28. -/
inductive UCond where
  | eq | ne | ltS | leS | gtS | geS | ltN | leN | gtN | geN
deriving DecidableEq, Repr

/-- The BRC conditions of R29. -/
inductive BrCond where
  | nz | z | neg | nneg | all | any | noneOf
deriving DecidableEq, Repr

/-- The SHFL modes of R93. -/
inductive ShflMode where
  | idx | up | dn | xor
deriving DecidableEq, Repr

/-- The VOTE modes of R94. -/
inductive VoteMode where
  | all | any | eq
deriving DecidableEq, Repr

/-- The memory semantics codes of R30. -/
inductive Sem where
  | rlx | acq | rel | acqrel
deriving DecidableEq, Repr

/-- The scope codes of R30. -/
inductive Scope where
  | core | cluster | device | domain
deriving DecidableEq, Repr

/-- The lane access sizes of R31. -/
inductive Size where
  | b8 | b16 | b32 | b64 | b128
deriving DecidableEq, Repr

/-- The packet sizes of R41: 8, 16, 32 or 64 bytes. -/
inductive PkSize where
  | b64 | b128 | b256 | b512
deriving DecidableEq, Repr

/-- The atomic operation codes of R33. -/
inductive AtomOp where
  | add | minS | minN | maxS | maxN | and | or | xor | exch | cas | fadd
deriving DecidableEq, Repr

/-- The engine classes of R34. -/
inductive Cls where
  | pkt | cpy | mtx | col | qry
deriving DecidableEq, Repr

/-- The format pairs of MMA and MTILE (R242). -/
inductive FmtPair where
  | bf16 | f16 | e4e4 | e4e5 | e5e4 | e5e5 | s8 | c4 | t5s8 | s8t5
deriving DecidableEq, Repr

/-- The two F8 kinds of R120. -/
inductive F8 where
  | e4 | e5
deriving DecidableEq, Repr

/-- The result types of AMOVV (R256). -/
inductive AmovTy where
  | f32 | f16 | bf16 | s32
deriving DecidableEq, Repr

/-- The special registers of R315. -/
inductive SReg where
  | caps | warp | block | gang | core | cluster | stack | launch | launchh | flg
  | tpc | tcause | tlanes | taddr | taddrh | tinfo | ebbpc | ebbleft | time | timeh | dline | dlineh
deriving DecidableEq, Repr

/-- The modifier word of R25 (T2 apart, which only CVT, PKF8 and UPF8 carry). -/
structure ModWord where
  c   : Name
  cs  : Bool
  t   : Ty
  rm  : Rm
  sat : Bool
  na  : Bool
  aa  : Bool
  nb  : Bool
  ab  : Bool
  nc  : Bool
  ac  : Bool
deriving DecidableEq, Repr

/-- LR operands of an integer instruction without a modifier word (R24). -/
structure LrA where
  d  : Name
  a  : Name
  b  : Name
  g  : Guard
  bs : Bool
deriving DecidableEq, Repr

/-- LR operands with a modifier word (R24, R25). -/
structure LrM where
  d  : Name
  a  : Name
  b  : Name
  g  : Guard
  bs : Bool
  m  : ModWord
deriving DecidableEq, Repr

/-- LR operands of a floating-point instruction without a modifier word; `nb` is mod[1] (R24). -/
structure LrF where
  d  : Name
  a  : Name
  b  : Name
  g  : Guard
  bs : Bool
  nb : Bool
deriving DecidableEq, Repr

/-- LR operands of an instruction with d and a only. -/
structure LrU where
  d  : Name
  a  : Name
  g  : Guard
deriving DecidableEq, Repr

/-- LR operands of a unary instruction with a modifier word. -/
structure LrUM where
  d  : Name
  a  : Name
  g  : Guard
  m  : ModWord
deriving DecidableEq, Repr

/-- The sources of a compare, whose d field holds the condition and the p-name (R27). -/
structure SrcA where
  a  : Name
  b  : Name
  g  : Guard
  bs : Bool
deriving DecidableEq, Repr

/-- The sources of FCMP without a modifier word. -/
structure SrcF where
  a  : Name
  b  : Name
  g  : Guard
  bs : Bool
  nb : Bool
deriving DecidableEq, Repr

/-- The sources of a compare with a modifier word. -/
structure SrcM where
  a  : Name
  b  : Name
  g  : Guard
  bs : Bool
  m  : ModWord
deriving DecidableEq, Repr

/-- LM operands: data name, s-base, v-offset and guard (R21, R178). -/
structure LmA where
  d : Name
  s : Name
  v : Name
  g : Guard
deriving DecidableEq, Repr

/-- The memory word of a long LD (R32). -/
structure LdWord where
  rmt   : Bool
  scope : Scope
  sem   : Sem
  size  : Size
deriving DecidableEq, Repr

/-- The memory word of a long ST (R32). -/
structure StWord where
  scope : Scope
  sem   : Sem
  size  : Size
deriving DecidableEq, Repr

/-- The memory word of ATOM (R32, R33); `w64` is size .b64. -/
structure AtomWord where
  c     : Name
  op    : AtomOp
  rmt   : Bool
  scope : Scope
  sem   : Sem
  w64   : Bool
deriving DecidableEq, Repr

/-- The operands of PKRD and PKWR (R41); `x` is .rmt for PKRD and .m for PKWR. -/
structure PkOp where
  f     : Name
  s     : Name
  tag   : BitVec 3
  x     : Bool
  scope : Scope
  sem   : Sem
  sig   : Bool
  size  : PkSize
deriving DecidableEq, Repr

/-- The operands of PKATOM (R41). -/
structure PkAtomOp where
  f     : Name
  s     : Name
  w64   : Bool
  tag   : BitVec 3
  scope : Scope
  sem   : Sem
  op    : AtomOp
deriving DecidableEq, Repr

/-- The operands of AMOVV (R256); `s32` is src .s32. -/
structure AmovOp where
  d   : Name
  a   : Name
  b   : Name
  sat : Bool
  rm  : Rm
  s32 : Bool
  t   : AmovTy
deriving DecidableEq, Repr

/-! ### Operands of the events (log 2) -/

/-- A warp an event is about: launch identifier, linear gang index, block number in the gang, warp number in the block. -/
structure WarpRef where
  lid  : Nat
  gang : Nat
  num  : Nat
  warp : Nat
deriving DecidableEq, Repr

/-- A chunk operation of an instance of a schedule on an engine, as an event names it (R333, R336). -/
structure OpRef where
  die   : Nat
  sched : Nat
  inst  : Nat
  op    : Nat
deriving DecidableEq, Repr

/-- Credit that a peer grants in 4 KiB units (R347), which may come with a schedule's number and its oldest instance there (R333,
log 34). -/
structure Grant where
  units  : Nat
  window : Option (Nat × Nat)
deriving DecidableEq, Repr

/-- A partition of a new cut (R363): its stacks, its firmware identifier with the root entry firmware writes for it in each
stack (R166), and the host window's base and identifier (R296). -/
structure CutPart where
  first  : Nat
  n      : Nat
  fwAsid : Nat
  roots  : List (BitVec 64)
  wbase  : DWord
  wasid  : Nat
deriving DecidableEq, Repr

/-- One constructor for each row of the opcode table: 211 instructions of the two sets, then 101 events of the
machine (steps of an engine, of the front end, of firmware, of the host, of the debugger or of the domain). -/
inductive Instr where
  /-- R104. IADD: Adds a and b in each active lane at type .s32, with no modifier word. -/
  | iadd (r : LrA)
  /-- R104. IADD_MODW: Adds a and b in each active lane at the type and saturation given by a modifier word. -/
  | iaddModw (r : LrM)
  /-- R104. ISUB: Subtracts b from a in each active lane at type .s32. -/
  | isub (r : LrA)
  /-- R104. ISUB_MODW: Subtracts b from a in each active lane with a modifier word. -/
  | isubModw (r : LrM)
  /-- R104. IMUL: Multiplies a by b in each active lane at type .s32. -/
  | imul (r : LrA)
  /-- R104. IMUL_MODW: Multiplies a by b in each active lane with a modifier word. -/
  | imulModw (r : LrM)
  /-- R104. IMULH: Writes the high half of the product of a and b in each active lane. -/
  | imulh (r : LrA)
  /-- R104. IMULH_MODW: Writes the high half of the product with the type from a modifier word. -/
  | imulhModw (r : LrM)
  /-- R104. IMAD: Computes a times b plus c in each active lane; it always carries a modifier word. -/
  | imad (r : LrM)
  /-- R104. IMIN: Writes the minimum of a and b in each active lane at type .s32. -/
  | imin (r : LrA)
  /-- R104. IMIN_MODW: Writes the minimum of a and b with a modifier word. -/
  | iminModw (r : LrM)
  /-- R104. IMAX: Writes the maximum of a and b in each active lane at type .s32. -/
  | imax (r : LrA)
  /-- R104. IMAX_MODW: Writes the maximum of a and b with a modifier word. -/
  | imaxModw (r : LrM)
  /-- R104. ICMP: Compares a and b as integers and writes the condition into a predicate bit of each active lane. -/
  | icmp (c : ICond) (pd : PName) (r : SrcA)
  /-- R104. ICMP_MODW: Compares a and b at the type given by a modifier word and writes a predicate. -/
  | icmpModw (c : ICond) (pd : PName) (r : SrcM)
  /-- R104. AND: Bitwise AND of a and b in each active lane. -/
  | andLane (r : LrA)
  /-- R104. AND_MODW: Bitwise AND with the width given by a modifier word. -/
  | andLaneModw (r : LrM)
  /-- R104. OR: Bitwise OR of a and b in each active lane. -/
  | orLane (r : LrA)
  /-- R104. OR_MODW: Bitwise OR with the width given by a modifier word. -/
  | orLaneModw (r : LrM)
  /-- R104. XOR: Bitwise XOR of a and b in each active lane. -/
  | xorLane (r : LrA)
  /-- R104. XOR_MODW: Bitwise XOR with the width given by a modifier word. -/
  | xorLaneModw (r : LrM)
  /-- R104. SHL: Shifts a left by b mod n in each active lane. -/
  | shl (r : LrA)
  /-- R104. SHL_MODW: Shifts a left with the width given by a modifier word. -/
  | shlModw (r : LrM)
  /-- R104. SHR: Shifts a right logically by b mod n in each active lane. -/
  | shr (r : LrA)
  /-- R104. SHR_MODW: Shifts a right logically with the width given by a modifier word. -/
  | shrModw (r : LrM)
  /-- R104. SRA: Shifts a right arithmetically by b mod n in each active lane. -/
  | sra (r : LrA)
  /-- R104. SRA_MODW: Shifts a right arithmetically with the width given by a modifier word. -/
  | sraModw (r : LrM)
  /-- R104. ROT: Rotates a left by b mod n in each active lane. -/
  | rot (r : LrA)
  /-- R104. ROT_MODW: Rotates a with the width given by a modifier word. -/
  | rotModw (r : LrM)
  /-- R104. BFE: Extracts a bit field of a, at the position and length held in b. -/
  | bfe (r : LrA)
  /-- R104. BFE_MODW: Extracts a bit field at the type given by a modifier word. -/
  | bfeModw (r : LrM)
  /-- R104. BFI: Inserts b into a at the field that c gives; it always carries a modifier word. -/
  | bfi (r : LrM)
  /-- R104. SEL: Selects a or b in each active lane by a predicate named in the modifier word. -/
  | sel (r : LrM)
  /-- R104. IABS: Writes the absolute value of a in each active lane at type .s32. -/
  | iabs (r : LrU)
  /-- R104. IABS_MODW: Writes the absolute value of a at the type and saturation given by a modifier word. -/
  | iabsModw (r : LrUM)
  /-- R104. INEG: Negates a in each active lane at type .s32. -/
  | ineg (r : LrU)
  /-- R104. INEG_MODW: Negates a with the type and saturation given by a modifier word. -/
  | inegModw (r : LrUM)
  /-- R104. POPC: Counts the one bits of a in each active lane. -/
  | popc (r : LrU)
  /-- R104. POPC_MODW: Counts the one bits of a at the width given by a modifier word. -/
  | popcModw (r : LrUM)
  /-- R104. CLZ: Counts the leading zeros of a in each active lane. -/
  | clz (r : LrU)
  /-- R104. CLZ_MODW: Counts the leading zeros of a at the width given by a modifier word. -/
  | clzModw (r : LrUM)
  /-- R104. BREV: Reverses the bits of a in each active lane. -/
  | brev (r : LrU)
  /-- R104. BREV_MODW: Reverses the bits of a at the width given by a modifier word. -/
  | brevModw (r : LrUM)
  /-- R268. DP4: Adds the four byte products of a and b to c in each active lane and sets IOV on overflow. -/
  | dp4 (r : LrM)
  /-- R263. UNT5: Decodes one T5 byte of each active lane into five 2-bit trit codes and flags illegal bytes. -/
  | unt5 (r : LrA)
  /-- R264. ASA: Adds, subtracts or skips an INT8 activation into an INT32 sum, by a trit code. -/
  | asa (r : LrM)
  /-- R270. PACKI: Packs elements from the a and b groups into narrow integer fields of each active lane. -/
  | packi (r : LrM)
  /-- R271. UNPKI: Unpacks the narrow integer elements of each active lane into separate names. -/
  | unpki (r : LrM)
  /-- R101. IADD_IMM: Adds a sign-extended 9-bit immediate to a at .s32. -/
  | iaddImm (d : Name) (a : Name) (imm : BitVec 9) (g : Guard)
  /-- R101. AND_IMM: ANDs a with a sign-extended 9-bit immediate. -/
  | andImm (d : Name) (a : Name) (imm : BitVec 9) (g : Guard)
  /-- R101. OR_IMM: ORs a with a sign-extended 9-bit immediate. -/
  | orImm (d : Name) (a : Name) (imm : BitVec 9) (g : Guard)
  /-- R101. XOR_IMM: XORs a with a sign-extended 9-bit immediate. -/
  | xorImm (d : Name) (a : Name) (imm : BitVec 9) (g : Guard)
  /-- R36. SHL_IMM: Shifts a left by an immediate amount of 0 to 31. -/
  | shlImm (d : Name) (a : Name) (k : BitVec 5) (g : Guard)
  /-- R36. SHR_IMM: Shifts a right logically by an immediate amount. -/
  | shrImm (d : Name) (a : Name) (k : BitVec 5) (g : Guard)
  /-- R36. SRA_IMM: Shifts a right arithmetically by an immediate amount. -/
  | sraImm (d : Name) (a : Name) (k : BitVec 5) (g : Guard)
  /-- R36. ROT_IMM: Rotates a by an immediate amount. -/
  | rotImm (d : Name) (a : Name) (k : BitVec 5) (g : Guard)
  /-- R101. ICMP_S32_IMM: Compares a with an immediate as .s32 and writes a predicate. -/
  | icmpS32Imm (c : ICond) (pd : PName) (a : Name) (imm : BitVec 9) (g : Guard)
  /-- R101. ICMP_N32_IMM: Compares a with an immediate as .n32 and writes a predicate. -/
  | icmpN32Imm (c : ICond) (pd : PName) (a : Name) (imm : BitVec 9) (g : Guard)
  /-- R88. MOVI: Writes a sign-extended 9-bit immediate to every active lane of a fresh row. -/
  | movi (d : Name) (imm : BitVec 9) (g : Guard)
  /-- R88. MOVI_LONG: Writes a 32-bit immediate from an extension word to the active lanes of a fresh row. -/
  | moviLong (d : Name) (g : Guard) (imm : Word)
  /-- R111. FADD: Adds a and b as .f32 at .rn in each active lane. -/
  | fadd (r : LrF)
  /-- R111. FADD_MODW: Adds a and b at the type, rounding and operand modifiers of a modifier word. -/
  | faddModw (r : LrM)
  /-- R111. FSUB: Subtracts b from a as .f32 at .rn. -/
  | fsub (r : LrF)
  /-- R111. FSUB_MODW: Subtracts b from a with a modifier word. -/
  | fsubModw (r : LrM)
  /-- R111. FMUL: Multiplies a by b as .f32 at .rn. -/
  | fmul (r : LrF)
  /-- R111. FMUL_MODW: Multiplies a by b with a modifier word. -/
  | fmulModw (r : LrM)
  /-- R111. FFMA: Computes a times b plus c rounded once; it always carries a modifier word. -/
  | ffma (r : LrM)
  /-- R114. FMIN: Writes the smaller of a and b by the floating minimum rules. -/
  | fmin (r : LrF)
  /-- R114. FMIN_MODW: Floating minimum with a modifier word. -/
  | fminModw (r : LrM)
  /-- R114. FMAX: Writes the larger of a and b by the floating maximum rules. -/
  | fmax (r : LrF)
  /-- R114. FMAX_MODW: Floating maximum with a modifier word. -/
  | fmaxModw (r : LrM)
  /-- R115. FCMP: Compares a and b as floating values and writes a predicate bit. -/
  | fcmp (c : FCond) (pd : PName) (r : SrcF)
  /-- R115. FCMP_MODW: Floating compare with a modifier word. -/
  | fcmpModw (c : FCond) (pd : PName) (r : SrcM)
  /-- R111. FDIV: Divides a by b, correctly rounded, as .f32 at .rn. -/
  | fdiv (r : LrF)
  /-- R111. FDIV_MODW: Divides a by b with a modifier word. -/
  | fdivModw (r : LrM)
  /-- R116. FCLASS: Writes a one-hot class mask of a. -/
  | fclass (r : LrU)
  /-- R116. FCLASS_MODW: Writes a class mask at the type given by a modifier word. -/
  | fclassModw (r : LrUM)
  /-- R116. FRND: Rounds a to an integral value in its own format. -/
  | frnd (r : LrU)
  /-- R116. FRND_MODW: Rounds a to an integral value with a modifier word. -/
  | frndModw (r : LrUM)
  /-- R111. FSQRT: Writes the correctly rounded square root of a. -/
  | fsqrt (r : LrU)
  /-- R111. FSQRT_MODW: Square root with a modifier word. -/
  | fsqrtModw (r : LrUM)
  /-- R117. FRCP: Writes the approximate reciprocal of a. -/
  | frcp (r : LrU)
  /-- R117. FRCP_MODW: Reciprocal with a modifier word. -/
  | frcpModw (r : LrUM)
  /-- R117. FRSQ: Writes the approximate reciprocal square root of a. -/
  | frsq (r : LrU)
  /-- R117. FRSQ_MODW: Reciprocal square root with a modifier word. -/
  | frsqModw (r : LrUM)
  /-- R117. FEXP2: Writes the approximate base-2 exponential of a. -/
  | fexp2 (r : LrU)
  /-- R117. FEXP2_MODW: Base-2 exponential with a modifier word. -/
  | fexp2Modw (r : LrUM)
  /-- R117. FLOG2: Writes the approximate base-2 logarithm of a. -/
  | flog2 (r : LrU)
  /-- R117. FLOG2_MODW: Base-2 logarithm with a modifier word. -/
  | flog2Modw (r : LrUM)
  /-- R117. FSIN: Writes the approximate sine of a. -/
  | fsin (r : LrU)
  /-- R117. FSIN_MODW: Sine with a modifier word. -/
  | fsinModw (r : LrUM)
  /-- R117. FCOS: Writes the approximate cosine of a. -/
  | fcos (r : LrU)
  /-- R117. FCOS_MODW: Cosine with a modifier word. -/
  | fcosModw (r : LrUM)
  /-- R119. CVT: Converts each active lane's value from type T to type T2. -/
  | cvt (r : LrM) (t2 : Ty)
  /-- R120. PKF8: Packs four wide values into four F8 bytes of each active lane. -/
  | pkf8 (r : LrM) (k : F8)
  /-- R121. UPF8: Unpacks the four F8 bytes of each active lane into wide values. -/
  | upf8 (r : LrM) (k : F8)
  /-- R88. MOV: Copies a into a fresh row in the active lanes. -/
  | mov (r : LrU)
  /-- R88. SPLAT: Writes an s-name's value to every active lane of a fresh row. -/
  | splat (d : Name) (b : Name) (g : Guard)
  /-- R93. SHFL: Reads a lane of va chosen by index, up, down or xor mode into each active lane. -/
  | shfl (m : ShflMode) (r : LrA)
  /-- R94. VOTE: Writes the all, any or equal vote of a predicate over the active lanes. -/
  | vote (m : VoteMode) (r : LrU)
  /-- R94. BALLOT: Writes the predicate mask of the active lanes to every active lane. -/
  | ballot (r : LrU)
  /-- R95. BCAST: Broadcasts one lane of va to the active lanes or to an s-name. -/
  | bcast (toS : Bool) (r : LrA)
  /-- R88. LANEID: Writes each active lane's index to a fresh row. -/
  | laneid (d : Name) (g : Guard)
  /-- R90. PLOP: Computes a three-input lookup function of predicates into a predicate. -/
  | plop (pd : PName) (pa : PName) (pb : PName) (pc : PName) (lut : Byte) (g : Guard)
  /-- R63. SPLIT: Pushes the mask stack and restricts the mask to lanes whose predicate is set. -/
  | split (a : Name)
  /-- R63. FLIP: Switches the mask to the alternate lanes of the top stack entry. -/
  | flip
  /-- R63. JOIN: Pops the mask stack and restores the saved mask. -/
  | join
  /-- R85. ALIAS: Maps vd to the row va maps and raises that row's count. -/
  | aliasName (d : Name) (a : Name)
  /-- R85. DROP: Unmaps vd and lowers its row's count. -/
  | drop (d : Name)
  /-- R85. SWAPN: Exchanges the mappings of two v-names. -/
  | swapn (d : Name) (a : Name)
  /-- R85. MAPQ: Writes whether va is mapped, and its row's count, to an s-name. -/
  | mapq (d : Name) (a : Name)
  /-- R86. GIVE: Moves va's row into a handoff slot, parking while the slot is full. -/
  | give (a : Name) (b : Name)
  /-- R86. GIVEX: Places va's row in a handoff slot while keeping the mapping. -/
  | givex (a : Name) (b : Name)
  /-- R86. TAKE: Maps vd to the row held in a handoff slot, parking while the slot is empty. -/
  | take (d : Name) (b : Name)
  /-- R179. LD: Loads a relaxed scratchpad access per active lane. -/
  | ld (r : LmA) (z : Size)
  /-- R179. LD_LONG: Loads scratchpad per lane with the semantics, scope and .rmt of a memory word. -/
  | ldLong (r : LmA) (w : LdWord)
  /-- R179. ST: Stores each active lane's bytes to scratchpad, relaxed. -/
  | st (r : LmA) (z : Size)
  /-- R179. ST_LONG: Stores to scratchpad with the semantics and scope of a memory word. -/
  | stLong (r : LmA) (w : StWord)
  /-- R180. ATOM: Performs an indivisible scratchpad read-modify-write per active lane in lane order. -/
  | atom (r : LmA) (w : AtomWord)
  /-- R182. SPILL: Writes a whole row to the warp's spill slot. -/
  | spill (d : Name) (k : BitVec 6)
  /-- R182. FILL: Maps a fresh row read whole from a spill slot. -/
  | fill (d : Name) (k : BitVec 6)
  /-- R123. SADD: Adds two s-names modulo 2^32. -/
  | sadd (d : Name) (a : Name) (b : Name)
  /-- R123. SSUB: Subtracts two s-names modulo 2^32. -/
  | ssub (d : Name) (a : Name) (b : Name)
  /-- R123. SMUL: Multiplies two s-names modulo 2^32. -/
  | smul (d : Name) (a : Name) (b : Name)
  /-- R123. SMULH_S32: Writes the high word of the signed product of two s-names. -/
  | smulhS32 (d : Name) (a : Name) (b : Name)
  /-- R123. SMULH_N32: Writes the high word of the natural product of two s-names. -/
  | smulhN32 (d : Name) (a : Name) (b : Name)
  /-- R123. SAND: Bitwise AND of two s-names. -/
  | sand (d : Name) (a : Name) (b : Name)
  /-- R123. SOR: Bitwise OR of two s-names. -/
  | sor (d : Name) (a : Name) (b : Name)
  /-- R123. SXOR: Bitwise XOR of two s-names. -/
  | sxor (d : Name) (a : Name) (b : Name)
  /-- R123. SSHL: Shifts an s-name left by b mod 32. -/
  | sshl (d : Name) (a : Name) (b : Name)
  /-- R123. SSHR: Shifts an s-name right with zero fill. -/
  | sshr (d : Name) (a : Name) (b : Name)
  /-- R123. SSRA: Shifts an s-name right with sign fill. -/
  | ssra (d : Name) (a : Name) (b : Name)
  /-- R123. SMIN_S32: Signed minimum of two s-names. -/
  | sminS32 (d : Name) (a : Name) (b : Name)
  /-- R123. SMIN_N32: Natural minimum of two s-names. -/
  | sminN32 (d : Name) (a : Name) (b : Name)
  /-- R123. SMAX_S32: Signed maximum of two s-names. -/
  | smaxS32 (d : Name) (a : Name) (b : Name)
  /-- R123. SMAX_N32: Natural maximum of two s-names. -/
  | smaxN32 (d : Name) (a : Name) (b : Name)
  /-- R123. SCMP: Writes 1 or 0 by a uniform condition on two s-names. -/
  | scmp (c : UCond) (d : Name) (a : Name) (b : Name)
  /-- R123. SSEL: Selects a or b by whether a predicate is non-zero. -/
  | ssel (p : PName) (d : Name) (a : Name) (b : Name)
  /-- R124. SADD_IMM: Adds a sign-extended 13-bit literal to an s-name. -/
  | saddImm (d : Name) (a : Name) (imm : BitVec 13)
  /-- R124. SMUL_IMM: Multiplies an s-name by a 13-bit literal. -/
  | smulImm (d : Name) (a : Name) (imm : BitVec 13)
  /-- R124. SAND_IMM: ANDs an s-name with a 13-bit literal. -/
  | sandImm (d : Name) (a : Name) (imm : BitVec 13)
  /-- R124. SOR_IMM: ORs an s-name with a 13-bit literal. -/
  | sorImm (d : Name) (a : Name) (imm : BitVec 13)
  /-- R124. SXOR_IMM: XORs an s-name with a 13-bit literal. -/
  | sxorImm (d : Name) (a : Name) (imm : BitVec 13)
  /-- R124. SSHL_IMM: Shifts an s-name left by a literal amount. -/
  | sshlImm (d : Name) (a : Name) (k : BitVec 5)
  /-- R124. SSHR_IMM: Shifts an s-name right with zero fill by a literal amount. -/
  | sshrImm (d : Name) (a : Name) (k : BitVec 5)
  /-- R124. SSRA_IMM: Shifts an s-name right with sign fill by a literal amount. -/
  | ssraImm (d : Name) (a : Name) (k : BitVec 5)
  /-- R124. SMIN_S32_IMM: Signed minimum of an s-name and an 11-bit literal. -/
  | sminS32Imm (d : Name) (a : Name) (imm : BitVec 11)
  /-- R124. SMIN_N32_IMM: Natural minimum of an s-name and an 11-bit literal. -/
  | sminN32Imm (d : Name) (a : Name) (imm : BitVec 11)
  /-- R124. SMAX_S32_IMM: Signed maximum of an s-name and an 11-bit literal. -/
  | smaxS32Imm (d : Name) (a : Name) (imm : BitVec 11)
  /-- R124. SMAX_N32_IMM: Natural maximum of an s-name and an 11-bit literal. -/
  | smaxN32Imm (d : Name) (a : Name) (imm : BitVec 11)
  /-- R124. SCMP_IMM: Compares an s-name with a 9-bit literal by a uniform condition. -/
  | scmpImm (c : UCond) (d : Name) (a : Name) (imm : BitVec 9)
  /-- R124. SMOVI: Writes a sign-extended 13-bit literal to an s-name. -/
  | smovi (d : Name) (imm : BitVec 13)
  /-- R124. SMOVI_LONG: Writes a 32-bit value from an extension word to an s-name. -/
  | smoviLong (d : Name) (imm : Word)
  /-- R125. SLD: Loads one scratchpad word into an s-name, parking on an absent line. -/
  | sld (d : Name) (a : Name) (imm : BitVec 13)
  /-- R125. SST: Stores one s-name word to scratchpad. -/
  | sst (d : Name) (a : Name) (imm : BitVec 13)
  /-- R125. SLDK: Reads one parameter word of the launch record into an s-name. -/
  | sldk (d : Name) (k : BitVec 4)
  /-- R97. BRA: Branches to a word offset. -/
  | bra (off : BitVec 21)
  /-- R97. BRC: Branches when an s-name or predicate condition holds. -/
  | brc (c : BrCond) (n : Name) (off : BitVec 15)
  /-- R97. LOOPN: Decrements an s-name and branches while it is not zero. -/
  | loopn (n : Name) (off : BitVec 15)
  /-- R97. CALL: Writes the return address to s63 and branches. -/
  | call (off : BitVec 21)
  /-- R98. NOP: Does nothing. -/
  | nop
  /-- R98. JMPI: Jumps to the address in an s-name. -/
  | jmpi (a : Name)
  /-- R98. RET: Jumps to the address in s63. -/
  | ret
  /-- R64. EXIT: Makes the active lanes exit, and on the last lanes drains and ends the warp. -/
  | exit
  /-- R184. PKRD: Hands a tagged memory read packet to the base die. -/
  | pkrd (r : PkOp)
  /-- R184. PKWR: Hands a tagged memory write packet, optionally masked, to the base die. -/
  | pkwr (r : PkOp)
  /-- R184. PKATOM: Hands a tagged memory atomic packet to the base die. -/
  | pkatom (r : PkAtomOp)
  /-- R185. PKWAIT: Parks until the masked tags are free and delivers their faults. -/
  | pkwait (mask : Byte)
  /-- R186. COPY: Reads and checks a copy command chain and hands it to the copy engine. -/
  | copy (f : Name)
  /-- R197. BARINIT: Initialises a barrier object with expected arrivals and bytes. -/
  | barinit (f : Name) (s : Name)
  /-- R197. BARARV: Adds one arrival to a barrier object as a cluster-scope release. -/
  | bararv (f : Name)
  /-- R197. BAREXP: Adds expected bytes to a barrier's current phase. -/
  | barexp (f : Name) (s : Name)
  /-- R197. BARWT: Parks while a barrier's phase equals the operand, then acquires. -/
  | barwt (f : Name) (ph : Bool)
  /-- R199. WAITC: Parks until all but the n youngest operations of a class have completed, delivering faults. -/
  | waitc (c : Cls) (n : Byte)
  /-- R211. FENCE: Waits until older scratchpad accesses and packets have performed at a scope. -/
  | fence (sc : Bool) (scope : Scope)
  /-- R240. MACQ: Tries to take the matrix engine and writes the outcome to a predicate. -/
  | macq (p : PName)
  /-- R240. MACQ_WAIT: Takes the matrix engine, parking until it is passed or released. -/
  | macqWait (p : PName)
  /-- R217. MREL: Frees the matrix engine. -/
  | mrel
  /-- R217. MPASS: Passes the matrix engine to a named warp of the block. -/
  | mpass (a : Name)
  /-- R243. OBRES: Makes an operand-buffer reservation with format, scales and codebook slot. -/
  | obres (idx : BitVec 3) (f : Name) (s : Name)
  /-- R244. OBREL: Frees an operand-buffer reservation. -/
  | obrel (idx : BitVec 3)
  /-- R245. CBLD: Loads 16 BF16 entries into a reservation's codebook slot. -/
  | cbld (idx : BitVec 3) (f : Name)
  /-- R246. SCLD: Copies scales from scratchpad into a reservation. -/
  | scld (idx : BitVec 3) (f : Name) (s : Name)
  /-- R254. AZERO: Maps a range of accumulator names to fresh zero tiles. -/
  | azero (first : AName) (last : AName)
  /-- R250. MMA: Hands one matrix engine step from v-names or scratchpad into an accumulator. -/
  | mma (fmt : FmtPair) (scr : Bool) (d : AName) (f : Name) (s : Name)
  /-- R251. MTILE: Hands a sequence of engine steps over a tile grid and K slices, resumable by its step counter. -/
  | mtile (fmt : FmtPair) (d : AName) (f : Name) (s : Name)
  /-- R255. ALD: Loads accumulator tiles from scratchpad into fresh tiles. -/
  | ald (first : AName) (last : AName) (f : Name) (s : Name)
  /-- R255. AST: Stores accumulator tiles to scratchpad. -/
  | ast (first : AName) (last : AName) (f : Name) (s : Name)
  /-- R256. AMOVV: Scales and converts an accumulator tile into v-names. -/
  | amovv (r : AmovOp)
  /-- R70. PHASE: Arrives at a phase boundary, and on the last arrival applies the carry mask and releases resources. -/
  | phase (k : BitVec 4)
  /-- R320. BARB: Arrives at a block barrier and parks until every live warp of the block has arrived. -/
  | barb (k : BitVec 4)
  /-- R321. GETWORK: Requests the next work index from the distributor into scratchpad. -/
  | getwork (sig : Bool) (f : Name)
  /-- R273. VALID: Waits for the warp's packets, releases and sets a validity flag. -/
  | valid (f : Name)
  /-- R323. WRAPEND: Ends the warp as a final EXIT of every launched lane. -/
  | wrapend
  /-- R324. CANCEL: Cancels the warp's own launch. -/
  | cancel
  /-- R324. CANCEL_JOB: Cancels the warp's job. -/
  | cancelJob
  /-- R325. LCNT_LAUNCH: Reads the launch completion counter with an acquire. -/
  | lcntLaunch (d : Name)
  /-- R325. LCNT_JOB: Reads the 64-bit job completion counter with an acquire. -/
  | lcntJob (d : Name)
  /-- R327. COLL: Starts an instance of a loaded Tideway schedule. -/
  | coll (f : Name) (s : Name)
  /-- R317. SRD: Reads a special register into an s-name. -/
  | srd (d : Name) (sr : SReg)
  /-- R317. SWR: Writes an s-name to a writable special register. -/
  | swr (d : Name) (sr : SReg)
  /-- R318. TIME: Samples both words of device time at once. -/
  | time (d : Name)
  /-- R318. TICK: Waits for the next tide tick and writes its number. -/
  | tick (d : Name)
  /-- R318. TICK_NOW: Writes the current tide tick number. -/
  | tickNow (d : Name)
  /-- R326. TRAP: Raises a SOFTWARE trap with a 6-bit code. -/
  | trap (code : BitVec 6)
  /-- R134. TRET_RETRY: Leaves the handler and resumes at sr.tpc. -/
  | tretRetry
  /-- R134. TRET_SKIP: Leaves the handler and resumes after the trapped instruction. -/
  | tretSkip
  /-- R326. BRK: Stops the gang for the debugger in debug mode, or traps BREAK otherwise. -/
  | brk
  /-- R328. LGO: Waits for the pass's packets and submits the launch record for admission. -/
  | lgo
  /-- R328. LCANCEL: Ends the prologue pass with the launch CANCELLED. -/
  | lcancel
  /-- R328. LREPEAT: Submits the record and arranges a new pass after its completion record. -/
  | lrepeat
  /-- R42. ILLEGAL_OPCODE: An unassigned encoding, such as 0xFFFF_FFFF fetched beyond a body's end, reaches retirement and raises a precise ILLEGAL_OPCODE trap. -/
  | illegalOpcode (w : Word)
  /-- R147. HANDED_OVER: An engine instruction waiting for a tag, counter, presence count or tile is finally handed over. -/
  | handedOver (w : WarpRef)
  /-- R163. MEMORY_REQUEST: The owning base die translates, performs, meters and replies to a memory request. -/
  | memoryRequest (seq : Nat) (remote : List Byte) (kind : Nat)
  /-- R184. PACKET_REPLY: A read or atomic packet's reply reaches the warp, writes scratchpad and frees its tag. -/
  | packetReply (seq : Nat)
  /-- R148. PACKET_ACKNOWLEDGEMENT: A write packet's acknowledgement reaches the warp and frees its tag. -/
  | packetAcknowledgement (seq : Nat)
  /-- R168. FAULT_RESOLUTION: Firmware resolves a translation fault and the base die re-issues the request. -/
  | faultResolution (stack : Nat) (asid : Nat) (page : Nat) (entries : List (Nat × BitVec 64)) (frame : Option Nat)
  /-- R169. TRANSLATION_INVALIDATION: Firmware invalidates translation cache entries by identifier and range. -/
  | translationInvalidation (stack : Nat) (asid : Nat) (page : Nat) (n : Nat) (entries : List (Nat × BitVec 64))
  /-- R171. COPY_OUT: Firmware starts moving a frame to a peer stack. -/
  | copyOut (stack : Nat) (frame : Nat) (loc : Nat) (pframe : Nat)
  /-- R171. COPY_BACK: Firmware starts returning a moved frame to its home. -/
  | copyBack (stack : Nat) (frame : Nat)
  /-- R171. MIGRATION_SWITCH: After the last granule is copied the base die holds requests, switches STATE and releases them. -/
  | migrationSwitch (stack : Nat) (frame : Nat)
  /-- R173. MQ_ACK: Firmware acknowledges a frame, clearing QUEUED and its counters. -/
  | mqAck (stack : Nat) (frame : Nat)
  /-- R165. SCRUB: Firmware reads and writes back idle memory, correcting errors. -/
  | scrub (stack : Nat) (granule : Nat)
  /-- R193. COPY_SIGNAL: A copy chain's SIGNAL performs, adding bytes to its barrier and freeing lines. -/
  | copySignal (seq : Nat) (entry : Nat) (pass : Nat)
  /-- R193. COPY_COMPLETION: A copy completes and CPY falls in issue order. -/
  | copyCompletion (seq : Nat)
  /-- R272. WORK_DISTRIBUTOR_ANSWER: The work distributor answers a GETWORK request with the next index or the end token. -/
  | workDistributorAnswer (seq : Nat) (bad : Bool)
  /-- R321. GETWORK_ANSWER: A GETWORK answer arrives in scratchpad and QRY completes. -/
  | getworkAnswer (seq : Nat)
  /-- R250. MATRIX_STEP_COMPLETE: An engine step completes into its accumulator tile. -/
  | matrixStepComplete (lid : Nat) (gang : Nat) (num : Nat) (ix : Nat)
  /-- R255. ACCUMULATOR_TRANSFER_COMPLETE: An ALD or AST finishes its element transfers and MTX falls. -/
  | accumulatorTransferComplete (lid : Nat) (gang : Nat) (num : Nat) (seq : Nat)
  /-- R280. MERGE_TAKE: Estuary takes the next eligible head packet of a merge group. -/
  | mergeTake (group : Nat)
  /-- R278. DOORBELL: A doorbell write makes Estuary read the ring's WPTR again. -/
  | doorbell (ring : Nat)
  /-- R278. WPTR_REREAD: Estuary rereads each running ring's WPTR at least every 10 µs. -/
  | wptrReread
  /-- R292. LAUNCH: A LAUNCH packet is taken, checked, given an identifier and its prologue pass starts. -/
  | launchPacket (group : Nat)
  /-- R285. JOB: A JOB packet makes its job current on the ring, opening it if needed. -/
  | jobPacket (group : Nat)
  /-- R285. WAITCNT: A WAITCNT packet whose condition holds completes COMPLETED. -/
  | waitcnt (group : Nat)
  /-- R285. WAITCNT_TIMEOUT: A WAITCNT's timeout passes and it completes TIMEOUT. -/
  | waitcntTimeout (group : Nat)
  /-- R285. SIGNAL_WRITE: A SIGNAL packet of kind 0 writes its value with a device-scope release. -/
  | signalWrite (group : Nat)
  /-- R285. SIGNAL_START: A SIGNAL packet of kind 1 starts a Tideway instance. -/
  | signalStart (group : Nat)
  /-- R285. CANCEL_LAUNCH: A CANCEL packet of kind 0 cancels the most recent launch with a ring and tag. -/
  | cancelLaunch (group : Nat)
  /-- R75. CANCEL_JOB_PACKET: A CANCEL packet of kind 1 cancels every launch of an open job. -/
  | cancelJobPacket (group : Nat)
  /-- R360. METERSNAP: A METERSNAP packet samples a meter and writes a signed snapshot. -/
  | metersnap (group : Nat)
  /-- R280. SKIP: A SKIP packet at the head is consumed. -/
  | skipPacket (ring : Nat)
  /-- R292. PROLOGUE_TIMEOUT: A prologue pass's 10 µs budget passes and the pass ends. -/
  | prologueTimeout (lid : Nat)
  /-- R292. REPETITION_PASS: Under LREPEAT a new prologue pass starts after the previous launch's completion record. -/
  | repetitionPass (ring : Nat)
  /-- R286. COMPLETION_RECORD: The front end writes a completion record with a release and signals the interrupt. -/
  | completionRecord (ix : Nat)
  /-- R303. GANG_PLACEMENT: The scheduler places, or resumes, a gang on the best-fitting cores of a cluster. -/
  | gangPlacement (part : Nat)
  /-- R305. GATHER_GRANT: After 50 µs a waiting candidate gang is granted gather on a cluster. -/
  | gatherGrant (part : Nat)
  /-- R305. GATHER_PREEMPTION: At the gather limit, gangs on target cores are pre-empted mid-phase. -/
  | gatherPreemption (cluster : Nat)
  /-- R140. PREEMPT_MID: A gang is drained and its context image written, freeing its cores. `places` are the areas
  firmware gives the images of its blocks, as `2^36 * stack + physical address`. -/
  | preemptMid (lid : Nat) (gang : Nat) (places : List Nat)
  /-- R140. RESUME: A parked or saved gang is restored on cores of its cluster. -/
  | resume (lid : Nat) (gang : Nat)
  /-- R307. EXPIRY: A launch's deadline passes and the front end records the expiry. -/
  | expiry (lid : Nat)
  /-- R307. BUDGET_END: The wrap-up budget ends and remaining warps are killed and gangs discarded. -/
  | budgetEnd (lid : Nat)
  /-- R311. WATCHDOG: A warp's watchdog counter reaches its limit and its gang is killed. -/
  | watchdog (w : WarpRef)
  /-- R138. HW_INTERNAL: A parity or protocol error inside the device raises a machine check. -/
  | hwInternal (w : Option WarpRef) (cluster : Nat) (core : Option Nat)
  /-- R146. FATAL: A fatal event freezes every Strandline ring and the standby copies them to flash. -/
  | fatalEvent (active : Bool) (detail : Word)
  /-- R212. TIDE_TICK: The device-time unit delivers the next tide tick to every core. -/
  | tideTick
  /-- R143. DEBUG_RESUME: The debugger resumes a stopped gang. -/
  | debugResume (lid : Nat) (gang : Nat) (causes : List Nat)
  /-- R143. DEBUG_STEP_FORWARD: The debugger steps one warp forward by one instruction. -/
  | debugStepForward (w : WarpRef)
  /-- R144. DEBUG_STEP_BACK: The debugger undoes the youngest undo-log entry of one warp. -/
  | debugStepBack (w : WarpRef)
  /-- R143. DEBUG_IMAGE_ACCESS: The debugger reads or writes a stopped gang's image through firmware. -/
  | debugImageAccess (lid : Nat) (gang : Nat) (num : Nat) (image : Option (List Byte))
  /-- R348. INSTANCE_START: A Tideway start leaves the queue, is numbered and its operations become eligible. -/
  | instanceStart (die : Nat)
  /-- R340. CHUNK_SEND: A SEND operation fires and transmits its chunk to a peer. -/
  | chunkSend (op : OpRef)
  /-- R340. CHUNK_RECV: A RECV operation fires and writes the arrived chunk. -/
  | chunkRecv (op : OpRef)
  /-- R340. CHUNK_RED: A RED operation fires and reduces the arrived chunk into the buffer. -/
  | chunkRed (op : OpRef)
  /-- R342. CHUNK_RED_DISPATCH: A RED.dispatch writes its chunk and counts down its slot's reduce block. -/
  | chunkRedDispatch (op : OpRef)
  /-- R340. CHUNK_COPY: A schedule COPY operation fires and moves bytes between chunks. -/
  | chunkCopy (op : OpRef)
  /-- R340. CHUNK_WAIT: A WAIT operation fires once its arrivals and inputs are present. -/
  | chunkWait (op : OpRef)
  /-- R346. DATA: A DATA chunk arrives and is answered or held in the matching store. -/
  | dataChunk (die : Nat) (rank : Nat) (hdr : List Byte) (data : List (Byte × Bool)) (check : Bool)
  /-- R346. TOKEN: A TOKEN chunk arrives and is answered or held for a WAIT. -/
  | tokenChunk (die : Nat) (rank : Nat) (hdr : List Byte) (check : Bool)
  /-- R340. ACK: An acknowledgement arrives and produces a SEND's token. -/
  | ackChunk (die : Nat) (rank : Nat) (hdr : List Byte)
  /-- R331. NACK_SOFT: A soft rejection arrives and the SEND re-sends if retries remain. -/
  | nackSoft (die : Nat) (rank : Nat) (hdr : List Byte)
  /-- R348. NACK_HARD: A hard rejection arrives and the instance fails. -/
  | nackHard (die : Nat) (rank : Nat) (hdr : List Byte)
  /-- R348. NACK_FAILED: A NACK_FAILED arrives and the instance enters RECOVERY. -/
  | nackFailed (die : Nat) (rank : Nat) (hdr : List Byte)
  /-- R348. FAIL: A FAIL chunk arrives and moves or holds the named instance toward failure. -/
  | failChunk (die : Nat) (rank : Nat) (hdr : List Byte) (check : Bool)
  /-- R331. ACK_TIMEOUT: ACKTO passes without an acknowledgement and the SEND re-sends or fails. -/
  | ackTimeout (op : OpRef)
  /-- R348. INSTANCE_IDLE_TIMEOUT: An instance makes no progress for ITIMEOUT and fails with kind 4. -/
  | instanceIdleTimeout (die : Nat) (sched : Nat) (inst : Nat)
  /-- R343. REDUCE_BLOCK_END: A dispatched reduce block ends and its RED.dispatch operations produce tokens. -/
  | reduceBlockEnd (lid : Nat)
  /-- R335. SCHEDULE_LOAD: Firmware checks a load record and copies a schedule into an engine. -/
  | scheduleLoad (part : Nat) (die : Nat) (addr : DWord)
  /-- R335. SCHEDULE_UNLOAD: Firmware unloads a schedule with no live instance. -/
  | scheduleUnload (part : Nat) (die : Nat) (sched : Nat)
  /-- R276. RING_REGISTRATION: Firmware registers a ring with its header, body, group and partition. -/
  | ringRegistration (ring : Nat) (hdr : DWord) (body : DWord) (k : Nat) (group : Nat) (part : Nat) (vec : Nat)
  /-- R279. RING_DEREGISTRATION: Firmware deregisters a ring. -/
  | ringDeregistration (ring : Nat)
  /-- R279. RING_RESET: Firmware resets a halted ring to a given RPTR. -/
  | ringReset (ring : Nat) (rptr : Word)
  /-- R289. CODE_OBJECT_REGISTRATION: Firmware checks, measures and write-protects a code object. -/
  | codeObjectRegistration (part : Nat) (asid : Nat) (addr : DWord)
  /-- R166. ASID_ENABLE: Firmware enables an address-space identifier in a partition's stacks. -/
  | asidEnable (part : Nat) (asid : Nat) (roots : List (BitVec 64))
  /-- R166. ASID_DISABLE: Firmware disables an address-space identifier with invalidation. -/
  | asidDisable (part : Nat) (asid : Nat)
  /-- R368. TENANCY_REQUEST: Firmware allots a tenancy and its licensor key digest to a partition. -/
  | tenancyRequest (part : Nat) (num : Nat) (key : BitVec 256)
  /-- R368. METER_REQUEST: Firmware allots a meter to a partition and tenancy. -/
  | meterRequest (meter : Nat) (part : Nat) (tenancy : Nat)
  /-- R368. RELEASE_REQUEST: Firmware returns a meter to no partition. -/
  | releaseRequest (meter : Nat)
  /-- R280. HOLD_REQUEST: Firmware sets a merge group's HOLD time. -/
  | holdRequest (group : Nat) (ns : Nat) (part : Nat)
  /-- R295. LIVE_UPDATE: The standby boots a new image, Estuary pauses, state moves and the standby becomes active. -/
  | liveUpdate (slot : Nat) (imported : Option Bool)
  /-- R363. PARTITION_CUT: Firmware changes the partition cut of idle partitions. -/
  | partitionCut (cut : List CutPart)
  /-- R363. PARTITION_RESET: A partition reset kills its gangs, halts its rings and fails its instances. -/
  | partitionReset (part : Nat)
  /-- R362. SET_DEVICE_TIME: Firmware sets device time once before the first ring is registered. -/
  | setDeviceTime (ns : Nat)
  /-- R362. PPS_INPUT: A PPS pulse disciplines the rate of device time. -/
  | ppsInput (offset : Word) (locked : Bool)
  /-- R362. PTP_EVENT_MESSAGE: An IEEE 1588 event message is timestamped at the port and disciplines device time. -/
  | ptpEventMessage (port : Nat) (domain : Nat) (offset : Word) (locked : Bool)
  /-- R356. ATTESTATION: The security processor signs an attestation report for a nonce. -/
  | attestation (nonce : List Byte)
  /-- R356. MEASUREMENT_LOG_READ: The security mailbox returns the measurement log. -/
  | measurementLogRead
  /-- R361. CHIP_RETIREMENT: A retirement request makes metered pages fault. -/
  | chipRetirement
  /-- R361. FINAL_STATEMENT: Once in-flight replies have left, the final signed statement is written and the journal marked retired. -/
  | finalStatement
  /-- R358. METER_REFRESH: The security processor refreshes meter sums and base-die allowances. -/
  | meterRefresh (meter : Nat) (allow : List Nat)
  /-- R358. JOURNAL_WRITE: A new meter bound performs in flash and the allowances are raised. -/
  | journalWrite (meter : Nat) (allow : List Nat)
  /-- R364. RESET: Reset runs bring-up: rails, firmware, identity, stacks and links. -/
  | resetMachine (stop : Option Nat)
  /-- R358. POWER_LOSS: Power is lost; meters and sequence numbers resume from their journalled bounds. -/
  | powerLoss
  /-- R364. CAPPED_MODE: Capped mode is entered or left at a tide tick on request or the power-cap input. -/
  | cappedMode (on : Bool)
  /-- R296. HOST_WINDOW_ACCESS: A host access through BAR2 is performed at the owning base die. -/
  | hostWindowAccess (part : Nat) (off : Nat) (n : Nat) (data : Option (List Byte))
  /-- R215. TRANSMIT_COMMAND: An Ethernet, storage or host-DMA transmit engine takes a command with a device-scope acquire. -/
  | transmitCommand (part : Nat) (asid : Nat) (addr : DWord) (n : Nat)
  /-- R366. REGISTER_WRITE: A write to a control register that has no row of its own. -/
  | registerWrite (off : Nat) (x : Word) (firmware : Bool)
  /-- R189. COPY_ELEMENT_WRITE: The copy engine performs one element write of a chain, into scratchpad or memory, possibly as a reduction, or fails it with a fault kind. -/
  | copyElementWrite (seq : Nat) (entry : Nat) (pass : Nat) (elem : Nat) (targ : Nat) (remote : List Byte) (rkind : Nat) (wkind : Nat)
  /-- R171. MIGRATION_GRANULE_COPY: The base die copies the next granule of a frame in COPY_OUT or COPY_BACK, atomically, so that later writes to it also perform at the destination. -/
  | migrationGranuleCopy (stack : Nat) (frame : Nat)
  /-- R347. LINK_CREDIT: A receiving Tideway engine grants a peer credit in 4 KiB units, letting a stalled SEND transmit its chunk. -/
  | linkCredit (die : Nat) (rank : Nat) (grant : Grant)
  /-- R362. HOLDOVER: The time unit loses its PPS or IEEE 1588 reference and enters holdover, counting THOLD while device time keeps running. -/
  | holdover (us : Nat)
  /-- R152. DOMAIN_CONFIGURATION: Firmware configures the load-store domain, giving each package its rank and fixing the domain's shape X, Y and Z. -/
  | domainConfiguration (rank : Nat) (x : Nat) (y : Nat) (z : Nat)
deriving DecidableEq, Repr

end Sys2Proof
end

