-- ==== Sys2Proof/WellFormed.lean ====
section
/-! DEFINITION. When an instruction is one the encoding tables list: the legality of types, rounding, saturation,
operand modifiers and unused fields that R42 asks of a word. A term that fails `Instr.wf` has no encoding, and a word
that would decode to it is an unassigned encoding. Name fields are checked apart, by R22 (`Instr.reserved`). -/
namespace Sys2Proof

/-- The integer types of R26. -/
def Ty.isInt : Ty → Bool
  | .s8 | .n8 | .s16 | .n16 | .s32 | .n32 | .s64 | .n64 => true
  | _ => false

/-- The floating types of R26. -/
def Ty.isFp (t : Ty) : Bool := !t.isInt

/-- The packed types of R26. -/
def Ty.packed : Ty → Bool
  | .f16 | .bf16 => true
  | _ => false

/-- The types held in an even/odd row pair (R26). -/
def Ty.wide : Ty → Bool
  | .s64 | .n64 | .f64 => true
  | _ => false

/-- The types at which signedness is fixed and the width is 32 or 64 (R104, "widths"). -/
def Ty.isWidth : Ty → Bool
  | .s32 | .n32 | .s64 | .n64 => true
  | _ => false

/-- The types of IABS and INEG (R104). -/
def Ty.isSigned : Ty → Bool
  | .s8 | .s16 | .s32 | .s64 => true
  | _ => false

/-- The narrow types of PACKI and UNPKI (R269). -/
def Ty.isNarrow : Ty → Bool
  | .s8 | .n8 | .s16 | .n16 => true
  | _ => false

namespace ModWord

/-- No third source is named: C and CS are unused and zero. -/
def noC (m : ModWord) : Bool := m.c == 0 && !m.cs
/-- No operand modifier on a. -/
def noA (m : ModWord) : Bool := !m.na && !m.aa
/-- No operand modifier on b. -/
def noB (m : ModWord) : Bool := !m.nb && !m.ab
/-- No operand modifier on c. -/
def noCMod (m : ModWord) : Bool := !m.nc && !m.ac
/-- No operand modifier at all. -/
def noMods (m : ModWord) : Bool := m.noA && m.noB && m.noCMod
/-- The rounding field is 00. -/
def rnOnly (m : ModWord) : Bool := m.rm == .rn

/-- The modifier word of an integer instruction with the types `ty`, with `.sat` when `sat` (R103). -/
def intOk (m : ModWord) (ty : Ty → Bool) (sat third : Bool) : Bool :=
  ty m.t && m.rnOnly && m.noMods && (sat || !m.sat) && (third || m.noC)

/-- The modifier word of a floating-point instruction of `srcs` sources (R111). -/
def fpOk (m : ModWord) (ty : Ty → Bool) (rm : Bool) (srcs : Nat) : Bool :=
  ty m.t && !m.sat && (rm || m.rnOnly) && (decide (2 ≤ srcs) || m.noB)
    && (decide (3 ≤ srcs) || (m.noCMod && m.noC))

end ModWord

/-- The types of FDIV and FSQRT (R111). -/
def Ty.isDiv : Ty → Bool
  | .f64 | .f32 => true
  | _ => false

/-- The one type of the special-function instructions (R117). -/
def Ty.isF32 : Ty → Bool
  | .f32 => true
  | _ => false

/-- The wide types of PKF8 and UPF8 (R120, R121). -/
def Ty.isF8Wide : Ty → Bool
  | .f32 | .f16 | .bf16 => true
  | _ => false

/-- CVT's fields (R118): `.sat` between integers or between floating types, modifiers on floating sources, and the
b field as the kinds of source and destination give it. RM is taken at every pair of types, also where no result is inexact and
the spec does not say what it means: DESIGN CHOICE (log 52). -/
def cvtOk (r : LrM) (t2 : Ty) : Bool :=
  let m := r.m
  let mix := t2.packed && !m.t.packed
  m.noC && m.noCMod && (m.t.isFp == t2.isFp || !m.sat)
    && (m.t.isFp || m.noA) && ((m.t.isFp && mix) || m.noB)
    && (mix || (!r.bs && (r.b == 0 || (r.b == 1 && m.t.packed && !t2.packed))))

/-- The semantics a load or PKRD may carry, with `.rmt` only beside `.acq` (R30). -/
def loadSem (s : Sem) (rmt : Bool) : Bool :=
  match s with
  | .rlx => !rmt
  | .acq => true
  | _ => false

/-- The semantics a store or PKWR may carry (R30). -/
def storeSem : Sem → Bool
  | .rlx | .rel => true
  | _ => false

/-- The literal of BCAST without BS is a lane: b[5] is zero (R95). -/
def bcastOk (r : LrA) : Bool := r.bs || !r.b.getLsbD 5

/-- AMOVV's fields (R256): with an INT32 accumulator and a .s32 result, b, RM and .sat are zero. -/
def amovOk (r : AmovOp) : Bool :=
  !(r.s32 && r.t == .s32) || (r.b == 0 && r.rm == .rn && !r.sat)

/-- Legal by the encoding tables (R42). An event has no encoding and no fields to check here. DESIGN CHOICE: UPF8 takes no operand
modifier (log 15). -/
def Instr.wf : Instr → Bool
  | .iaddModw r | .isubModw r | .imulModw r => r.m.intOk Ty.isInt true false
  | .imad r => r.m.intOk Ty.isInt true true
  | .imulhModw r => r.m.intOk Ty.isWidth false false
  | .iminModw r | .imaxModw r => r.m.intOk Ty.isInt false false
  | .icmpModw _ _ r => r.m.intOk Ty.isInt false false
  | .andLaneModw r | .orLaneModw r | .xorLaneModw r | .shlModw r | .shrModw r | .sraModw r | .rotModw r
  | .bfeModw r => r.m.intOk Ty.isWidth false false
  | .bfi r => r.m.intOk Ty.isWidth false true
  | .sel r => r.m.intOk Ty.isWidth false true && !r.m.cs
  | .iabsModw r | .inegModw r => r.m.intOk Ty.isSigned true false
  | .popcModw r | .clzModw r | .brevModw r => r.m.intOk Ty.isWidth false false
  | .dp4 r => r.m.intOk (fun t => t == .s8 || t == .n8) true true
  | .asa r => r.m.intOk (fun t => t == .s32) true true
  | .packi r => r.m.intOk Ty.isNarrow true true && !r.m.cs
      && (r.m.c == 0 || (r.m.c == 1 && (r.m.t == .s8 || r.m.t == .n8)))
  | .unpki r => r.m.intOk Ty.isNarrow false true && !r.m.cs && r.b == 0 && !r.bs
      && (r.m.c == 0 || (r.m.c == 1 && (r.m.t == .s8 || r.m.t == .n8)))
  | .faddModw r | .fsubModw r | .fmulModw r => r.m.fpOk Ty.isFp true 2
  | .ffma r => r.m.fpOk Ty.isFp true 3
  | .fminModw r | .fmaxModw r => r.m.fpOk Ty.isFp false 2
  | .fcmpModw _ _ r => r.m.fpOk Ty.isFp false 2
  | .fdivModw r => r.m.fpOk Ty.isDiv true 2
  | .fclassModw r => r.m.fpOk Ty.isFp false 1
  | .frndModw r => r.m.fpOk Ty.isFp true 1
  | .fsqrtModw r => r.m.fpOk Ty.isDiv true 1
  | .frcpModw r | .frsqModw r | .fexp2Modw r | .flog2Modw r | .fsinModw r | .fcosModw r =>
      r.m.fpOk Ty.isF32 false 1
  | .cvt r t2 => cvtOk r t2
  | .pkf8 r _ => r.m.t.isF8Wide && r.m.noC && r.m.noCMod
  | .upf8 r _ => r.m.t.isF8Wide && r.m.noC && r.m.noMods && r.m.rnOnly && !r.m.sat && r.b == 0 && !r.bs
  | .bcast _ r => bcastOk r
  | .ldLong _ w => loadSem w.sem w.rmt
  | .stLong _ w => storeSem w.sem
  | .atom _ w => (!w.rmt || w.sem == .acq) && (w.op == .cas || w.c == 0)
  | .pkrd r => loadSem r.sem r.x
  | .pkwr r => storeSem r.sem
  | .fence sc scope => !sc || scope == .device
  | .amovv r => amovOk r
  | _ => true

/-- A well-formed instruction: one the encoding tables list. -/
abbrev Instr.WellFormed (i : Instr) : Prop := i.wf = true

end Sys2Proof
end

