-- ==== Sys2Proof/Decode.lean ====
section
/-! DEFINITION. Decoding (R18 to R42), total on any words and rejecting by name; the name checks of R22 and the decode
order of R43; and the encoder, written from the same tables. -/
namespace Sys2Proof

/-- Why a word is no instruction (R42). -/
inductive Reject where
  /-- a major opcode that R35 or R38 marks unassigned -/
  | opcode
  /-- a selector, function, mod, condition, class, code or type value that no entry lists -/
  | selector
  /-- a reserved bit or field that is not zero -/
  | field
  /-- a required extension word that is missing -/
  | missingExt
deriving DecidableEq, Repr

/-! ### Fields of a word (R21) -/

/-- Bits [30:25] under bit 31: the set and the major opcode. -/
def fOp (w : Word) : BitVec 7 := w.extractLsb' 25 7
/-- [24:19]. -/
def fD (w : Word) : Name := w.extractLsb' 19 6
/-- [18:13]. -/
def fA (w : Word) : Name := w.extractLsb' 13 6
/-- [12:7]. -/
def fB (w : Word) : Name := w.extractLsb' 7 6
/-- [6:3], the guard of LR and LM. -/
def fG (w : Word) : Guard := ⟨w.extractLsb' 4 3, w.getLsbD 3⟩
/-- [2:0], the mod field. -/
def fMod (w : Word) : BitVec 3 := w.extractLsb' 0 3
/-- [12:4] of LI. -/
def fImm9 (w : Word) : BitVec 9 := w.extractLsb' 4 9
/-- [3:0], the guard of LI. -/
def fGI (w : Word) : Guard := ⟨w.extractLsb' 1 3, w.getLsbD 0⟩
/-- [6:0], the function of GR. -/
def fFn (w : Word) : BitVec 7 := w.extractLsb' 0 7
/-- [12:0] of GI. -/
def fImm13 (w : Word) : BitVec 13 := w.extractLsb' 0 13
/-- [12:8] of GX. -/
def fCls (w : Word) : BitVec 5 := w.extractLsb' 8 5
/-- [7:0] of GX. -/
def fFn8 (w : Word) : Byte := w.extractLsb' 0 8
/-- [24:21] of GB. -/
def fCond (w : Word) : BitVec 4 := w.extractLsb' 21 4
/-- [20:15] of GB. -/
def fNm (w : Word) : Name := w.extractLsb' 15 6
/-- [14:0] of GB. -/
def fOff15 (w : Word) : BitVec 15 := w.extractLsb' 0 15
/-- [20:0] of GB. -/
def fOff21 (w : Word) : BitVec 21 := w.extractLsb' 0 21

/-! ### Words from fields -/

/-- A Boolean as one bit. -/
def bit (b : Bool) : BitVec 1 := BitVec.ofBool b

/-- Format LR or LM (R21). -/
def packLR (op : BitVec 7) (d a b : Name) (g : Guard) (mod : BitVec 3) : Word :=
  op ++ d ++ a ++ b ++ g.p ++ bit g.neg ++ mod
/-- Format LI (R21). -/
def packLI (op : BitVec 7) (d a : Name) (imm : BitVec 9) (g : Guard) : Word :=
  op ++ d ++ a ++ imm ++ g.p ++ bit g.neg
/-- Format GR (R21). -/
def packGR (op : BitVec 7) (d a b : Name) (fn : BitVec 7) : Word := op ++ d ++ a ++ b ++ fn
/-- Format GI (R21). -/
def packGI (op : BitVec 7) (d a : Name) (imm : BitVec 13) : Word := op ++ d ++ a ++ imm
/-- Format GX (R21). -/
def packGX (op : BitVec 7) (f s : Name) (cls : BitVec 5) (fn : Byte) : Word := op ++ f ++ s ++ cls ++ fn
/-- Format GB with a name (R21). -/
def packGN (op : BitVec 7) (c : BitVec 4) (n : Name) (off : BitVec 15) : Word := op ++ c ++ n ++ off
/-- Format GB without a name (R21). -/
def packGB (op : BitVec 7) (off : BitVec 21) : Word := op ++ (0#4) ++ off

/-! ### Codes -/

/-- R26. -/
def Ty.code : Ty → BitVec 4
  | .s8 => 0 | .n8 => 1 | .s16 => 2 | .n16 => 3 | .s32 => 4 | .n32 => 5 | .s64 => 6 | .n64 => 7
  | .f16 => 8 | .bf16 => 9 | .f32 => 10 | .f64 => 11
/-- R26. -/
def Ty.ofCode (c : BitVec 4) : Option Ty :=
  match c.toNat with
  | 0 => some .s8 | 1 => some .n8 | 2 => some .s16 | 3 => some .n16
  | 4 => some .s32 | 5 => some .n32 | 6 => some .s64 | 7 => some .n64
  | 8 => some .f16 | 9 => some .bf16 | 10 => some .f32 | 11 => some .f64 | _ => none
/-- R25. -/
def Rm.code : Rm → BitVec 2
  | .rn => 0 | .rz => 1 | .ru => 2 | .rd => 3
/-- R25. -/
def Rm.ofCode (c : BitVec 2) : Rm :=
  match c.toNat with
  | 0 => .rn | 1 => .rz | 2 => .ru | _ => .rd
/-- R27. -/
def ICond.code : ICond → BitVec 3
  | .eq => 0 | .ne => 1 | .lt => 2 | .le => 3 | .gt => 4 | .ge => 5
/-- R27. -/
def ICond.ofCode (c : BitVec 3) : Option ICond :=
  match c.toNat with
  | 0 => some .eq | 1 => some .ne | 2 => some .lt | 3 => some .le | 4 => some .gt | 5 => some .ge | _ => none
/-- R27. -/
def FCond.code : FCond → BitVec 3
  | .eq => 0 | .ne => 1 | .lt => 2 | .le => 3 | .gt => 4 | .ge => 5 | .un => 6 | .ord => 7
/-- R27. -/
def FCond.ofCode (c : BitVec 3) : FCond :=
  match c.toNat with
  | 0 => .eq | 1 => .ne | 2 => .lt | 3 => .le | 4 => .gt | 5 => .ge | 6 => .un | _ => .ord
/-- R28. -/
def UCond.code : UCond → BitVec 4
  | .eq => 0 | .ne => 1 | .ltS => 2 | .leS => 3 | .gtS => 4 | .geS => 5
  | .ltN => 6 | .leN => 7 | .gtN => 8 | .geN => 9
/-- R28. -/
def UCond.ofCode (c : BitVec 4) : Option UCond :=
  match c.toNat with
  | 0 => some .eq | 1 => some .ne | 2 => some .ltS | 3 => some .leS | 4 => some .gtS | 5 => some .geS
  | 6 => some .ltN | 7 => some .leN | 8 => some .gtN | 9 => some .geN | _ => none
/-- R29. -/
def BrCond.code : BrCond → BitVec 4
  | .nz => 1 | .z => 2 | .neg => 3 | .nneg => 4 | .all => 5 | .any => 6 | .noneOf => 7
/-- R29. -/
def BrCond.ofCode (c : BitVec 4) : Option BrCond :=
  match c.toNat with
  | 1 => some .nz | 2 => some .z | 3 => some .neg | 4 => some .nneg | 5 => some .all | 6 => some .any
  | 7 => some .noneOf | _ => none
/-- R93. -/
def ShflMode.code : ShflMode → BitVec 2
  | .idx => 0 | .up => 1 | .dn => 2 | .xor => 3
/-- R93. -/
def ShflMode.ofCode (c : BitVec 2) : ShflMode :=
  match c.toNat with
  | 0 => .idx | 1 => .up | 2 => .dn | _ => .xor
/-- R94. -/
def VoteMode.code : VoteMode → BitVec 3
  | .all => 0 | .any => 1 | .eq => 2
/-- R94. -/
def VoteMode.ofCode (c : BitVec 3) : Option VoteMode :=
  match c.toNat with
  | 0 => some .all | 1 => some .any | 2 => some .eq | _ => none
/-- R30. -/
def Sem.code : Sem → BitVec 2
  | .rlx => 0 | .acq => 1 | .rel => 2 | .acqrel => 3
/-- R30. -/
def Sem.ofCode (c : BitVec 2) : Sem :=
  match c.toNat with
  | 0 => .rlx | 1 => .acq | 2 => .rel | _ => .acqrel
/-- R30. -/
def Scope.code : Scope → BitVec 2
  | .core => 0 | .cluster => 1 | .device => 2 | .domain => 3
/-- R30. -/
def Scope.ofCode (c : BitVec 2) : Scope :=
  match c.toNat with
  | 0 => .core | 1 => .cluster | 2 => .device | _ => .domain
/-- R31. -/
def Size.code : Size → BitVec 3
  | .b8 => 0 | .b16 => 1 | .b32 => 2 | .b64 => 3 | .b128 => 4
/-- R31, R32. -/
def Size.ofNat? (n : Nat) : Option Size :=
  match n with
  | 0 => some .b8 | 1 => some .b16 | 2 => some .b32 | 3 => some .b64 | 4 => some .b128 | _ => none
/-- R41. -/
def PkSize.code : PkSize → BitVec 2
  | .b64 => 0 | .b128 => 1 | .b256 => 2 | .b512 => 3
/-- R41. -/
def PkSize.ofCode (c : BitVec 2) : PkSize :=
  match c.toNat with
  | 0 => .b64 | 1 => .b128 | 2 => .b256 | _ => .b512
/-- R33. -/
def AtomOp.code : AtomOp → BitVec 4
  | .add => 0 | .minS => 1 | .minN => 2 | .maxS => 3 | .maxN => 4 | .and => 5 | .or => 6 | .xor => 7
  | .exch => 8 | .cas => 9 | .fadd => 10
/-- R33. -/
def AtomOp.ofCode (c : BitVec 4) : Option AtomOp :=
  match c.toNat with
  | 0 => some .add | 1 => some .minS | 2 => some .minN | 3 => some .maxS | 4 => some .maxN | 5 => some .and
  | 6 => some .or | 7 => some .xor | 8 => some .exch | 9 => some .cas | 10 => some .fadd | _ => none
/-- R34. -/
def Cls.code : Cls → BitVec 5
  | .pkt => 0 | .cpy => 1 | .mtx => 2 | .col => 3 | .qry => 4
/-- R34. -/
def Cls.ofCode (c : BitVec 5) : Option Cls :=
  match c.toNat with
  | 0 => some .pkt | 1 => some .cpy | 2 => some .mtx | 3 => some .col | 4 => some .qry | _ => none
/-- R242. -/
def FmtPair.code : FmtPair → BitVec 5
  | .bf16 => 0 | .f16 => 1 | .e4e4 => 2 | .e4e5 => 3 | .e5e4 => 4 | .e5e5 => 5 | .s8 => 6 | .c4 => 7
  | .t5s8 => 8 | .s8t5 => 9
/-- R242. -/
def FmtPair.ofCode (c : BitVec 5) : Option FmtPair :=
  match c.toNat with
  | 0 => some .bf16 | 1 => some .f16 | 2 => some .e4e4 | 3 => some .e4e5 | 4 => some .e5e4 | 5 => some .e5e5
  | 6 => some .s8 | 7 => some .c4 | 8 => some .t5s8 | 9 => some .s8t5 | _ => none
/-- R120. -/
def F8.code : F8 → BitVec 4
  | .e4 => 0 | .e5 => 1
/-- R120. -/
def F8.ofCode (c : BitVec 4) : Option F8 :=
  match c.toNat with
  | 0 => some .e4 | 1 => some .e5 | _ => none
/-- R256. -/
def AmovTy.code : AmovTy → BitVec 2
  | .f32 => 0 | .f16 => 1 | .bf16 => 2 | .s32 => 3
/-- R256. -/
def AmovTy.ofCode (c : BitVec 2) : AmovTy :=
  match c.toNat with
  | 0 => .f32 | 1 => .f16 | 2 => .bf16 | _ => .s32
/-- The special-register numbers of R315. -/
def SReg.code : SReg → BitVec 13
  | .caps => 0x000 | .warp => 0x001 | .block => 0x002 | .gang => 0x003 | .core => 0x004 | .cluster => 0x005
  | .stack => 0x006 | .launch => 0x008 | .launchh => 0x009 | .flg => 0x010 | .tpc => 0x020 | .tcause => 0x021
  | .tlanes => 0x022 | .taddr => 0x023 | .taddrh => 0x024 | .tinfo => 0x025 | .ebbpc => 0x028 | .ebbleft => 0x029
  | .time => 0x030 | .timeh => 0x031 | .dline => 0x032 | .dlineh => 0x033
/-- R315: a number not listed is unassigned. -/
def SReg.ofCode (c : BitVec 13) : Option SReg :=
  match c.toNat with
  | 0x000 => some .caps | 0x001 => some .warp | 0x002 => some .block | 0x003 => some .gang
  | 0x004 => some .core | 0x005 => some .cluster | 0x006 => some .stack | 0x008 => some .launch
  | 0x009 => some .launchh | 0x010 => some .flg | 0x020 => some .tpc | 0x021 => some .tcause
  | 0x022 => some .tlanes | 0x023 => some .taddr | 0x024 => some .taddrh | 0x025 => some .tinfo
  | 0x028 => some .ebbpc | 0x029 => some .ebbleft | 0x030 => some .time | 0x031 => some .timeh
  | 0x032 => some .dline | 0x033 => some .dlineh | _ => none

/-! ### Extension words -/

/-- The modifier word of R25, `t2` its [11:8]. -/
def ModWord.pack (m : ModWord) (t2 : BitVec 4) : Word :=
  m.c ++ bit m.cs ++ m.t.code ++ m.rm.code ++ bit m.sat ++ bit m.na ++ bit m.aa ++ bit m.nb ++ bit m.ab
    ++ bit m.nc ++ bit m.ac ++ t2 ++ (0#8)

/-- The modifier word read back, with its [11:8]; none where T is unassigned or a reserved bit is set. -/
def ModWord.parse (x : Word) : Option (ModWord × BitVec 4) :=
  if x.extractLsb' 0 8 != 0#8 then none
  else match Ty.ofCode (x.extractLsb' 21 4) with
    | none => none
    | some t => some (⟨x.extractLsb' 26 6, x.getLsbD 25, t, Rm.ofCode (x.extractLsb' 19 2), x.getLsbD 18,
        x.getLsbD 17, x.getLsbD 16, x.getLsbD 15, x.getLsbD 14, x.getLsbD 13, x.getLsbD 12⟩, x.extractLsb' 8 4)

/-- The memory word of R32. -/
def packMem (c : Name) (aop : BitVec 4) (rmt : Bool) (scope : Scope) (sem : Sem) (size : BitVec 4) : Word :=
  (0#11) ++ c ++ (0#2) ++ aop ++ bit rmt ++ scope.code ++ sem.code ++ size

/-- The reserved bits of the memory word are zero (R32). -/
def memReservedZero (x : Word) : Bool := x.extractLsb' 21 11 == 0#11 && x.extractLsb' 13 2 == 0#2

/-! ### Decoding -/

/-- What a decoded first word asks for: a whole instruction, or the rest from an extension word. -/
inductive Parsed where
  | whole (i : Instr)
  | more (k : Word → Except Reject Instr)

/-- A selector that answers or is unassigned. -/
def pick {α : Type} (o : Option α) (k : α → Parsed) : Except Reject Parsed :=
  match o with
  | some x => .ok (k x)
  | none => .error .selector

/-- A first word whose unused fields must be zero. -/
def need (zero : Bool) (p : Except Reject Parsed) : Except Reject Parsed := if zero then p else .error .field

/-- A whole instruction. -/
def one (i : Instr) : Except Reject Parsed := .ok (.whole i)

/-- An instruction whose modifier word has [11:8] zero (R25). -/
def withMod (k : ModWord → Instr) : Parsed :=
  .more fun x => match ModWord.parse x with
    | some (m, t2) => if t2 == 0#4 then .ok (k m) else .error .field
    | none => .error .selector

/-- An LR arithmetic instruction with two sources: mod[2] announces the modifier word, mod[1] must be zero (R24). -/
def lrInt (w : Word) (short : LrA → Instr) (long : LrM → Instr) : Except Reject Parsed :=
  let bs := (fMod w).getLsbD 0
  if (fMod w).getLsbD 1 then .error .selector
  else if (fMod w).getLsbD 2 then .ok (withMod fun m => long ⟨fD w, fA w, fB w, fG w, bs, m⟩)
  else one (short ⟨fD w, fA w, fB w, fG w, bs⟩)

/-- An LR instruction that requires its modifier word (R24). -/
def lrLong (w : Word) (long : LrM → Instr) : Except Reject Parsed :=
  let bs := (fMod w).getLsbD 0
  if (fMod w).getLsbD 1 || !(fMod w).getLsbD 2 then .error .selector
  else .ok (withMod fun m => long ⟨fD w, fA w, fB w, fG w, bs, m⟩)

/-- CVT, PKF8 and UPF8: the modifier word's [11:8] is a code of the entry (R25). -/
def lrLongT2 {α : Type} (w : Word) (code : BitVec 4 → Option α) (long : LrM → α → Instr) : Except Reject Parsed :=
  let bs := (fMod w).getLsbD 0
  if (fMod w).getLsbD 1 || !(fMod w).getLsbD 2 then .error .selector
  else .ok (.more fun x => match ModWord.parse x with
    | some (m, t2) => match code t2 with
      | some k => .ok (long ⟨fD w, fA w, fB w, fG w, bs, m⟩ k)
      | none => .error .selector
    | none => .error .selector)

/-- A floating-point LR instruction: mod[1] is NB when no modifier word follows (R24). -/
def lrFp (w : Word) (short : LrF → Instr) (long : LrM → Instr) : Except Reject Parsed :=
  let bs := (fMod w).getLsbD 0
  let nb := (fMod w).getLsbD 1
  if (fMod w).getLsbD 2 then
    if nb then .error .selector else .ok (withMod fun m => long ⟨fD w, fA w, fB w, fG w, bs, m⟩)
  else one (short ⟨fD w, fA w, fB w, fG w, bs, nb⟩)

/-- A unary LR instruction: mod[1:0] zero (R37). -/
def lrUn (w : Word) (short : LrU → Instr) (long : LrUM → Instr) : Except Reject Parsed :=
  if (fMod w).getLsbD 0 || (fMod w).getLsbD 1 then .error .selector
  else if (fMod w).getLsbD 2 then .ok (withMod fun m => long ⟨fD w, fA w, fG w, m⟩)
  else one (short ⟨fD w, fA w, fG w⟩)

/-- The guard of R13 that means unguarded; the forms of R23 that take no guard require it. -/
def Guard.unguarded : Guard := ⟨0, false⟩

/-- The condition half of a compare's d field (R27). -/
def dCond (w : Word) : BitVec 3 := (fD w).extractLsb' 3 3
/-- The p-name half of a compare's d field (R27). -/
def dP (w : Word) : PName := (fD w).extractLsb' 0 3

/-- The L-form map of R35 to R37. -/
def parseL (w : Word) : Except Reject Parsed :=
  let d := fD w
  let a := fA w
  let b := fB w
  let g := fG w
  let mod := fMod w
  match (fOp w).toNat with
  | 0x00 => lrInt w .iadd .iaddModw
  | 0x01 => lrInt w .isub .isubModw
  | 0x02 => lrInt w .imul .imulModw
  | 0x03 => lrInt w .imulh .imulhModw
  | 0x04 => lrLong w .imad
  | 0x05 => lrInt w .imin .iminModw
  | 0x06 => lrInt w .imax .imaxModw
  | 0x07 => match ICond.ofCode (dCond w) with
    | some c => lrInt w (fun r => .icmp c (dP w) ⟨r.a, r.b, r.g, r.bs⟩)
        (fun r => .icmpModw c (dP w) ⟨r.a, r.b, r.g, r.bs, r.m⟩)
    | none => .error .selector
  | 0x08 => lrInt w .andLane .andLaneModw
  | 0x09 => lrInt w .orLane .orLaneModw
  | 0x0A => lrInt w .xorLane .xorLaneModw
  | 0x0B => lrInt w .shl .shlModw
  | 0x0C => lrInt w .shr .shrModw
  | 0x0D => lrInt w .sra .sraModw
  | 0x0E => lrInt w .rot .rotModw
  | 0x0F => lrInt w .bfe .bfeModw
  | 0x10 => lrLong w .bfi
  | 0x11 => lrLong w .sel
  | 0x12 => match b.toNat with
    | 0 => lrUn w .iabs .iabsModw
    | 1 => lrUn w .ineg .inegModw
    | 2 => lrUn w .popc .popcModw
    | 3 => lrUn w .clz .clzModw
    | 4 => lrUn w .brev .brevModw
    | _ => .error .selector
  | 0x13 => lrLong w .dp4
  | 0x14 => if mod.getLsbD 1 || mod.getLsbD 2 then .error .selector
      else one (.unt5 ⟨d, a, b, g, mod.getLsbD 0⟩)
  | 0x15 => lrLong w .asa
  | 0x16 => lrLong w .packi
  | 0x17 => lrLong w .unpki
  | 0x18 => one (.iaddImm d a (fImm9 w) (fGI w))
  | 0x19 => one (.andImm d a (fImm9 w) (fGI w))
  | 0x1A => one (.orImm d a (fImm9 w) (fGI w))
  | 0x1B => one (.xorImm d a (fImm9 w) (fGI w))
  | 0x1C =>
      let k := (fImm9 w).extractLsb' 0 5
      need ((fImm9 w).extractLsb' 5 2 == 0#2) <|
      match ((fImm9 w).extractLsb' 7 2).toNat with
      | 0 => one (.shlImm d a k (fGI w))
      | 1 => one (.shrImm d a k (fGI w))
      | 2 => one (.sraImm d a k (fGI w))
      | _ => one (.rotImm d a k (fGI w))
  | 0x1D => pick (ICond.ofCode (dCond w)) fun c => .whole (.icmpS32Imm c (dP w) a (fImm9 w) (fGI w))
  | 0x1E => pick (ICond.ofCode (dCond w)) fun c => .whole (.icmpN32Imm c (dP w) a (fImm9 w) (fGI w))
  | 0x1F => need (a == 0) <| one (.movi d (fImm9 w) (fGI w))
  | 0x20 => lrFp w .fadd .faddModw
  | 0x21 => lrFp w .fsub .fsubModw
  | 0x22 => lrFp w .fmul .fmulModw
  | 0x23 => lrLong w .ffma
  | 0x24 => lrFp w .fmin .fminModw
  | 0x25 => lrFp w .fmax .fmaxModw
  | 0x26 => lrFp w (fun r => .fcmp (FCond.ofCode (dCond w)) (dP w) ⟨r.a, r.b, r.g, r.bs, r.nb⟩)
      (fun r => .fcmpModw (FCond.ofCode (dCond w)) (dP w) ⟨r.a, r.b, r.g, r.bs, r.m⟩)
  | 0x27 => lrFp w .fdiv .fdivModw
  | 0x28 => match b.toNat with
    | 0 => lrUn w .fclass .fclassModw
    | 1 => lrUn w .frnd .frndModw
    | 2 => lrUn w .fsqrt .fsqrtModw
    | 3 => lrUn w .frcp .frcpModw
    | 4 => lrUn w .frsq .frsqModw
    | 5 => lrUn w .fexp2 .fexp2Modw
    | 6 => lrUn w .flog2 .flog2Modw
    | 7 => lrUn w .fsin .fsinModw
    | 8 => lrUn w .fcos .fcosModw
    | _ => .error .selector
  | 0x29 => lrLongT2 w Ty.ofCode .cvt
  | 0x2A => lrLongT2 w F8.ofCode .pkf8
  | 0x2B => lrLongT2 w F8.ofCode .upf8
  | 0x2C => if mod != 4#3 then .error .selector
      else need (a == 0 && b == 0) (.ok (.more fun x => .ok (.moviLong d g x)))
  | 0x2D => need (b == 0 && mod == 0#3) <| one (.mov ⟨d, a, g⟩)
  | 0x2E => need (a == 0 && mod == 1#3) <| one (.splat d b g)
  | 0x2F => one (.shfl (ShflMode.ofCode (mod.extractLsb' 1 2)) ⟨d, a, b, g, mod.getLsbD 0⟩)
  | 0x30 => need (b == 0) <| pick (VoteMode.ofCode mod) fun m => .whole (.vote m ⟨d, a, g⟩)
  | 0x31 => need (b == 0 && mod == 0#3) <| one (.ballot ⟨d, a, g⟩)
  | 0x32 => need (!mod.getLsbD 2) <| one (.bcast (mod.getLsbD 1) ⟨d, a, b, g, mod.getLsbD 0⟩)
  | 0x33 => need (a == 0 && b == 0 && mod == 0#3) <| one (.laneid d g)
  | 0x34 => need (!mod.getLsbD 2) <| one (.plop (d.extractLsb' 0 3) (a.extractLsb' 0 3) (b.extractLsb' 0 3)
      (d.extractLsb' 3 3) (a.extractLsb' 3 3 ++ b.extractLsb' 3 3 ++ mod.extractLsb' 0 2) g)
  | 0x35 => need (g == Guard.unguarded && d == 0 && b == 0) <| match mod.toNat with
    | 0 => one (.split a)
    | 1 => need (a == 0) <| one .flip
    | 2 => need (a == 0) <| one .join
    | _ => .error .selector
  | 0x36 => need (g == Guard.unguarded && b == 0) <| match mod.toNat with
    | 0 => one (.aliasName d a)
    | 1 => need (a == 0) <| one (.drop d)
    | 2 => one (.swapn d a)
    | 3 => one (.mapq d a)
    | _ => .error .selector
  | 0x37 => need (g == Guard.unguarded) <| match mod.toNat with
    | 0 => need (d == 0) <| one (.give a b)
    | 1 => need (d == 0) <| one (.givex a b)
    | 2 => need (a == 0) <| one (.take d b)
    | _ => .error .selector
  | 0x38 => match mod.toNat with
    | 7 => .ok (.more fun x => match Size.ofNat? (x.extractLsb' 0 4).toNat with
        | some z => if memReservedZero x && x.extractLsb' 9 4 == 0#4 && x.extractLsb' 15 6 == 0#6 then
              .ok (.ldLong ⟨d, a, b, g⟩ ⟨x.getLsbD 8, Scope.ofCode (x.extractLsb' 6 2), Sem.ofCode (x.extractLsb' 4 2), z⟩)
            else .error .field
        | none => .error .selector)
    | n => pick (Size.ofNat? n) fun z => .whole (.ld ⟨d, a, b, g⟩ z)
  | 0x39 => match mod.toNat with
    | 7 => .ok (.more fun x => match Size.ofNat? (x.extractLsb' 0 4).toNat with
        | some z => if memReservedZero x && x.extractLsb' 9 4 == 0#4 && x.extractLsb' 15 6 == 0#6 && !x.getLsbD 8 then
              .ok (.stLong ⟨d, a, b, g⟩ ⟨Scope.ofCode (x.extractLsb' 6 2), Sem.ofCode (x.extractLsb' 4 2), z⟩)
            else .error .field
        | none => .error .selector)
    | n => pick (Size.ofNat? n) fun z => .whole (.st ⟨d, a, b, g⟩ z)
  | 0x3A => if mod != 7#3 then .error .selector
      else .ok (.more fun x => match AtomOp.ofCode (x.extractLsb' 9 4), (x.extractLsb' 0 4).toNat with
        | some op, 2 => if memReservedZero x then
              .ok (.atom ⟨d, a, b, g⟩ ⟨x.extractLsb' 15 6, op, x.getLsbD 8, Scope.ofCode (x.extractLsb' 6 2),
                Sem.ofCode (x.extractLsb' 4 2), false⟩)
            else .error .field
        | some op, 3 => if memReservedZero x then
              .ok (.atom ⟨d, a, b, g⟩ ⟨x.extractLsb' 15 6, op, x.getLsbD 8, Scope.ofCode (x.extractLsb' 6 2),
                Sem.ofCode (x.extractLsb' 4 2), true⟩)
            else .error .field
        | _, _ => .error .selector)
  | 0x3B => need (g == Guard.unguarded && a == 0) <| match mod.toNat with
    | 0 => one (.spill d b)
    | 1 => one (.fill d b)
    | _ => .error .selector
  | _ => .error .opcode

/-- The G-form map of R38 to R41. -/
def parseG (w : Word) : Except Reject Parsed :=
  let d := fD w
  let a := fA w
  let b := fB w
  let fn := fFn w
  let imm := fImm13 w
  let cls := fCls w
  let f8 := fFn8 w
  match (fOp w).toNat - 0x40 with
  | 0x00 => match fn.toNat with
    | 0x00 => one (.sadd d a b)
    | 0x01 => one (.ssub d a b)
    | 0x02 => one (.smul d a b)
    | 0x03 => one (.smulhS32 d a b)
    | 0x04 => one (.smulhN32 d a b)
    | 0x05 => one (.sand d a b)
    | 0x06 => one (.sor d a b)
    | 0x07 => one (.sxor d a b)
    | 0x08 => one (.sshl d a b)
    | 0x09 => one (.sshr d a b)
    | 0x0A => one (.ssra d a b)
    | 0x0B => one (.sminS32 d a b)
    | 0x0C => one (.sminN32 d a b)
    | 0x0D => one (.smaxS32 d a b)
    | 0x0E => one (.smaxN32 d a b)
    | _ =>
      if fn.extractLsb' 4 3 == 1#3 then
        pick (UCond.ofCode (fn.extractLsb' 0 4)) fun c => .whole (.scmp c d a b)
      else if fn.extractLsb' 3 4 == 4#4 then one (.ssel (fn.extractLsb' 0 3) d a b)
      else .error .selector
  | 0x01 => one (.saddImm d a imm)
  | 0x02 => one (.smulImm d a imm)
  | 0x03 => one (.sandImm d a imm)
  | 0x04 => one (.sorImm d a imm)
  | 0x05 => one (.sxorImm d a imm)
  | 0x06 =>
      let k := imm.extractLsb' 0 5
      need (imm.extractLsb' 5 6 == 0#6) <| match (imm.extractLsb' 11 2).toNat with
      | 0 => one (.sshlImm d a k)
      | 1 => one (.sshrImm d a k)
      | 2 => one (.ssraImm d a k)
      | _ => .error .selector
  | 0x07 =>
      let k := imm.extractLsb' 0 11
      match (imm.extractLsb' 11 2).toNat with
      | 0 => one (.sminS32Imm d a k)
      | 1 => one (.sminN32Imm d a k)
      | 2 => one (.smaxS32Imm d a k)
      | _ => one (.smaxN32Imm d a k)
  | 0x08 => pick (UCond.ofCode (imm.extractLsb' 9 4)) fun c => .whole (.scmpImm c d a (imm.extractLsb' 0 9))
  | 0x09 => match a.toNat with
    | 0 => one (.smovi d imm)
    | 1 => need (imm == 0#13) (.ok (.more fun x => .ok (.smoviLong d x)))
    | _ => .error .selector
  | 0x0A => one (.sld d a imm)
  | 0x0B => one (.sst d a imm)
  | 0x0C => need (a == 0 && imm.extractLsb' 4 9 == 0#9) <| one (.sldk d (imm.extractLsb' 0 4))
  | 0x10 => need (fCond w == 0#4) <| one (.bra (fOff21 w))
  | 0x11 => pick (BrCond.ofCode (fCond w)) fun c => .whole (.brc c (fNm w) (fOff15 w))
  | 0x12 => need (fCond w == 0#4) <| one (.loopn (fNm w) (fOff15 w))
  | 0x13 => need (fCond w == 0#4) <| one (.call (fOff21 w))
  | 0x14 => match fn.toNat with
    | 0 => need (d == 0 && a == 0 && b == 0) <| one .nop
    | 1 => need (d == 0 && b == 0) <| one (.jmpi a)
    | 2 => need (d == 0 && a == 0 && b == 0) <| one .ret
    | 3 => need (d == 0 && a == 0 && b == 0) <| one .exit
    | _ => .error .selector
  | 0x18 => need (cls.extractLsb' 3 2 == 0#2) <| one (.pkrd ⟨d, a, cls.extractLsb' 0 3, f8.getLsbD 7,
      Scope.ofCode (f8.extractLsb' 5 2), Sem.ofCode (f8.extractLsb' 3 2), f8.getLsbD 2, PkSize.ofCode (f8.extractLsb' 0 2)⟩)
  | 0x19 => need (cls.extractLsb' 3 2 == 0#2) <| one (.pkwr ⟨d, a, cls.extractLsb' 0 3, f8.getLsbD 7,
      Scope.ofCode (f8.extractLsb' 5 2), Sem.ofCode (f8.extractLsb' 3 2), f8.getLsbD 2, PkSize.ofCode (f8.extractLsb' 0 2)⟩)
  | 0x1A => if cls.getLsbD 4 then .error .selector
      else pick (AtomOp.ofCode (f8.extractLsb' 0 4)) fun op => .whole (.pkatom ⟨d, a, cls.getLsbD 3, cls.extractLsb' 0 3,
        Scope.ofCode (f8.extractLsb' 6 2), Sem.ofCode (f8.extractLsb' 4 2), op⟩)
  | 0x1B => need (d == 0 && a == 0 && cls == 0#5) <| one (.pkwait f8)
  | 0x1C => need (a == 0 && cls == 0#5 && f8 == 0#8) <| one (.copy d)
  | 0x1D => match f8.toNat with
    | 0 => need (cls == 0#5) <| one (.barinit d a)
    | 1 => need (a == 0 && cls == 0#5) <| one (.bararv d)
    | 2 => need (cls == 0#5) <| one (.barexp d a)
    | 3 => need (a == 0 && cls.extractLsb' 1 4 == 0#4) <| one (.barwt d (cls.getLsbD 0))
    | _ => .error .selector
  | 0x1E => need (d == 0 && a == 0) <| pick (Cls.ofCode cls) fun c => .whole (.waitc c f8)
  | 0x1F => need (d == 0 && a == 0 && cls == 0#5 && f8.extractLsb' 3 5 == 0#5) <|
      one (.fence (f8.getLsbD 2) (Scope.ofCode (f8.extractLsb' 0 2)))
  | 0x20 => need (d == 0 && a == 0 && cls.extractLsb' 3 2 == 0#2) <| match f8.toNat with
    | 0 => one (.macq (cls.extractLsb' 0 3))
    | 1 => one (.macqWait (cls.extractLsb' 0 3))
    | _ => .error .selector
  | 0x21 => need (d == 0 && a == 0 && cls == 0#5 && f8 == 0#8) <| one .mrel
  | 0x22 => need (a == 0 && cls == 0#5 && f8 == 0#8) <| one (.mpass d)
  | 0x23 => need (cls.extractLsb' 3 2 == 0#2 && f8 == 0#8) <| one (.obres (cls.extractLsb' 0 3) d a)
  | 0x24 => need (d == 0 && a == 0 && cls.extractLsb' 3 2 == 0#2 && f8 == 0#8) <| one (.obrel (cls.extractLsb' 0 3))
  | 0x25 => need (a == 0 && cls.extractLsb' 3 2 == 0#2 && f8 == 0#8) <| one (.cbld (cls.extractLsb' 0 3) d)
  | 0x26 => need (cls.extractLsb' 3 2 == 0#2 && f8 == 0#8) <| one (.scld (cls.extractLsb' 0 3) d a)
  | 0x27 => need (d == 0 && a == 0 && cls == 0#5) <| one (.azero (f8.extractLsb' 0 4) (f8.extractLsb' 4 4))
  | 0x28 => need (f8.extractLsb' 5 3 == 0#3) <| pick (FmtPair.ofCode cls) fun p =>
      .whole (.mma p (f8.getLsbD 4) (f8.extractLsb' 0 4) d a)
  | 0x29 => need (f8.extractLsb' 4 4 == 0#4) <| pick (FmtPair.ofCode cls) fun p =>
      .whole (.mtile p (f8.extractLsb' 0 4) d a)
  | 0x2A => need (cls == 0#5) <| one (.ald (f8.extractLsb' 0 4) (f8.extractLsb' 4 4) d a)
  | 0x2B => need (cls == 0#5) <| one (.ast (f8.extractLsb' 0 4) (f8.extractLsb' 4 4) d a)
  | 0x2C => need (!fn.getLsbD 6) <| one (.amovv ⟨d, a, b, fn.getLsbD 5, Rm.ofCode (fn.extractLsb' 3 2), fn.getLsbD 2,
      AmovTy.ofCode (fn.extractLsb' 0 2)⟩)
  | 0x30 => need (d == 0 && a == 0 && !cls.getLsbD 4 && f8 == 0#8) <| one (.phase (cls.extractLsb' 0 4))
  | 0x31 => need (d == 0 && a == 0 && !cls.getLsbD 4 && f8 == 0#8) <| one (.barb (cls.extractLsb' 0 4))
  | 0x32 => need (a == 0 && cls == 0#5 && f8.extractLsb' 1 7 == 0#7) <| one (.getwork (f8.getLsbD 0) d)
  | 0x33 => need (a == 0 && cls == 0#5 && f8 == 0#8) <| one (.valid d)
  | 0x34 => need (d == 0 && a == 0 && cls == 0#5 && f8 == 0#8) <| one .wrapend
  | 0x35 => need (d == 0 && a == 0 && cls == 0#5) <| match f8.toNat with
    | 0 => one .cancel
    | 1 => one .cancelJob
    | _ => .error .selector
  | 0x36 => need (a == 0 && b == 0) <| match fn.toNat with
    | 0 => one (.lcntLaunch d)
    | 1 => one (.lcntJob d)
    | _ => .error .selector
  | 0x37 => need (cls == 0#5 && f8 == 0#8) <| one (.coll d a)
  | 0x38 => need (a == 0) <| pick (SReg.ofCode imm) fun r => .whole (.srd d r)
  | 0x39 => need (a == 0) <| pick (SReg.ofCode imm) fun r => .whole (.swr d r)
  | 0x3A => need (a == 0 && b == 0 && fn == 0#7) <| one (.time d)
  | 0x3B => need (a == 0 && b == 0) <| match fn.toNat with
    | 0 => one (.tick d)
    | 1 => one (.tickNow d)
    | _ => .error .selector
  | 0x3C => need (d == 0 && a == 0) <| match fn.toNat with
    | 0 => one (.trap b)
    | 1 => need (b == 0) <| one .tretRetry
    | 2 => need (b == 0) <| one .tretSkip
    | 3 => need (b == 0) <| one .brk
    | _ => .error .selector
  | 0x3D => need (d == 0 && a == 0 && b == 0) <| match fn.toNat with
    | 0 => one .lgo
    | 1 => one .lcancel
    | 2 => one .lrepeat
    | _ => .error .selector
  | _ => .error .opcode

/-- The first word by the set that bit 31 selects (R18). -/
def parse (w : Word) : Except Reject Parsed := if w.msb then parseG w else parseL w

/-- Accept a candidate that the entries list, and no other (R42). -/
def accept (i : Instr) : Except Reject Instr := if i.wf then .ok i else .error .field

/-- The instruction at a first word `w` whose following word is `x`, none where the body ends (R19, R96). -/
def decode (w : Word) (x : Option Word) : Except Reject Instr :=
  match parse w with
  | .error e => .error e
  | .ok (.whole i) => accept i
  | .ok (.more k) => match x with
    | none => .error .missingExt
    | some x => match k x with
      | .ok i => accept i
      | .error e => .error e

/-- Bytes as a little-endian word (R18). -/
def wordOfBytes : List Byte → Option (Word × List Byte)
  | b0 :: b1 :: b2 :: b3 :: rest => some (b3 ++ b2 ++ b1 ++ b0, rest)
  | _ => none

/-- A word that announces an extension word in an opcode that admits one (R19, R24, R31, R36, R39): it occupies 8 bytes
whether or not the pair is an assigned encoding. -/
def announces (w : Word) : Bool :=
  let op := (fOp w).toNat
  if w.msb then op == 0x49 && fA w == 1#6
  else if 0x38 ≤ op ∧ op ≤ 0x3A then fMod w == 7#3
  else (decide (op ≤ 0x17 ∧ op ≠ 0x14) || decide (0x20 ≤ op ∧ op ≤ 0x2C)) && w.getLsbD 2

/-- Decoding from bytes: the instruction and the bytes after it. Too few bytes for a word is `missingExt`. -/
def decodeBytes (bs : List Byte) : Except Reject (Instr × List Byte) :=
  match wordOfBytes bs with
  | none => .error .missingExt
  | some (w, rest) =>
    match parse w with
    | .error e => .error e
    | .ok (.whole i) => (accept i).map fun i => (i, rest)
    | .ok (.more k) => match wordOfBytes rest with
      | none => .error .missingExt
      | some (x, rest') => match k x with
        | .error e => .error e
        | .ok i => (accept i).map fun i => (i, rest')

/-- A word as its bytes, lowest address first (R18). -/
def wordBytes (w : Word) : List Byte :=
  [w.extractLsb' 0 8, w.extractLsb' 8 8, w.extractLsb' 16 8, w.extractLsb' 24 8]

/-- The instruction the decoder reads from an instruction whose bits are `w`, the first word in [31:0] and the next in
[63:32], with zeros above `nbits`. -/
def decodeTableWord (nbits w : Nat) : Option Instr :=
  let w := w % 2 ^ nbits
  match decodeBytes (wordBytes (BitVec.ofNat 32 w) ++ wordBytes (BitVec.ofNat 32 (w >>> 32))) with
  | .ok (i, _) => some i
  | .error _ => none

/-! ### Encoding -/

/-- The short form of an LR instruction with two sources. -/
def LrA.enc (r : LrA) (op : BitVec 7) : Word × Option Word :=
  (packLR op r.d r.a r.b r.g (0#2 ++ bit r.bs), none)
/-- The long form of an LR instruction. -/
def LrM.enc (r : LrM) (op : BitVec 7) (t2 : BitVec 4 := 0) : Word × Option Word :=
  (packLR op r.d r.a r.b r.g (2#2 ++ bit r.bs), some (r.m.pack t2))
/-- The short form of a floating-point LR instruction. -/
def LrF.enc (r : LrF) (op : BitVec 7) : Word × Option Word :=
  (packLR op r.d r.a r.b r.g (0#1 ++ bit r.nb ++ bit r.bs), none)
/-- The short form of a unary instruction with selector `b`. -/
def LrU.enc (r : LrU) (op : BitVec 7) (b : Name) (mod : BitVec 3 := 0) : Word × Option Word :=
  (packLR op r.d r.a b r.g mod, none)
/-- The long form of a unary instruction with selector `b`. -/
def LrUM.enc (r : LrUM) (op : BitVec 7) (b : Name) : Word × Option Word :=
  (packLR op r.d r.a b r.g 4, some (r.m.pack 0))
/-- A compare without a modifier word. -/
def SrcA.enc (r : SrcA) (op : BitVec 7) (d : Name) : Word × Option Word :=
  (packLR op d r.a r.b r.g (0#2 ++ bit r.bs), none)
/-- A floating compare without a modifier word. -/
def SrcF.enc (r : SrcF) (op : BitVec 7) (d : Name) : Word × Option Word :=
  (packLR op d r.a r.b r.g (0#1 ++ bit r.nb ++ bit r.bs), none)
/-- A compare with a modifier word. -/
def SrcM.enc (r : SrcM) (op : BitVec 7) (d : Name) : Word × Option Word :=
  (packLR op d r.a r.b r.g (2#2 ++ bit r.bs), some (r.m.pack 0))
/-- PKRD and PKWR. -/
def PkOp.enc (r : PkOp) (op : BitVec 7) : Word × Option Word :=
  (packGX op r.f r.s (0#2 ++ r.tag) (bit r.x ++ r.scope.code ++ r.sem.code ++ bit r.sig ++ r.size.code), none)

/-- The words of an instruction (R18 to R41): its first word and, where the entry has one, its extension word. An event
has no words. -/
def Instr.words : Instr → Option (Word × Option Word)
  | .iadd r => some (r.enc 0x00)
  | .iaddModw r => some (r.enc 0x00)
  | .isub r => some (r.enc 0x01)
  | .isubModw r => some (r.enc 0x01)
  | .imul r => some (r.enc 0x02)
  | .imulModw r => some (r.enc 0x02)
  | .imulh r => some (r.enc 0x03)
  | .imulhModw r => some (r.enc 0x03)
  | .imad r => some (r.enc 0x04)
  | .imin r => some (r.enc 0x05)
  | .iminModw r => some (r.enc 0x05)
  | .imax r => some (r.enc 0x06)
  | .imaxModw r => some (r.enc 0x06)
  | .icmp c pd r => some (r.enc 0x07 (c.code ++ pd))
  | .icmpModw c pd r => some (r.enc 0x07 (c.code ++ pd))
  | .andLane r => some (r.enc 0x08)
  | .andLaneModw r => some (r.enc 0x08)
  | .orLane r => some (r.enc 0x09)
  | .orLaneModw r => some (r.enc 0x09)
  | .xorLane r => some (r.enc 0x0A)
  | .xorLaneModw r => some (r.enc 0x0A)
  | .shl r => some (r.enc 0x0B)
  | .shlModw r => some (r.enc 0x0B)
  | .shr r => some (r.enc 0x0C)
  | .shrModw r => some (r.enc 0x0C)
  | .sra r => some (r.enc 0x0D)
  | .sraModw r => some (r.enc 0x0D)
  | .rot r => some (r.enc 0x0E)
  | .rotModw r => some (r.enc 0x0E)
  | .bfe r => some (r.enc 0x0F)
  | .bfeModw r => some (r.enc 0x0F)
  | .bfi r => some (r.enc 0x10)
  | .sel r => some (r.enc 0x11)
  | .iabs r => some (r.enc 0x12 0)
  | .iabsModw r => some (r.enc 0x12 0)
  | .ineg r => some (r.enc 0x12 1)
  | .inegModw r => some (r.enc 0x12 1)
  | .popc r => some (r.enc 0x12 2)
  | .popcModw r => some (r.enc 0x12 2)
  | .clz r => some (r.enc 0x12 3)
  | .clzModw r => some (r.enc 0x12 3)
  | .brev r => some (r.enc 0x12 4)
  | .brevModw r => some (r.enc 0x12 4)
  | .dp4 r => some (r.enc 0x13)
  | .unt5 r => some (r.enc 0x14)
  | .asa r => some (r.enc 0x15)
  | .packi r => some (r.enc 0x16)
  | .unpki r => some (r.enc 0x17)
  | .iaddImm d a imm g => some (packLI 0x18 d a imm g, none)
  | .andImm d a imm g => some (packLI 0x19 d a imm g, none)
  | .orImm d a imm g => some (packLI 0x1A d a imm g, none)
  | .xorImm d a imm g => some (packLI 0x1B d a imm g, none)
  | .shlImm d a k g => some (packLI 0x1C d a (0#4 ++ k) g, none)
  | .shrImm d a k g => some (packLI 0x1C d a (4#4 ++ k) g, none)
  | .sraImm d a k g => some (packLI 0x1C d a (8#4 ++ k) g, none)
  | .rotImm d a k g => some (packLI 0x1C d a (12#4 ++ k) g, none)
  | .icmpS32Imm c pd a imm g => some (packLI 0x1D (c.code ++ pd) a imm g, none)
  | .icmpN32Imm c pd a imm g => some (packLI 0x1E (c.code ++ pd) a imm g, none)
  | .movi d imm g => some (packLI 0x1F d 0 imm g, none)
  | .moviLong d g imm => some (packLR 0x2C d 0 0 g 4, some imm)
  | .fadd r => some (r.enc 0x20)
  | .faddModw r => some (r.enc 0x20)
  | .fsub r => some (r.enc 0x21)
  | .fsubModw r => some (r.enc 0x21)
  | .fmul r => some (r.enc 0x22)
  | .fmulModw r => some (r.enc 0x22)
  | .ffma r => some (r.enc 0x23)
  | .fmin r => some (r.enc 0x24)
  | .fminModw r => some (r.enc 0x24)
  | .fmax r => some (r.enc 0x25)
  | .fmaxModw r => some (r.enc 0x25)
  | .fcmp c pd r => some (r.enc 0x26 (c.code ++ pd))
  | .fcmpModw c pd r => some (r.enc 0x26 (c.code ++ pd))
  | .fdiv r => some (r.enc 0x27)
  | .fdivModw r => some (r.enc 0x27)
  | .fclass r => some (r.enc 0x28 0)
  | .fclassModw r => some (r.enc 0x28 0)
  | .frnd r => some (r.enc 0x28 1)
  | .frndModw r => some (r.enc 0x28 1)
  | .fsqrt r => some (r.enc 0x28 2)
  | .fsqrtModw r => some (r.enc 0x28 2)
  | .frcp r => some (r.enc 0x28 3)
  | .frcpModw r => some (r.enc 0x28 3)
  | .frsq r => some (r.enc 0x28 4)
  | .frsqModw r => some (r.enc 0x28 4)
  | .fexp2 r => some (r.enc 0x28 5)
  | .fexp2Modw r => some (r.enc 0x28 5)
  | .flog2 r => some (r.enc 0x28 6)
  | .flog2Modw r => some (r.enc 0x28 6)
  | .fsin r => some (r.enc 0x28 7)
  | .fsinModw r => some (r.enc 0x28 7)
  | .fcos r => some (r.enc 0x28 8)
  | .fcosModw r => some (r.enc 0x28 8)
  | .cvt r t2 => some (r.enc 0x29 t2.code)
  | .pkf8 r k => some (r.enc 0x2A k.code)
  | .upf8 r k => some (r.enc 0x2B k.code)
  | .mov r => some (r.enc 0x2D 0)
  | .splat d b g => some (packLR 0x2E d 0 b g 1, none)
  | .shfl m r => some (packLR 0x2F r.d r.a r.b r.g (m.code ++ bit r.bs), none)
  | .vote m r => some (r.enc 0x30 0 m.code)
  | .ballot r => some (r.enc 0x31 0)
  | .bcast toS r => some (packLR 0x32 r.d r.a r.b r.g (0#1 ++ bit toS ++ bit r.bs), none)
  | .laneid d g => some (packLR 0x33 d 0 0 g 0, none)
  | .plop pd pa pb pc lut g => some (packLR 0x34 (pc ++ pd) (lut.extractLsb' 5 3 ++ pa) (lut.extractLsb' 2 3 ++ pb) g
      (0#1 ++ lut.extractLsb' 0 2), none)
  | .split a => some (packLR 0x35 0 a 0 Guard.unguarded 0, none)
  | .flip => some (packLR 0x35 0 0 0 Guard.unguarded 1, none)
  | .join => some (packLR 0x35 0 0 0 Guard.unguarded 2, none)
  | .aliasName d a => some (packLR 0x36 d a 0 Guard.unguarded 0, none)
  | .drop d => some (packLR 0x36 d 0 0 Guard.unguarded 1, none)
  | .swapn d a => some (packLR 0x36 d a 0 Guard.unguarded 2, none)
  | .mapq d a => some (packLR 0x36 d a 0 Guard.unguarded 3, none)
  | .give a b => some (packLR 0x37 0 a b Guard.unguarded 0, none)
  | .givex a b => some (packLR 0x37 0 a b Guard.unguarded 1, none)
  | .take d b => some (packLR 0x37 d 0 b Guard.unguarded 2, none)
  | .ld r z => some (packLR 0x38 r.d r.s r.v r.g z.code, none)
  | .ldLong r w => some (packLR 0x38 r.d r.s r.v r.g 7, some (packMem 0 0 w.rmt w.scope w.sem (0#1 ++ w.size.code)))
  | .st r z => some (packLR 0x39 r.d r.s r.v r.g z.code, none)
  | .stLong r w => some (packLR 0x39 r.d r.s r.v r.g 7, some (packMem 0 0 false w.scope w.sem (0#1 ++ w.size.code)))
  | .atom r w => some (packLR 0x3A r.d r.s r.v r.g 7,
      some (packMem w.c w.op.code w.rmt w.scope w.sem (1#3 ++ bit w.w64)))
  | .spill d k => some (packLR 0x3B d 0 k Guard.unguarded 0, none)
  | .fill d k => some (packLR 0x3B d 0 k Guard.unguarded 1, none)
  | .sadd d a b => some (packGR 0x40 d a b 0x00, none)
  | .ssub d a b => some (packGR 0x40 d a b 0x01, none)
  | .smul d a b => some (packGR 0x40 d a b 0x02, none)
  | .smulhS32 d a b => some (packGR 0x40 d a b 0x03, none)
  | .smulhN32 d a b => some (packGR 0x40 d a b 0x04, none)
  | .sand d a b => some (packGR 0x40 d a b 0x05, none)
  | .sor d a b => some (packGR 0x40 d a b 0x06, none)
  | .sxor d a b => some (packGR 0x40 d a b 0x07, none)
  | .sshl d a b => some (packGR 0x40 d a b 0x08, none)
  | .sshr d a b => some (packGR 0x40 d a b 0x09, none)
  | .ssra d a b => some (packGR 0x40 d a b 0x0A, none)
  | .sminS32 d a b => some (packGR 0x40 d a b 0x0B, none)
  | .sminN32 d a b => some (packGR 0x40 d a b 0x0C, none)
  | .smaxS32 d a b => some (packGR 0x40 d a b 0x0D, none)
  | .smaxN32 d a b => some (packGR 0x40 d a b 0x0E, none)
  | .scmp c d a b => some (packGR 0x40 d a b (1#3 ++ c.code), none)
  | .ssel p d a b => some (packGR 0x40 d a b (4#4 ++ p), none)
  | .saddImm d a imm => some (packGI 0x41 d a imm, none)
  | .smulImm d a imm => some (packGI 0x42 d a imm, none)
  | .sandImm d a imm => some (packGI 0x43 d a imm, none)
  | .sorImm d a imm => some (packGI 0x44 d a imm, none)
  | .sxorImm d a imm => some (packGI 0x45 d a imm, none)
  | .sshlImm d a k => some (packGI 0x46 d a (0#8 ++ k), none)
  | .sshrImm d a k => some (packGI 0x46 d a (0x40#8 ++ k), none)
  | .ssraImm d a k => some (packGI 0x46 d a (0x80#8 ++ k), none)
  | .sminS32Imm d a imm => some (packGI 0x47 d a (0#2 ++ imm), none)
  | .sminN32Imm d a imm => some (packGI 0x47 d a (1#2 ++ imm), none)
  | .smaxS32Imm d a imm => some (packGI 0x47 d a (2#2 ++ imm), none)
  | .smaxN32Imm d a imm => some (packGI 0x47 d a (3#2 ++ imm), none)
  | .scmpImm c d a imm => some (packGI 0x48 d a (c.code ++ imm), none)
  | .smovi d imm => some (packGI 0x49 d 0 imm, none)
  | .smoviLong d imm => some (packGI 0x49 d 1 0, some imm)
  | .sld d a imm => some (packGI 0x4A d a imm, none)
  | .sst d a imm => some (packGI 0x4B d a imm, none)
  | .sldk d k => some (packGI 0x4C d 0 (0#9 ++ k), none)
  | .bra off => some (packGB 0x50 off, none)
  | .brc c n off => some (packGN 0x51 c.code n off, none)
  | .loopn n off => some (packGN 0x52 0 n off, none)
  | .call off => some (packGB 0x53 off, none)
  | .nop => some (packGR 0x54 0 0 0 0, none)
  | .jmpi a => some (packGR 0x54 0 a 0 1, none)
  | .ret => some (packGR 0x54 0 0 0 2, none)
  | .exit => some (packGR 0x54 0 0 0 3, none)
  | .pkrd r => some (r.enc 0x58)
  | .pkwr r => some (r.enc 0x59)
  | .pkatom r => some (packGX 0x5A r.f r.s (0#1 ++ bit r.w64 ++ r.tag) (r.scope.code ++ r.sem.code ++ r.op.code), none)
  | .pkwait mask => some (packGX 0x5B 0 0 0 mask, none)
  | .copy f => some (packGX 0x5C f 0 0 0, none)
  | .barinit f s => some (packGX 0x5D f s 0 0, none)
  | .bararv f => some (packGX 0x5D f 0 0 1, none)
  | .barexp f s => some (packGX 0x5D f s 0 2, none)
  | .barwt f ph => some (packGX 0x5D f 0 (0#4 ++ bit ph) 3, none)
  | .waitc c n => some (packGX 0x5E 0 0 c.code n, none)
  | .fence sc scope => some (packGX 0x5F 0 0 0 (0#5 ++ bit sc ++ scope.code), none)
  | .macq p => some (packGX 0x60 0 0 (0#2 ++ p) 0, none)
  | .macqWait p => some (packGX 0x60 0 0 (0#2 ++ p) 1, none)
  | .mrel => some (packGX 0x61 0 0 0 0, none)
  | .mpass a => some (packGX 0x62 a 0 0 0, none)
  | .obres idx f s => some (packGX 0x63 f s (0#2 ++ idx) 0, none)
  | .obrel idx => some (packGX 0x64 0 0 (0#2 ++ idx) 0, none)
  | .cbld idx f => some (packGX 0x65 f 0 (0#2 ++ idx) 0, none)
  | .scld idx f s => some (packGX 0x66 f s (0#2 ++ idx) 0, none)
  | .azero first last => some (packGX 0x67 0 0 0 (last ++ first), none)
  | .mma fmt scr d f s => some (packGX 0x68 f s fmt.code (0#3 ++ bit scr ++ d), none)
  | .mtile fmt d f s => some (packGX 0x69 f s fmt.code (0#4 ++ d), none)
  | .ald first last f s => some (packGX 0x6A f s 0 (last ++ first), none)
  | .ast first last f s => some (packGX 0x6B f s 0 (last ++ first), none)
  | .amovv r => some (packGR 0x6C r.d r.a r.b (0#1 ++ bit r.sat ++ r.rm.code ++ bit r.s32 ++ r.t.code), none)
  | .phase k => some (packGX 0x70 0 0 (0#1 ++ k) 0, none)
  | .barb k => some (packGX 0x71 0 0 (0#1 ++ k) 0, none)
  | .getwork sig f => some (packGX 0x72 f 0 0 (0#7 ++ bit sig), none)
  | .valid f => some (packGX 0x73 f 0 0 0, none)
  | .wrapend => some (packGX 0x74 0 0 0 0, none)
  | .cancel => some (packGX 0x75 0 0 0 0, none)
  | .cancelJob => some (packGX 0x75 0 0 0 1, none)
  | .lcntLaunch d => some (packGR 0x76 d 0 0 0, none)
  | .lcntJob d => some (packGR 0x76 d 0 0 1, none)
  | .coll f s => some (packGX 0x77 f s 0 0, none)
  | .srd d sr => some (packGI 0x78 d 0 sr.code, none)
  | .swr d sr => some (packGI 0x79 d 0 sr.code, none)
  | .time d => some (packGR 0x7A d 0 0 0, none)
  | .tick d => some (packGR 0x7B d 0 0 0, none)
  | .tickNow d => some (packGR 0x7B d 0 0 1, none)
  | .trap code => some (packGR 0x7C 0 0 code 0, none)
  | .tretRetry => some (packGR 0x7C 0 0 0 1, none)
  | .tretSkip => some (packGR 0x7C 0 0 0 2, none)
  | .brk => some (packGR 0x7C 0 0 0 3, none)
  | .lgo => some (packGR 0x7D 0 0 0 0, none)
  | .lcancel => some (packGR 0x7D 0 0 0 1, none)
  | .lrepeat => some (packGR 0x7D 0 0 0 2, none)
  | _ => none

/-- The words of an instruction in address order; none for an event. -/
def encode (i : Instr) : List Word :=
  match i.words with
  | some (w, some x) => [w, x]
  | some (w, none) => [w]
  | none => []

/-- The first word, which sr.tinfo reports (R44); 0 for an event, which has none. -/
def Instr.firstWord (i : Instr) : Word :=
  match i.words with
  | some (w, _) => w
  | none => 0

/-- The length in bytes: 4, or 8 with an extension word (R19). -/
def Instr.len (i : Instr) : Nat :=
  match i.words with
  | some (_, some _) => 8
  | _ => 4

/-! ### Name checks (R22, R44) -/

/-- An offending field: its bit position as R44 counts it, and the value sr.tinfo[7:0] reports. -/
abbrev BadField := Nat × Nat

/-- A pair must be even (R22). -/
def chkPair (pos : Nat) (n : Name) : Option BadField := if n.toNat % 2 = 0 then none else some (pos, n.toNat)
/-- A pair where the operand is 64 bits wide (R22). -/
def chkPairIf (wide : Bool) (pos : Nat) (n : Name) : Option BadField := if wide then chkPair pos n else none
/-- A group of `k` names must be a multiple of `k` (R22, R269). -/
def chkGroup (k pos : Nat) (n : Name) : Option BadField := if n.toNat % k = 0 then none else some (pos, n.toNat)
/-- A p-name field must name p0 to p7 (R22). -/
def chkP (pos : Nat) (n : Name) : Option BadField := if n.toNat < 8 then none else some (pos, n.toNat)
/-- An a-name field must name a0 to a15 (R22). -/
def chkAName (pos : Nat) (n : Name) : Option BadField := if n.toNat < 16 then none else some (pos, n.toNat)
/-- A name implied by another must not pass 63 (R22). -/
def chkImplied (pos : Nat) (n : Name) (k : Nat) : Option BadField :=
  if n.toNat + k < 64 then none else some (pos, n.toNat + k)
/-- Twelve v-names of a step's operand: a multiple of 4, at most 52 (R248). -/
def chkTwelve (pos : Nat) (n : Name) : Option BadField :=
  if n.toNat % 4 = 0 ∧ n.toNat ≤ 52 then none else some (pos, n.toNat)

/-- Names per group of PACKI's sources (R269). -/
def packGroup (m : ModWord) : Nat :=
  match m.t with
  | .s16 | .n16 => 1
  | _ => if m.c == 1 then 4 else 2

/-- Names of the data group of a size (R31). -/
def Size.names : Size → Nat
  | .b64 => 2
  | .b128 => 4
  | _ => 1

/-- The first field that breaks R22, in the order R22 gives: the fields of the first word from the most significant
down, a field's implied name directly after it, then C of the extension word. -/
def Instr.reserved : Instr → Option BadField
  | .iaddModw r | .isubModw r | .imulModw r | .imulhModw r | .iminModw r | .imaxModw r
  | .andLaneModw r | .orLaneModw r | .xorLaneModw r =>
      (chkPairIf r.m.t.wide 19 r.d).or ((chkPairIf r.m.t.wide 13 r.a).or (chkPairIf r.m.t.wide 7 r.b))
  | .imad r => (chkPairIf r.m.t.wide 19 r.d).or ((chkPairIf r.m.t.wide 13 r.a).or
      ((chkPairIf r.m.t.wide 7 r.b).or (chkPairIf r.m.t.wide 58 r.m.c)))
  | .icmpModw _ _ r => (chkPairIf r.m.t.wide 13 r.a).or (chkPairIf r.m.t.wide 7 r.b)
  | .shlModw r | .shrModw r | .sraModw r | .rotModw r | .bfeModw r =>
      (chkPairIf r.m.t.wide 19 r.d).or (chkPairIf r.m.t.wide 13 r.a)
  | .bfi r => (chkPairIf r.m.t.wide 19 r.d).or ((chkPairIf r.m.t.wide 13 r.a).or (chkPairIf r.m.t.wide 7 r.b))
  | .sel r => (chkPairIf r.m.t.wide 19 r.d).or ((chkPairIf r.m.t.wide 13 r.a).or
      ((chkPairIf r.m.t.wide 7 r.b).or (chkP 58 r.m.c)))
  | .iabsModw r | .inegModw r | .brevModw r => (chkPairIf r.m.t.wide 19 r.d).or (chkPairIf r.m.t.wide 13 r.a)
  | .popcModw r | .clzModw r => chkPairIf r.m.t.wide 13 r.a
  | .packi r => (chkGroup (packGroup r.m) 13 r.a).or (chkGroup (packGroup r.m) 7 r.b)
  | .unpki r => chkGroup (2 * packGroup r.m) 19 r.d
  | .faddModw r | .fsubModw r | .fmulModw r | .fminModw r | .fmaxModw r | .fdivModw r =>
      (chkPairIf r.m.t.wide 19 r.d).or ((chkPairIf r.m.t.wide 13 r.a).or (chkPairIf r.m.t.wide 7 r.b))
  | .ffma r => (chkPairIf r.m.t.wide 19 r.d).or ((chkPairIf r.m.t.wide 13 r.a).or
      ((chkPairIf r.m.t.wide 7 r.b).or (chkPairIf r.m.t.wide 58 r.m.c)))
  | .fcmpModw _ _ r => (chkPairIf r.m.t.wide 13 r.a).or (chkPairIf r.m.t.wide 7 r.b)
  | .fclassModw r => chkPairIf r.m.t.wide 13 r.a
  | .frndModw r | .fsqrtModw r => (chkPairIf r.m.t.wide 19 r.d).or (chkPairIf r.m.t.wide 13 r.a)
  | .cvt r t2 => (chkPairIf t2.wide 19 r.d).or ((chkPairIf r.m.t.wide 13 r.a).or
      (chkPairIf (r.m.t.wide && t2.packed) 7 r.b))
  | .pkf8 r _ => (chkPairIf (r.m.t == .f32) 13 r.a).or (chkPairIf (r.m.t == .f32) 7 r.b)
  | .upf8 r _ => chkGroup (if r.m.t == .f32 then 4 else 2) 19 r.d
  | .vote _ r => (chkP 19 r.d).or (chkP 13 r.a)
  | .ballot r => chkP 13 r.a
  | .split a => chkP 13 a
  | .ld r z | .st r z => chkGroup z.names 19 r.d
  | .ldLong r w => chkGroup w.size.names 19 r.d
  | .stLong r w => chkGroup w.size.names 19 r.d
  | .atom r w => (chkPairIf w.w64 19 r.d).or (chkPairIf (w.w64 && w.op == .cas) 47 w.c)
  | .brc c n _ => match c with
    | .all | .any | .noneOf => chkP 15 n
    | _ => none
  | .pkrd r => (if r.sig then chkImplied 19 r.f 1 else none).or (chkPair 13 r.s)
  | .pkwr r => (if r.sig then chkImplied 19 r.f 1 else none).or
      ((chkPair 13 r.s).or (if r.x then chkImplied 13 r.s 2 else none))
  | .pkatom r => chkPair 13 r.s
  | .mma _ scr _ f s => if scr then chkGroup 4 19 f else (chkTwelve 19 f).or (chkTwelve 13 s)
  | .mtile _ _ f _ => chkGroup 4 19 f
  | .amovv r => (chkGroup (match r.t with | .f32 | .s32 => 8 | _ => 4) 19 r.d).or (chkAName 13 r.a)
  | .getwork sig f => if sig then chkImplied 19 f 1 else none
  | .lcntJob d | .time d => chkPair 19 d
  | .coll _ s => chkPair 13 s
  | _ => none

/-- sr.tinfo of a RESERVED_FIELD trap (R44). -/
def badFieldInfo (b : BadField) : Word := BitVec.ofNat 32 (b.1 * 256 + b.2)

/-- The special registers SWR may write (R315); SWR to another raises PRIV. -/
def SReg.writable : SReg → Bool
  | .flg | .tpc => true
  | _ => false

/-- What PRIV forbids inside a kernel (R43): the prologue-only instructions, and SWR to a read-only register. -/
def Instr.privInKernel : Instr → Bool
  | .lgo | .lcancel | .lrepeat => true
  | .swr _ r => !r.writable
  | _ => false

/-- The special registers a prologue may read (R315). -/
def SReg.inPrologue : SReg → Bool
  | .caps | .time | .timeh | .dline | .dlineh => true
  | _ => false

/-! ### Classes of instructions -/

/-- Whether the instruction is of the L-form set (R18). -/
def Instr.isL (i : Instr) : Bool := !i.firstWord.msb && i.words.isSome

/-- The guard an L-form instruction carries: LI keeps it in [3:0], LR and LM in [6:3] (R21). -/
def Instr.guard (i : Instr) : Guard :=
  let w := i.firstWord
  let op := (fOp w).toNat
  if 0x18 ≤ op ∧ op ≤ 0x1F then fGI w else fG w

/-- The instructions after which the undo log is cleared (R144). -/
def Instr.clearsUndo : Instr → Bool
  | .pkwr _ | .pkatom _ | .copy _ | .getwork _ _ | .coll _ _ | .valid _ | .cancel | .cancelJob
  | .give _ _ | .givex _ _ | .take _ _ | .phase _ => true
  | _ => false

/-- What a prologue may execute (R293). -/
def Instr.inPrologue : Instr → Bool
  | .sadd .. | .ssub .. | .smul .. | .smulhS32 .. | .smulhN32 .. | .sand .. | .sor .. | .sxor .. | .sshl .. | .sshr ..
  | .ssra .. | .sminS32 .. | .sminN32 .. | .smaxS32 .. | .smaxN32 .. | .scmp .. | .ssel .. | .saddImm .. | .smulImm ..
  | .sandImm .. | .sorImm .. | .sxorImm .. | .sshlImm .. | .sshrImm .. | .ssraImm .. | .sminS32Imm .. | .sminN32Imm ..
  | .smaxS32Imm .. | .smaxN32Imm .. | .scmpImm .. | .smovi .. | .smoviLong .. | .sld .. | .sst .. | .sldk ..
  | .bra .. | .brc .. | .loopn .. | .call .. | .nop | .jmpi .. | .ret | .pkatom .. | .pkwait .. | .fence ..
  | .lcntLaunch .. | .lcntJob .. | .time .. | .tick .. | .tickNow .. | .lgo | .lcancel | .lrepeat => true
  | .pkrd r | .pkwr r => !r.sig
  | .waitc c _ => c == .pkt
  | .srd _ r => r.inPrologue
  | _ => false

end Sys2Proof
end

