-- ==== Sys2Proof/Machine/State.lean ====
section
/-! DEFINITION. The state of an SW9 package as plain data: everything the spec gives the machine (INVENTORY.md lists each
piece with its rule), why a step stops, and the state after reset. -/
namespace Sys2Proof.Machine

/-- Why a step ends in a fault. -/
inductive Fault where
  /-- raised by an instruction's meaning when no warp and no prologue pass is the current agent: no instruction can be
  executing then. Safe: no rule describes such an execution. -/
  | noAgent
deriving DecidableEq, Repr

/-- Why a step is refused. -/
inductive Refusal where
  /-- raised by an arm of `exec` whose instruction has no meaning yet. Safe: nothing can be proved of it. -/
  | notModelled (mnemonic : String)
deriving DecidableEq, Repr

/-! ### Identities -/

/-- A block: launch identifier, linear gang index, block number in the gang (R53, R288). -/
structure BlockId where
  lid  : Nat
  gang : Nat
  num  : Nat
deriving DecidableEq, Repr

/-- A warp of a block (R53). -/
structure WarpId where
  blk  : BlockId
  warp : Nat
deriving DecidableEq, Repr

/-- A byte of a scratchpad allocation: the block and the offset in its allocation (R155). -/
structure ScrLoc where
  blk : BlockId
  off : Nat
deriving DecidableEq, Repr

/-! ### Memory -/

/-- Main memory by byte, in canonical form: addresses strictly rising, no entry holding 0, which is what an unlisted
byte reads as (R364: DRAM is zeroed). An address is `2^36 * stack + physical address`. -/
structure Memory where
  cells : List Host.Cell
deriving DecidableEq, Repr

/-- A scratchpad allocation (R155 to R161): its size, its bytes in the same canonical form, its poisoned 32-byte
granules, and the pending count of each 64-byte line that has one. -/
structure Scratch where
  size   : Nat
  bytes  : Memory
  poison : List Nat
  pend   : List (Nat × Nat)
deriving DecidableEq, Repr

/-! ### Rows, names and the warp -/

/-- A physical row (R77): 32 lanes, a poison bit for each, and the reference count. -/
structure Row where
  lanes  : Vector Word 32
  poison : Mask
  count  : Nat
deriving DecidableEq, Repr

/-- An accumulator name (R238): the physical tile it maps, and its dirty flag. Not in use when it maps none. -/
structure AccName where
  tile  : Option Nat
  dirty : Bool
deriving DecidableEq, Repr

/-- A fault of an engine operation (R131): its kind, the address and the bytes completed before it. -/
structure OpFault where
  kind  : Nat
  addr  : DWord
  bytes : Nat
deriving DecidableEq, Repr

/-- Where an engine operation stands (R148, R200): `withheld` has completed with a fault, but the engine keeps its
completion back while an older fault of its class is held. -/
inductive OpSt where
  | pending
  | done
  | faulted (f : OpFault)
  | withheld (f : OpFault)
deriving DecidableEq, Repr

/-- An engine operation of a warp that its class counter still counts (R198): its class, its tag for a packet, the
barrier objects it signals, whether it is a strong packet (R205) and whether it has left the core (R206). -/
structure EngOp where
  seq  : Nat
  cls  : Cls
  tag  : BitVec 3
  sigs : List ScrLoc
  st   : OpSt
deriving DecidableEq, Repr

/-- A handoff instruction that waits on a slot (R86): what it does when it proceeds. -/
inductive HandOp where
  | give (a : Name)
  | givex (a : Name)
  | take (d : Name)
deriving DecidableEq, Repr

/-- What a warp is doing (R57, R147, R211, R318, R320). Every value but `ready` leaves the instruction at pc unretired; a
warp that has its turn runs that instruction again unless an event retires it. -/
inductive WarpSt where
  | ready
  | handoff (slot : Nat) (op : HandOp)
  | barwt (obj : ScrLoc) (ph : Bool) (released : Bool)
  | pkwait
  | waitc (c : Cls) (n : Nat)
  | phaseDrain
  | mtile (seq : Nat)
  | macq (p : PName)
  | absent (lines : List ScrLoc)
  | phase (index : Nat)
  | barb (id : Nat)
  | drain
  | handOver
  | oldest
  | promote (upto : Nat) (cores : List Nat)
  | tick (d : Name)
  | fenceSc
deriving DecidableEq, Repr

/-- One entry of the debug undo log (R144): the old values of what the instruction at `pc` changed, and the MTILE step counter it
found. `seq` numbers the engine
operations from the instruction on: the values of `tiles` are those that every older operation leaves. -/
structure Undo where
  pc    : Word
  ctr   : Nat
  seq   : Nat
  v     : List (Nat × Option Nat)
  s     : List (Nat × Word × Bool)
  p     : List (Nat × Mask × Mask)
  flg   : Option Word
  masks : Option (Mask × Mask × List (Mask × Mask))
  scr   : List (Nat × Byte)
  acc   : List (Nat × AccName)
  tiles : List (Nat × Vector Word 256 × BitVec 256)
deriving DecidableEq, Repr

/-- A warp (R51): every architectural register of its context (R141), its engine operations and its status. `halted` says
that the debugger has stopped it, and `stepOne` that it may run one instruction all the same (R143). `mtxOps` lists the latest
MTX operations it handed over, newest first, and `late` the flags of completed matrix steps that no WAITC MTX has covered yet,
with the operation of each (R257, R317). -/
structure Warp where
  num     : Nat
  slot    : Nat
  pc      : Word
  s       : Vector Word 64
  sPoison : BitVec 64
  v       : Vector (Option Nat) 64
  p       : Vector Mask 8
  pPoison : Vector Mask 8
  acc     : Vector AccName 16
  launched : Mask
  exited  : Mask
  m       : Mask
  stack   : List (Mask × Mask)
  flg     : Word
  tpc     : Word
  tcause  : Word
  tlanes  : Word
  taddr   : Word
  taddrh  : Word
  tinfo   : Word
  saved   : Vector (Option Nat) 8
  ebbpc   : Word
  inWrap  : Bool
  ops     : List EngOp
  ctr     : Nat
  ctrPc   : Word
  wdog    : Nat
  st      : WarpSt
  ended   : Bool
  undo    : List Undo
  halted  : Bool
  stepOne : Bool
  mtxOps  : List Nat
  late    : List (Nat × Word)
deriving DecidableEq, Repr

/-! ### Code objects and blocks -/

/-- A kernel of a code object (R289). -/
structure Kernel where
  codeOff  : Nat
  codeSize : Nat
  w        : Nat
  g        : Nat
  handoff  : Bool
  matrix   : Bool
  v        : Nat
  q        : Nat
  params   : Nat
  trap     : Option Nat
  wrap     : Option Nat
  budget   : Nat
  rows     : BitVec 64
  carry    : List (BitVec 64)
deriving DecidableEq, Repr

/-- A prologue of a code object (R289). -/
structure Prologue where
  codeOff  : Nat
  codeSize : Nat
deriving DecidableEq, Repr

/-- A registered code object (R289): its address and size in its partition, its SHA-256, the identifier its pages are
mapped under, and its tables. -/
structure CodeObj where
  part      : Nat
  addr      : DWord
  size      : Nat
  hash      : BitVec 256
  asid      : Nat
  kernels   : List Kernel
  prologues : List Prologue
deriving DecidableEq, Repr

/-- Whether a block runs a kernel or a prologue pass (R292). -/
inductive BlockKind where
  | kernel
  | prologue
deriving DecidableEq, Repr

/-- A physical accumulator tile (R237): its elements, row by row, and their poison. -/
structure Tile where
  id     : Nat
  el     : Vector Word 256
  poison : BitVec 256
deriving DecidableEq, Repr

/-- A reservation record (R243): its two words as OBRES gave them. -/
structure Resv where
  f : Word
  s : Word
deriving DecidableEq, Repr

/-- The scales one side of a step applies (R229): the block length and, for each of the side's 16 rows, the scale of
each block the step reads, with its poison, from block `first` on. -/
structure Scales where
  len   : Nat
  first : Nat
  rows  : List (List (BitVec 16 × Bool))
deriving DecidableEq, Repr

/-- The operand buffer and the codebook slots of a block (R237, R243, R247): the reservations; the bytes written; each
16-byte unit whose bytes the spec leaves undefined, with the number its free bytes are drawn from; the poisoned scale
places; and the slots, an entry with its poison. -/
structure OpBuf where
  resv   : Vector (Option Resv) 8
  mem    : Memory
  free   : List (Nat × Nat)
  poison : List Nat
  cb     : Vector (Vector (BitVec 16 × Bool) 16) 16
deriving DecidableEq, Repr

/-- One side of an engine step (R248, R249): rows read from v-names at hand-over; or a scratchpad tile, with the bytes
its rows held at hand-over from byte `lo` of each on, or when their line became present; none for a byte whose line is
absent. -/
inductive Side where
  | rows (r : List (List (Byte × Bool)))
  | scr (base : Word) (word : Word) (tile : Nat) (lo : Nat) (old : List (List (Option (Byte × Bool))))
deriving DecidableEq, Repr

/-- An engine step handed over and not completed (R250, R251): the operation it counts for, the tile it accumulates
into, its operands, its scales and codebooks as R247 gives them, and its K slice. -/
structure Step where
  wid    : WarpId
  seq    : Nat
  tile   : Nat
  fmt    : FmtPair
  a      : Side
  b      : Side
  k0     : Nat
  kEnd   : Nat
  sa     : Option Scales
  sb     : Option Scales
  cbA    : List (BitVec 16 × Bool)
  cbB    : List (BitVec 16 × Bool)
deriving DecidableEq, Repr

/-- An accumulator transfer handed over and not completed (R255): ALD carries the elements it read, AST the place and
the lines it writes. -/
structure Xfer where
  wid   : WarpId
  seq   : Nat
  load  : Bool
  tiles : List Nat
  el    : List (List (Word × Bool))
  base  : Word
  pitch : Nat
  nt    : Nat
  lines : List ScrLoc
deriving DecidableEq, Repr

/-- Where a block stands (R71, R140, R304): resident; resident but stopped for a mid-phase save that waits for its
operations; parked at a boundary; saved mid-phase; ended, its allocation kept until its gang ends (R157). -/
inductive BlockSt where
  | resident
  | saving
  | parked
  | saved
  | ended
deriving DecidableEq, Repr

/-- A block (R51): the kernel it runs, where, its rows, slots and scratchpad, its matrix state, and its warps. `snap` is
the operand buffer as it stood when the MTILE now handing over its steps started (R247), and `area` where the image of a
saved block stands in memory, with its size (R140). -/
structure Block where
  key     : BlockId
  kind    : BlockKind
  code    : DWord
  part    : Nat
  kern    : Kernel
  asid    : Option Nat
  gsize   : Nat
  lanes   : Nat
  debug   : Bool
  st      : BlockSt
  boundary : Bool
  cluster : Nat
  core    : Nat
  rows    : List (Nat × Row)
  slots   : Vector (Option Nat) 16
  scr     : Scratch
  holder  : Option Nat
  tiles   : List Tile
  ob      : OpBuf
  snap    : OpBuf
  steps   : List Step
  xfers   : List Xfer
  warps   : List Warp
  area    : Option (Nat × Nat)
deriving DecidableEq, Repr

/-! ### Packets and copies in flight -/

/-- What a memory request does at its base die (R184). -/
inductive ReqKind where
  | read
  | write (data : List Byte) (mask : BitVec 64)
  | atom (op : AtomOp) (w64 : Bool) (x c : DWord)
  | reduce (redop redty : Nat) (data : List Byte)
deriving DecidableEq, Repr

/-- A reply that counts when it leaves its base die (R151, R177): the identifier and the address of its page, and the meter
that page was bound to when the request performed. -/
structure Bound where
  asid  : Nat
  addr  : DWord
  meter : Option Nat
deriving DecidableEq, Repr

/-- Where a packet's request stands (R163, R171, R184): on its way, or performed with its reply, and what the reply counts at
when it leaves (R151, R358). -/
inductive ReqSt where
  | sent
  | performed (bytes : List (Byte × Bool)) (fault : Option OpFault) (bound : Option Bound)
deriving DecidableEq, Repr

/-- A packet between its hand-over and its completion (R147, R148, R206). `chan` is the device core index of its
channel (R213); `waitFor` names the warp's older acquires (R204); `dest` is where a reply is written; `sig` is the barrier
it signals; `promote` names each core that an .rmt read has asked, with the bound of the packets that had left it then (R209). -/
structure Req where
  seq   : Nat
  wid   : WarpId
  chan  : Nat
  reqStack : Nat
  asid  : Option Nat
  part  : Nat
  addr  : DWord
  size  : Nat
  kind  : ReqKind
  sem   : Sem
  scope : Scope
  rmt   : Bool
  waitFor : List Nat
  promote : List (Nat × Nat)
  dest  : Option ScrLoc
  sig   : Option ScrLoc
  st    : ReqSt
  dead  : Bool
deriving DecidableEq, Repr

/-- What a request of a transfer has been answered (R163): its bytes and its fault, and where the reply is still held at its base
die for a meter's allowance (R358), what it counts at. -/
structure Answer where
  bytes : List (Byte × Bool)
  fault : Option Nat
  held  : Option Bound
deriving DecidableEq, Repr

/-- A transfer of several requests of which some wait (R163): who makes it, what it is, and the offset of each request that has
performed with its answer. -/
structure Move where
  who   : List Nat
  addr  : DWord
  size  : Nat
  data  : Option (List Byte)
  got   : List (Nat × Answer)
deriving DecidableEq, Repr

/-- A shape record of a copy chain (R188). -/
structure Shape where
  gather : Bool
  dir    : Nat
  esz    : Nat
  rot    : Nat
  ndim   : Nat
  redop  : Nat
  redty  : Nat
  axis   : Nat
  repl   : BitVec 16
  src    : DWord
  dst    : DWord
  ext    : List Nat
  sstr   : List Int
  dstr   : List Int
  x0     : Nat
  y0     : Nat
  z0     : Nat
  index  : List Nat
deriving DecidableEq, Repr

/-- An entry of a copy chain (R187). -/
inductive ChainEnt where
  | shape (r : Shape)
  | loop (target count : Nat) (srcInc dstInc : Int)
  | signal (arv : Bool) (bar : Word)
deriving DecidableEq, Repr

/-- One element write of a copy: its place in chain order is its entry, pass, element index and target (R189). -/
structure ElemIx where
  entry : Nat
  pass  : Nat
  elem  : Nat
  targ  : Nat
deriving DecidableEq, Repr

/-- A copy handed over and not completed (R186, R193): its core, by device index (R213), its chain, the element writes and signals performed, the lines
whose pending count it still holds with the entry and pass that last write them, and its first fault in chain order. -/
structure Copy where
  seq   : Nat
  wid   : WarpId
  chan  : Nat
  asid  : Option Nat
  part  : Nat
  chain : List ChainEnt
  done  : List ElemIx
  sigs  : List (Nat × Nat)
  lines : List (ScrLoc × Nat × Nat)
  fault : Option (ElemIx × OpFault)
  dead  : Bool
deriving DecidableEq, Repr

/-- A GETWORK request (R321): sent to the distributor, or answered and on its way back. -/
structure Query where
  seq    : Nat
  wid    : WarpId
  dest   : ScrLoc
  sig    : Option ScrLoc
  answer : Option (Word × Bool)
  dead   : Bool
deriving DecidableEq, Repr

/-! ### The base dies -/

/-- An entry of the indirection table with the frame's access counters (R170, R172), and how many granules a running
copy has copied (R171). -/
structure Frame where
  state  : Nat
  loc    : Nat
  pframe : Nat
  queued : Bool
  ctr    : Vector Nat 8
  copied : Nat
deriving DecidableEq, Repr

/-- An entry of the translation cache (R169): identifier, first page, number of pages, and the leaf entry. -/
structure TlbEnt where
  asid  : Nat
  page  : Nat
  pages : Nat
  leaf  : BitVec 64
deriving DecidableEq, Repr

/-- An entry of the migration queue (R175). -/
structure MqEnt where
  word : Word
  ctr  : Nat
  time : Nat
deriving DecidableEq, Repr

/-- A base die (R163 to R177): root table, translation cache, indirection table, migration queue, corrected-error
counter, and the partial and allowance of each meter. Lists by number hold the entries that differ from reset. -/
structure BaseDie where
  root      : List (Nat × BitVec 64)
  tlb       : List TlbEnt
  frames    : List (Nat × Frame)
  mqThresh  : Nat
  mqTail    : BitVec 7
  mqHead    : BitVec 7
  mqOvf     : Nat
  mq        : List (Nat × MqEnt)
  corrected : Nat
  partials  : List (Nat × Nat)
  allow     : List (Nat × Nat)
deriving DecidableEq, Repr

/-- A translation fault that firmware has been told of (R168): the page, whether the access that found it may be
answered with a mapping only, and whether firmware has refused it. -/
structure PageFault where
  stack   : Nat
  asid    : Nat
  page    : Nat
  refused : Bool
deriving DecidableEq, Repr

/-! ### Launches, jobs and rings -/

/-- The fields of a launch record (R290). -/
structure LaunchRec where
  code     : DWord
  kernel   : Nat
  prologue : Nat
  flags    : Word
  hash     : BitVec 256
  x        : Nat
  y        : Nat
  z        : Nat
  g        : Nat
  lanes    : Nat
  deadline : Nat
  cost     : Nat
  wrap     : Nat
  budget   : Nat
  work     : Nat
  flagAddr : DWord
  nflags   : Nat
  nparams  : Nat
  params   : List Word
  reserved : Bool
deriving DecidableEq, Repr

/-- Completion status codes (R287). -/
inductive Status where
  | completed | rejected | cancelled | expired | budgetExceeded | gangFailed | absent | malformed
  | prologueFault | prologueTimeout | timeout
deriving DecidableEq, Repr

/-- The states of a launch (R301). -/
inductive LaunchSt where
  | prologue | queued | running | ebb | complete
deriving DecidableEq, Repr

/-- The states of a gang (R304). -/
inductive GangSt where
  | unplaced | placed | parked | saved | ended | killed | discarded
deriving DecidableEq, Repr

/-- A gang that has been placed at least once, or discarded (R304, R312). -/
structure Gang where
  idx        : Nat
  st         : GangSt
  cluster    : Nat
  relaunches : Nat
deriving DecidableEq, Repr

/-- What submitted a launch: a LAUNCH packet of a ring, none once that ring has been deregistered, or a Tideway engine for a reduce block (R343). -/
inductive Origin where
  | ring (n : Option Nat)
  | reduce (die : Nat) (sched : Nat) (inst : Nat) (slot : Nat)
deriving DecidableEq, Repr

/-- A launch, one for each pass (R288, R292): its packet's header fields and record, the record as submitted, what it
resolved to, its state, its counters (R73, R272, R298), the expiry or cancel recorded (R307), and its gangs. Gangs from
`next` on have never been placed. -/
structure Launch where
  lid      : Nat
  origin   : Origin
  tag      : Word
  compl    : DWord
  irq      : Bool
  vec      : Nat
  pass     : Nat
  part     : Nat
  job      : Option Word
  packet   : List Byte
  rcd      : Option LaunchRec
  kern     : Option Kernel
  asid     : Option Nat
  wrap     : Option Nat
  budget   : Nat
  repeats  : Bool
  st       : LaunchSt
  counter  : Nat
  work     : Nat
  used     : Nat
  ebbAt    : Option Nat
  cancelled : Bool
  gangFailed : Bool
  overBudget : Bool
  flags    : List Nat
  dbgCauses : List Nat
  next     : Nat
  w0       : Option Nat
  gangs    : List Gang
  status   : Option (Status × Nat)
deriving DecidableEq, Repr

/-- A prologue pass on a front-end scalar core (R292): its launch, its link die and scalar core, and when its first
instruction ran. -/
structure Pass where
  lid   : Nat
  die   : Nat
  fcore : Nat
  start : Option Nat
deriving DecidableEq, Repr

/-- A job (R369). -/
structure Job where
  part      : Nat
  id        : Word
  asid      : Nat
  tenancy   : Nat
  counter   : BitVec 64
  cancelled : Bool
  allow     : List (BitVec 256)
  jcnt      : DWord
deriving DecidableEq, Repr

/-- The states of a ring (R279). -/
inductive RingSt where
  | unregistered | running | waiting | halted | paused
deriving DecidableEq, Repr

/-- A repetition under LREPEAT (R292): the packet, the pass to come, and scratch bytes 0x0C0 to 0xFFF. -/
structure Repetition where
  lid     : Nat
  pass    : Nat
  scratch : List (Nat × Byte)
  ready   : Bool
deriving DecidableEq, Repr

/-- A WAITCNT that stands at the head of its ring with every unit written (R285): since when, its bytes, and whether its
timeout has passed before its condition held. -/
structure HeadWait where
  since  : Nat
  packet : List Byte
  late   : Bool
deriving DecidableEq, Repr

/-- A ring (R276, R277, R279): its registration, the header words Estuary holds, its current job, the
WAITCNT at its head, and whether a write of its header still waits. -/
structure Ring where
  num    : Nat
  hdr    : DWord
  body   : DWord
  k      : Nat
  group  : Nat
  part   : Nat
  vec    : Nat
  st     : RingSt
  held   : RingSt
  wptr   : Word
  rptr   : Word
  err    : Nat
  errptr : Word
  lastTs : DWord
  job    : Option Word
  head   : Option HeadWait
  rep    : Option Repetition
  unsaid : Bool
deriving DecidableEq, Repr

/-- The latest LAUNCH packet taken from a ring with a tag (R285): its launch, and whether the packet has ended. -/
structure Taken where
  ring  : Nat
  tag   : Word
  lid   : Nat
  ended : Bool
deriving DecidableEq, Repr

/-- A packet Estuary has taken and the front end has not finished with (R282): its ring, none once that has been
deregistered, with the ring's partition and vector, its bytes, for a LAUNCH the
identifier its first pass took (R288), and for a WAITCNT whether its timeout had passed first (R285). -/
structure Taking where
  ring   : Option Nat
  part   : Nat
  vec    : Nat
  packet : List Byte
  lid    : Option Nat
  late   : Bool
deriving DecidableEq, Repr

/-- A merge group (R280, R282): its HOLD, and the packet it has taken. -/
structure Group where
  num  : Nat
  hold : Nat
  busy : Option Taking
deriving DecidableEq, Repr

/-- A completion record that is due (R286): the fields it will carry, the partition and the vector of the packet's ring, and
the launch whose pass it ends. `compl` 0 stands for the moment the record would be written. `mirror` says that it has come, and
that the write of the job's counter to its mirror is left: the address, and the value (R285). -/
structure Due where
  compl  : DWord
  irq    : Bool
  part   : Nat
  vec    : Nat
  status : Status
  reason : Nat
  pass   : Nat
  tag    : Word
  ident  : Nat
  flags  : Nat
  lid    : Option Nat
  mirror : Option (DWord × DWord)
deriving DecidableEq, Repr

/-- A partition of the device (R363): its stacks, its firmware identifier, the host window's base and identifier (R296),
and its scheduling registers (R297). -/
structure Partition where
  first  : Nat
  n      : Nat
  fwAsid : Nat
  wbase  : DWord
  wasid  : Nat
  share  : Vector Word 4
  wdog   : Word
deriving DecidableEq, Repr

/-- A tenancy (R368). -/
structure Tenancy where
  part : Nat
  num  : Nat
  key  : BitVec 256
deriving DecidableEq, Repr

/-- A meter's allotment (R368). -/
structure Allot where
  meter   : Nat
  part    : Nat
  tenancy : Nat
deriving DecidableEq, Repr

/-- A gather in progress on a cluster (R305): the launch and gang it is for, when it was granted, when it pre-empts,
and its target cores. -/
structure Gather where
  cluster : Nat
  lid     : Nat
  gang    : Nat
  limit   : Nat
  target  : List Nat
  preempted : Bool
deriving DecidableEq, Repr

/-! ### Tideway -/

/-- The kinds of chunk operation (R336). -/
inductive TwKind where
  | send | recv | red | copy | wait
deriving DecidableEq, Repr

/-- A chunk operation (R336), its fields under their names there. -/
structure TwOp where
  op    : TwKind
  redop : Nat
  rtype : Nat
  retry : Nat
  narr  : Nat
  len   : Nat
  dslot : Nat
  k     : Nat
  rot   : Bool
  peer  : Nat
  abs   : Bool
  top   : Nat
  ins   : List Nat
  kb    : Nat
  rotb  : Bool
deriving DecidableEq, Repr

/-- A dispatch descriptor (R344). -/
structure TwDesc where
  code   : DWord
  kernel : Nat
  budget : Nat
  job    : Word
deriving DecidableEq, Repr

/-- A loaded schedule (R334): the fields of its load record, its operations, and how often it has been started. -/
structure Sched where
  num      : Nat
  part     : Nat
  p        : Nat
  g        : Nat
  ackto    : Nat
  itimeout : Nat
  asid     : Nat
  ops      : List TwOp
  descs    : List TwDesc
  ranks    : List Nat
  starts   : Nat
deriving DecidableEq, Repr

/-- A SEND or notify on its way (R340): the attempt number, when it was sent, whether it still waits to leave, and whether it
waits for the memory of its chunk rather than for the link (R333). -/
structure Flight where
  attempt : Nat
  sentAt  : Nat
  stalled : Bool
  memory  : Bool
deriving DecidableEq, Repr

/-- Where an operation of an instance stands (R330, R340): whether it has fired, whether its token exists, its transfer
in flight, whether its notify has been acknowledged, the sending position and operation that a RED.dispatch must
still acknowledge (R342), and when it fired among the engine's operations (R347). -/
structure TwOpSt where
  fired    : Bool
  token    : Bool
  flight   : Option Flight
  notified : Bool
  src      : Option (Nat × Nat)
  order    : Nat
deriving DecidableEq, Repr

/-- The states of an instance (R348). -/
inductive TwSt where
  | running | recovery | complete | failed
deriving DecidableEq, Repr

/-- An instance of a schedule on this rank (R348): its table entry, number, base, state and fault, its operations, the
warp operation it completes, the counters of its reduce blocks (R342), when it last made progress, the FAIL chunks
not yet acknowledged, by position, and since when a chunk of it has stalled (R333). -/
structure TwInst where
  sched   : Nat
  inst    : Nat
  entry   : Nat
  ib      : DWord
  st      : TwSt
  kind    : Nat
  fpos    : Nat
  ops     : List TwOpSt
  starter : Option (WarpId × Nat)
  slots   : List (Nat × Nat)
  last    : Nat
  failing : List (Nat × Flight)
  stallAt : Option Nat
deriving DecidableEq, Repr

/-- A chunk on the link (R345): its header fields, and the bytes of a DATA chunk with their poison. -/
structure Chunk where
  kind    : Nat
  attempt : Nat
  sched   : Nat
  inst    : Nat
  top     : Nat
  pos     : Nat
  opIx    : Nat
  word    : Word
  data    : List (Byte × Bool)
deriving DecidableEq, Repr

/-- An entry of the instance table (R350). -/
structure TwEntry where
  inst  : Nat
  state : Nat
  kind  : Nat
  fpos  : Nat
  sched : Nat
deriving DecidableEq, Repr

/-- A start waiting for a table entry (R348): the schedule, the base, and what started it: a warp's operation, or a
SIGNAL packet whose completion record is due. -/
structure TwStart where
  sched   : Nat
  ib      : DWord
  starter : Option (WarpId × Nat)
  due     : Option Due
deriving DecidableEq, Repr

/-- A Tideway engine (R334 to R350). `peers` holds the oldest instance of a schedule at another rank that its credit tells
(R333), under 65,536 times the rank and the schedule's number; `outbox` lists the chunks the engine has sent with the rank each
goes to, newest first; `fireNo` numbers the operations that fire. -/
structure TwEngine where
  scheds : List Sched
  table  : Vector TwEntry 64
  queue  : List TwStart
  insts  : List TwInst
  held   : List Chunk
  fails  : List Chunk
  credit : List (Nat × Nat)
  peers  : List (Nat × Nat)
  outbox : List (Nat × Chunk)
  fireNo : Nat
deriving DecidableEq, Repr

/-! ### The platform -/

/-- The two variants of R3. -/
inductive Variant where
  | x | m
deriving DecidableEq, Repr

/-- A Strandline event (R145), its fields at the offsets given there. -/
structure Event where
  time  : Nat
  code  : Nat
  place : Nat
  cluster : Nat
  core  : Nat
  slot  : Nat
  cause : Nat
  seq   : Nat
  lid   : Nat
  pc    : Word
  info  : Word
deriving DecidableEq, Repr

/-- A ring of the Strandline recorder (R145): its events, oldest first, and how many it has recorded. -/
structure SlRing where
  events : List Event
  count  : Nat
deriving DecidableEq, Repr

/-- A Strandline dump in package flash (R146). -/
structure Dump where
  cores    : List (Nat × SlRing)
  devs     : List SlRing
  retained : Bool
deriving DecidableEq, Repr

/-- An input of the agenda that is no row of the opcode table: a soft error that a shadow check or a residue check will
find in the next checked result (R126, R259), or one that the granule code will find in DRAM (R165). -/
inductive Upset where
  | result (bits : DWord)
  | symbol (key : Nat)
  | granule (key : Nat)
deriving DecidableEq, Repr

/-- Who moves. -/
inductive Act where
  | agent (w : WarpId)
  | event (i : Instr)
  | upset (u : Upset)
deriving DecidableEq, Repr

/-- One turn of the agenda: how much device time and how many core clocks pass before it, and who moves. -/
structure Turn where
  ns     : Nat
  clocks : Nat
  act    : Act
deriving DecidableEq, Repr

/-- An entry of the meter journal (R358): a meter, its bound, and the digest that chains it to the entry before. -/
structure JEntry where
  meter  : Nat
  bound  : Nat
  digest : BitVec 256
deriving DecidableEq, Repr

/-- A signing request of a METERSNAP (R360): the meter, where its record goes and under which partition, the completion
record that follows it, and the signed record once there is one. -/
structure SignReq where
  meter  : Nat
  part   : Nat
  dest   : DWord
  due    : Due
  record : Option (List Byte)
deriving DecidableEq, Repr

/-- The state of a package. The first block of fields is the model's own; every other field is state the spec names. -/
structure State where
  agenda   : List Turn
  cur      : Option WarpId
  fresh    : Nat
  upset    : Option DWord
  nextSeq  : Nat
  hostData : List (List Byte)
  irqs     : List Nat
  portData : List (List Byte)
  variant  : Variant
  rank     : Nat
  shape    : Option (Nat × Nat × Nat)
  now      : Nat
  timeSet  : Bool
  clock    : Nat
  ticks    : Nat
  capped   : Bool
  capWant  : Bool
  tctl     : Word
  tstat    : Word
  toff     : Word
  thold    : Nat
  boot     : Nat
  bootErr  : Bool
  booting  : Option (Option Nat)
  helper   : List Byte
  certs    : List Byte
  cfgRecord : List Byte
  seed     : Option (BitVec 384)
  activeB  : Bool
  parts    : List Partition
  tenancies : List Tenancy
  allots   : List Allot
  journal  : List JEntry
  begun    : Bool
  finals   : List (Nat × Nat)
  retired  : Bool
  retiring : Bool
  seqNum   : Nat
  seqBound : Nat
  signQ    : List SignReq
  mlog     : List (List Byte)
  mdigest  : BitVec 256
  fwSlots  : Vector (List Byte) 2
  bootSlot : Nat
  update   : Option Nat
  coreRings : List (Nat × SlRing)
  devRings : Vector SlRing 2
  frozen   : Bool
  dumps    : List Dump
  dumpPage : Nat
  dram     : Memory
  poison   : List Nat
  symErr   : List (Nat × Nat)
  writers  : List (Nat × Nat)
  dies     : Vector BaseDie 8
  faults   : List PageFault
  codes    : List CodeObj
  rings    : List Ring
  groups   : List Group
  taken    : List Taken
  jobs     : List Job
  nextLid  : Nat
  launches : List Launch
  passes   : List Pass
  dues     : List Due
  blocks   : List Block
  reqs     : List Req
  moves    : List Move
  copies   : List Copy
  queries  : List Query
  gathers  : List Gather
  engines  : Vector TwEngine 2
deriving DecidableEq, Repr

/-! ### Reset -/

/-- Memory with nothing listed. -/
def Memory.empty : Memory := ⟨[]⟩

/-- A base die after reset (R170, R174): the registers at their reset values, and every table empty (log 5). -/
def BaseDie.reset : BaseDie := ⟨[], [], [], 0, 0, 0, 0, [], 0, [], []⟩

/-- An instance-table entry after reset (R350). -/
def TwEntry.reset : TwEntry := ⟨0, 0, 0, 0x1FF, 0⟩

/-- A Tideway engine after reset: nothing loaded, started, held or granted. -/
def TwEngine.reset : TwEngine := ⟨[], Vector.replicate 64 TwEntry.reset, [], [], [], [], [], [], [], 0⟩

/-- A Strandline ring with no event. -/
def SlRing.empty : SlRing := ⟨[], 0⟩

/-- The package after reset: device time 0 (R362), launch identifiers from 1 (R288), DRAM zeroed (R364), no ring
registered (R279), and what the spec leaves open as logs 2 to 5 say. -/
def State.reset : State where
  agenda := []
  cur := none
  fresh := 0
  upset := none
  nextSeq := 0
  hostData := []
  irqs := []
  portData := []
  variant := .x
  rank := 0
  shape := none
  now := 0
  timeSet := false
  clock := 0
  ticks := 0
  capped := false
  capWant := false
  tctl := 0
  tstat := 0
  toff := 0
  thold := 0
  boot := 0
  bootErr := false
  booting := none
  helper := []
  certs := []
  cfgRecord := []
  seed := none
  activeB := false
  parts := []
  tenancies := []
  allots := []
  journal := []
  begun := false
  finals := []
  retired := false
  retiring := false
  seqNum := 0
  seqBound := 0
  signQ := []
  mlog := []
  mdigest := 0
  fwSlots := Vector.replicate 2 []
  bootSlot := 0
  update := none
  coreRings := []
  devRings := Vector.replicate 2 SlRing.empty
  frozen := false
  dumps := []
  dumpPage := 0
  dram := Memory.empty
  poison := []
  symErr := []
  writers := []
  dies := Vector.replicate 8 BaseDie.reset
  faults := []
  codes := []
  rings := []
  groups := []
  taken := []
  jobs := []
  nextLid := 1
  launches := []
  passes := []
  dues := []
  blocks := []
  reqs := []
  moves := []
  copies := []
  queries := []
  gathers := []
  engines := Vector.replicate 2 TwEngine.reset

end Sys2Proof.Machine
end

