-- ==== Sys2Proof/Machine/Mem.lean ====
section
/-! DEFINITION. Memory and scratchpad as data: reading and writing bytes of the canonical form, little-endian words,
scratchpad granules with their poison (R139), and pending counts of lines (R161). -/
namespace Sys2Proof.Machine

/-! ### Lists keyed by number -/

/-- The entry of a keyed list. -/
def lookupN {α : Type} (l : List (Nat × α)) (k : Nat) : Option α := (l.find? (fun x => x.1 == k)).map (·.2)

/-- The list without an entry. -/
def eraseN {α : Type} (l : List (Nat × α)) (k : Nat) : List (Nat × α) := l.filter (fun x => x.1 != k)

/-- The list with an entry replaced or added in ascending order. -/
def insertN {α : Type} : List (Nat × α) → Nat → α → List (Nat × α)
  | [], k, x => [(k, x)]
  | (j, y) :: t, k, x =>
    if k < j then (k, x) :: (j, y) :: t
    else if k = j then (k, x) :: t
    else (j, y) :: insertN t k x

/-- A number added to an ascending list of numbers. -/
def addN : List Nat → Nat → List Nat
  | [], k => [k]
  | j :: t, k => if k < j then k :: j :: t else if k = j then j :: t else j :: addN t k

/-- A number removed from a list. -/
def removeN (l : List Nat) (k : Nat) : List Nat := l.filter (· != k)

/-! ### Memory -/

/-- What the cells give for an address: 0 where none lists it (R364). -/
def readCells : List Host.Cell → Nat → Byte
  | [], _ => 0
  | (b, v) :: t, a => if b = a then v else readCells t a

/-- The cells with one byte written, kept in canonical form. -/
def writeCells : List Host.Cell → Nat → Byte → List Host.Cell
  | [], a, v => if v = 0 then [] else [(a, v)]
  | (b, w) :: t, a, v =>
    if a < b then (if v = 0 then (b, w) :: t else (a, v) :: (b, w) :: t)
    else if a = b then (if v = 0 then t else (a, v) :: t)
    else (b, w) :: writeCells t a v

/-- The canonical form: addresses strictly rising from `lo` on, and no byte 0. -/
def cellsWf : Nat → List Host.Cell → Bool
  | _, [] => true
  | lo, (a, v) :: t => decide (lo ≤ a) && (v != 0) && cellsWf (a + 1) t

/-- The canonical form of a memory. -/
def Memory.wf (m : Memory) : Bool := cellsWf 0 m.cells

/-- The byte at an address. -/
def Memory.read (m : Memory) (a : Nat) : Byte := readCells m.cells a

/-- The memory with one byte written. -/
def Memory.write (m : Memory) (a : Nat) (v : Byte) : Memory := ⟨writeCells m.cells a v⟩

/-- `n` bytes from an address. -/
def Memory.readN (m : Memory) (a n : Nat) : List Byte := (List.range n).map fun i => m.read (a + i)

/-- Bytes written from an address on. -/
def Memory.writeN (m : Memory) (a : Nat) : List Byte → Memory
  | [] => m
  | v :: t => (m.write a v).writeN (a + 1) t

/-- Bytes written from an address on, where the mask enables them (R150). -/
def Memory.writeMask (m : Memory) (a : Nat) (mask : Nat → Bool) : Nat → List Byte → Memory
  | _, [] => m
  | i, v :: t => (if mask i then m.write (a + i) v else m).writeMask a mask (i + 1) t

/-! ### Little-endian numbers -/

/-- The number little-endian bytes hold (R18). -/
def leNat : List Byte → Nat
  | [] => 0
  | b :: t => b.toNat + 256 * leNat t

/-- The low `n` bytes of a number, lowest first. -/
def leBytes : Nat → Nat → List Byte
  | 0, _ => []
  | n + 1, x => BitVec.ofNat 8 x :: leBytes n (x / 256)

/-- The bytes of a list from an offset on, as a little-endian number of `n` bytes. -/
def fieldAt (bs : List Byte) (off n : Nat) : Nat := leNat ((bs.drop off).take n)

/-! ### Scratchpad -/

namespace Scratch

/-- The pending count of a 64-byte line (R161). -/
def pendOf (sc : Scratch) (line : Nat) : Nat := (lookupN sc.pend line).getD 0

/-- A line's pending count set; a count of 0 lists nothing. -/
def setPend (sc : Scratch) (line n : Nat) : Scratch :=
  { sc with pend := if n = 0 then eraseN sc.pend line else insertN sc.pend line n }

/-- Every line of a range is present (R161). -/
def present (sc : Scratch) (off n : Nat) : Bool :=
  n == 0 || (List.range ((off + n - 1) / 64 - off / 64 + 1)).all fun i => sc.pendOf (off / 64 + i) == 0

/-- Some granule of a range is poisoned (R139). -/
def poisoned (sc : Scratch) (off n : Nat) : Bool :=
  sc.poison.any fun g => decide (g * 32 < off + n ∧ off < g * 32 + 32)

/-- Granules touched by a range. -/
def granules (off n : Nat) : List Nat :=
  if n = 0 then [] else (List.range ((off + n - 1) / 32 - off / 32 + 1)).map (off / 32 + ·)

/-- A granule lies wholly in a range. -/
def covers (off n g : Nat) : Bool := decide (off ≤ g * 32 ∧ g * 32 + 32 ≤ off + n)

/-- Bytes stored at an offset: a poisoned store poisons the granules it writes, and a store of a whole granule replaces
it (R139, log 12). -/
def put (sc : Scratch) (off : Nat) (bs : List Byte) (bad : Bool) : Scratch :=
  let gs := granules off bs.length
  { sc with
    bytes := sc.bytes.writeN off bs
    poison := if bad then gs.foldl addN sc.poison
      else sc.poison.filter fun g => !covers off bs.length g }

/-- The bytes of a range. -/
def get (sc : Scratch) (off n : Nat) : List Byte := sc.bytes.readN off n

/-- The granules of a range marked poisoned. -/
def taint (sc : Scratch) (off n : Nat) : Scratch := { sc with poison := (granules off n).foldl addN sc.poison }

/-- Bytes stored at an offset, each with its poison, which marks its granule (R139). -/
def putMarked (sc : Scratch) (off : Nat) (bs : List (Byte × Bool)) : Scratch :=
  bs.zipIdx.foldl (fun (sc : Scratch) x => if x.1.2 then sc.taint (off + x.2) 1 else sc) (sc.put off (bs.map (·.1)) false)

/-- A fresh allocation: zero in every byte, every line present (R157). -/
def fresh (size : Nat) : Scratch := ⟨size, Memory.empty, [], []⟩

/-- The lines a range touches. -/
def lines (off n : Nat) : List Nat :=
  if n = 0 then [] else (List.range ((off + n - 1) / 64 - off / 64 + 1)).map (off / 64 + ·)

end Scratch

end Sys2Proof.Machine
end

