-- ==== Sys2Proof/Machine/Store.lean ====
section
/-! DEFINITION. Reading and writing the parts of the state by their names: base dies, launches, jobs, rings, blocks, warps;
the rows of a block with their reference counts (R77, R83). -/
namespace Sys2Proof.Machine

/-! ### Parts of the state -/

namespace State

/-- A base die; one beyond the package reads as after reset. -/
def die (s : State) (i : Nat) : BaseDie := s.dies[i]?.getD BaseDie.reset
/-- A base die written. -/
def setDie (s : State) (i : Nat) (d : BaseDie) : State := { s with dies := s.dies.setIfInBounds i d }
/-- A Tideway engine. -/
def engine (s : State) (i : Nat) : TwEngine := s.engines[i]?.getD TwEngine.reset
/-- A Tideway engine written. -/
def setEngine (s : State) (i : Nat) (e : TwEngine) : State := { s with engines := s.engines.setIfInBounds i e }

/-- A block by its identity. -/
def block? (s : State) (k : BlockId) : Option Block := s.blocks.find? fun b => b.key == k
/-- A block written in its place. -/
def setBlock (s : State) (b : Block) : State :=
  { s with blocks := s.blocks.map fun x => if x.key == b.key then b else x }
/-- A launch by its identifier. -/
def launch? (s : State) (lid : Nat) : Option Launch := s.launches.find? fun l => l.lid == lid
/-- A launch written in its place. -/
def setLaunch (s : State) (l : Launch) : State :=
  { s with launches := s.launches.map fun x => if x.lid == l.lid then l else x }
/-- A job of a partition. -/
def job? (s : State) (part : Nat) (id : Word) : Option Job := s.jobs.find? fun j => j.part == part && j.id == id
/-- A job written in its place. -/
def setJob (s : State) (j : Job) : State :=
  { s with jobs := s.jobs.map fun x => if x.part == j.part && x.id == j.id then j else x }
/-- A registered ring. -/
def ring? (s : State) (n : Nat) : Option Ring := s.rings.find? fun r => r.num == n
/-- A ring written in its place. -/
def setRing (s : State) (r : Ring) : State :=
  { s with rings := s.rings.map fun x => if x.num == r.num then r else x }
/-- A merge group. -/
def group? (s : State) (n : Nat) : Option Group := s.groups.find? fun g => g.num == n
/-- A merge group written in its place. -/
def setGroup (s : State) (g : Group) : State :=
  { s with groups := s.groups.map fun x => if x.num == g.num then g else x }
/-- The partition whose first stack is given. -/
def part? (s : State) (first : Nat) : Option Partition := s.parts.find? fun p => p.first == first
/-- A partition written in its place. -/
def setPart (s : State) (p : Partition) : State :=
  { s with parts := s.parts.map fun x => if x.first == p.first then p else x }
/-- The code object registered at an address in a partition. -/
def code? (s : State) (part : Nat) (addr : DWord) : Option CodeObj :=
  s.codes.find? fun c => c.part == part && c.addr == addr
/-- The prologue pass of a launch. -/
def pass? (s : State) (lid : Nat) : Option Pass := s.passes.find? fun p => p.lid == lid

/-- Stacks present (R3). -/
def stackCount (s : State) : Nat := match s.variant with | .x => 8 | .m => 4
/-- Clusters present (R3). -/
def clusters (s : State) : Nat := match s.variant with | .x => 48 | .m => 24
/-- Link dies present (R3). -/
def linkDies (s : State) : Nat := match s.variant with | .x => 2 | .m => 1
/-- Whether the Tideway engines and the load-store fabric are present (R3, R7). -/
def hasTideway (s : State) : Bool := match s.variant with | .x => true | .m => false

/-- sr.caps (R7). -/
def caps (s : State) : Word :=
  match s.variant with
  | .x => 8 ||| (2 <<< 4) ||| (1 <<< 6) ||| (1 <<< 7) ||| (16 <<< 8) ||| (48 <<< 13) ||| (4 <<< 19) ||| (1 <<< 22) ||| (1 <<< 24)
  | .m => 4 ||| (1 <<< 4) ||| (24 <<< 13) ||| (2 <<< 19) ||| (1 <<< 24)

/-- The link die that serves a cluster's half (R283). -/
def dieOfCluster (_s : State) (cluster : Nat) : Nat := if cluster < 24 then 0 else 1
/-- The link die whose front end serves a partition (R282). -/
def dieOfPart (_s : State) (first : Nat) : Nat := if first < 4 then 0 else 1

end State

/-- Six stacks' worth: the stack whose compute die holds a cluster (R316). -/
def stackOfCluster (cluster : Nat) : Nat := cluster / 6

namespace Partition

/-- A stack belongs to the partition. -/
def hasStack (p : Partition) (st : Nat) : Bool := decide (p.first ≤ st ∧ st < p.first + p.n)
/-- The cores of the partition (R298). -/
def cores (p : Partition) : Nat := 288 * p.n
/-- A cluster belongs to the partition. -/
def hasCluster (p : Partition) (c : Nat) : Bool := p.hasStack (stackOfCluster c)

end Partition

/-! ### Warps of a block -/

namespace Block

/-- A warp of the block. -/
def warp? (b : Block) (n : Nat) : Option Warp := b.warps.find? fun w => w.num == n
/-- A warp written in its place. -/
def setWarp (b : Block) (w : Warp) : Block :=
  { b with warps := b.warps.map fun x => if x.num == w.num then w else x }
/-- The block stands on a core: resident, or waiting there for its save to end. -/
def onCore (b : Block) : Bool := b.st == .resident || b.st == .saving
/-- The warps that have not ended. -/
def live (b : Block) : List Warp := b.warps.filter fun w => !w.ended

/-! ### Rows (R77, R83) -/

/-- A row of the block. -/
def row? (b : Block) (id : Nat) : Option Row := lookupN b.rows id
/-- The number of the next fresh row. -/
def freshRow (b : Block) : Nat := b.rows.foldl (fun m x => max m (x.1 + 1)) 0
/-- A row written. -/
def putRow (b : Block) (id : Nat) (r : Row) : Block := { b with rows := insertN b.rows id r }
/-- A fresh row with one reference. -/
def addRow (b : Block) (lanes : Vector Word 32) (poison : Mask) : Block × Nat :=
  let id := b.freshRow
  (b.putRow id ⟨lanes, poison, 1⟩, id)
/-- One reference more. -/
def incRow (b : Block) (id : Nat) : Block :=
  match b.row? id with
  | some r => { b with rows := insertN b.rows id { r with count := r.count + 1 } }
  | none => b
/-- One reference less; the row is freed when none is left (R50). -/
def decRow (b : Block) (id : Nat) : Block :=
  match b.row? id with
  | some r => if r.count ≤ 1 then { b with rows := eraseN b.rows id }
      else { b with rows := insertN b.rows id { r with count := r.count - 1 } }
  | none => b
/-- The reference of a mapping or slot dropped, where it holds one. -/
def dropRef (b : Block) : Option Nat → Block
  | some id => b.decRow id
  | none => b
/-- Several references dropped. -/
def dropRefs (b : Block) (l : List (Option Nat)) : Block := l.foldl dropRef b

/-- A physical tile of the block (R237). -/
def tile? (b : Block) (id : Nat) : Option Tile := b.tiles.find? fun t => t.id == id
/-- A tile written in its place. -/
def setTile (b : Block) (t : Tile) : Block :=
  { b with tiles := b.tiles.map fun x => if x.id == t.id then t else x }
/-- The lowest tile number that is free; none when all 48 hold (R237). -/
def freeTile (b : Block) : Option Nat := (List.range 48).find? fun i => !(b.tiles.any fun t => t.id == i)
/-- Whether a tile is mapped by a name, held by the undo log, or read or written by an operation outstanding (R238). -/
def tileUsed (b : Block) (id : Nat) : Bool :=
  (b.warps.any fun w => (w.acc.toList.any fun a => a.tile == some id)
      || (w.undo.any fun u => u.acc.any fun x => x.2.tile == some id))
    || (b.steps.any fun t => t.tile == id) || (b.xfers.any fun x => x.tiles.contains id)
/-- The tiles no holder keeps are freed (R238). -/
def sweepTiles (b : Block) : Block := { b with tiles := b.tiles.filter fun t => b.tileUsed t.id }

/-- The engine released: it goes to the lowest-numbered warp parked in MACQ.wait, or is free (R217). -/
def releaseEngine (b : Block) : Block :=
  { b with holder := ((List.range 16).find? fun n => b.warps.any fun w =>
      w.num == n && !w.ended && (match w.st with | .macq _ => true | _ => false)) }

end Block

/-! ### Names of a warp -/

namespace Warp

/-- The trap-depth bit, sr.tcause[16] (R129). -/
def depth (w : Warp) : Bool := w.tcause.getLsbD 16
/-- The trap-depth bit written. -/
def setDepth (w : Warp) (d : Bool) : Warp :=
  { w with tcause := if d then w.tcause ||| 0x10000#32 else w.tcause &&& ~~~0x10000#32 }
/-- The lanes that have launched and not exited (R58, R62). -/
def liveMask (w : Warp) : Mask := w.launched &&& ~~~w.exited
/-- An s-name (R11). -/
def sget (w : Warp) (n : Name) : Word := w.s[n.toNat]'n.isLt
/-- An s-name written, with its poison. -/
def sput (w : Warp) (n : Name) (x : Word) (bad : Bool := false) : Warp :=
  { w with s := w.s.set n.toNat x n.isLt
           sPoison := if bad then w.sPoison ||| (1#64 <<< n.toNat) else w.sPoison &&& ~~~(1#64 <<< n.toNat) }
/-- Whether an s-name is poisoned (R139). -/
def sbad (w : Warp) (n : Name) : Bool := w.sPoison.getLsbD n.toNat
/-- A p-name: p0 reads as all ones (R89). -/
def pget (w : Warp) (n : PName) : Mask := if n = 0 then 0xFFFFFFFF#32 else w.p[n.toNat]'n.isLt
/-- The poisoned bits of a p-name. -/
def pbad (w : Warp) (n : PName) : Mask := if n = 0 then 0 else w.pPoison[n.toNat]'n.isLt
/-- A p-name written in the lanes of a mask; a write to p0 is discarded (R89). -/
def pput (w : Warp) (n : PName) (lanes : Mask) (x bad : Mask) : Warp :=
  if n = 0 then w else
  { w with p := w.p.set n.toNat ((w.pget n &&& ~~~lanes) ||| (x &&& lanes)) n.isLt
           pPoison := w.pPoison.set n.toNat ((w.pbad n &&& ~~~lanes) ||| (bad &&& lanes)) n.isLt }
/-- The row a v-name maps. -/
def vmap (w : Warp) (n : Name) : Option Nat := w.v[n.toNat]'n.isLt
/-- A v-name's mapping written. -/
def setVmap (w : Warp) (n : Name) (r : Option Nat) : Warp := { w with v := w.v.set n.toNat r n.isLt }
/-- An a-name. -/
def aget (w : Warp) (n : AName) : AccName := w.acc[n.toNat]'n.isLt
/-- An a-name written. -/
def setAcc (w : Warp) (n : AName) (a : AccName) : Warp := { w with acc := w.acc.set n.toNat a n.isLt }

/-- The warp is converged (R62). -/
def converged (w : Warp) : Bool :=
  (w.m &&& ~~~w.exited) == w.liveMask && w.stack.isEmpty

/-- The operations of a class its counter counts (R198). -/
def classOps (w : Warp) (c : Cls) : List EngOp := w.ops.filter fun o => o.cls == c
/-- A class counter (R198). -/
def count (w : Warp) (c : Cls) : Nat := (w.classOps c).length

/-- Completed operations of a class leave the counter in issue order (R148, R198). -/
def retireOps (w : Warp) (c : Cls) : Warp :=
  let rec go : List EngOp → Bool → List EngOp
    | [], _ => []
    | o :: t, blocked =>
      if o.cls = c then
        if !blocked && o.st == .done then go t false else o :: go t true
      else o :: go t blocked
  { w with ops := go w.ops false }

/-- An operation's standing written, and its class counted down as far as it may. -/
def setOp (w : Warp) (seq : Nat) (st : OpSt) : Warp :=
  match w.ops.find? fun o => o.seq == seq with
  | none => w
  | some o =>
    let ops := w.ops.map fun (x : EngOp) => if x.seq == seq then { x with st := st } else x
    retireOps { w with ops } o.cls

/-- A tag is busy: a packet in flight names it, or one that holds an undelivered fault (R147, R200). -/
def tagBusy (w : Warp) (t : BitVec 3) : Bool :=
  w.ops.any fun o => o.cls == .pkt && o.tag == t && o.st != .done

/-- The rows the undo log holds back (R77, R144). -/
def undoRefs (w : Warp) : List (Option Nat) := w.undo.flatMap fun u => u.v.map (·.2)

/-- The accumulator names released (R238). -/
def clearAcc (w : Warp) : Warp := { w with acc := Vector.replicate 16 ⟨none, false⟩ }

end Warp

/-! ### Changing a part in place -/

/-- A block changed in place. -/
def State.updBlock (s : State) (k : BlockId) (f : Block → Block) : State :=
  match s.block? k with
  | some b => s.setBlock (f b)
  | none => s

/-- A live warp changed in place. -/
def State.updWarp (s : State) (w : WarpId) (f : Warp → Warp) : State :=
  s.updBlock w.blk fun b => match b.warp? w.warp with
    | some x => if x.ended then b else b.setWarp (f x)
    | none => b

/-- A live warp. -/
def State.warp? (s : State) (w : WarpId) : Option Warp :=
  ((s.block? w.blk).bind fun b => b.warp? w.warp).bind fun x => if x.ended then none else some x

/-- The oldest entry of a warp's undo log discarded, what it held back released (R144). -/
def Block.dropOldest (b : Block) (n : Nat) : Block :=
  match b.warp? n with
  | none => b
  | some w => match w.undo.getLast? with
    | none => b
    | some u => ((b.dropRefs (u.v.map (·.2))).setWarp { w with undo := w.undo.dropLast }).sweepTiles

/-! ### The core pool (R81) -/

/-- A number once for each time a list names it. -/
def occurs (l : List (Option Nat)) (k : Nat) : Nat := (l.filter (· == some k)).length

/-- The rows of a core's pool a block uses (R81): those of the mappings saved at trap entry, and those that nothing but undo
logs holds. -/
def Block.poolRows (b : Block) : Nat :=
  let saved := (b.warps.flatMap fun w => w.saved.toList.filterMap id).eraseDups
  let logged := b.warps.flatMap fun w => w.undoRefs
  let held := (logged.filterMap id).eraseDups.filter fun k =>
    !saved.contains k && ((b.row? k).map (·.count)).getD 0 ≤ occurs logged k
  saved.length + held.length

namespace State

/-- The blocks on the core of a block. -/
def coreMates (s : State) (b : Block) : List Block :=
  s.blocks.filter fun x => x.kind == b.kind && x.onCore && x.cluster == b.cluster && x.core == b.core

/-- The rows of a core's pool in use (R81). -/
def poolUsed (s : State) (b : Block) : Nat := (s.coreMates b).foldl (fun n x => n + x.poolRows) 0

/-- The warp whose undo log gives up an entry first: the one named, then any other of its core. -/
def firstLog (s : State) (own : WarpId) (b : Block) : Option WarpId :=
  let ids := own :: ((s.coreMates b).flatMap fun x => x.warps.map fun w => (⟨x.key, w.num⟩ : WarpId))
  ids.find? fun a => match (s.block? a.blk).bind fun x => x.warp? a.warp with
    | some w => !w.undo.isEmpty
    | none => false

/-- Undo logs give up their oldest entries while a core's pool is over its 240 rows (R81). The spec does not say which log of
the core gives way: DESIGN CHOICE, that of the warp that drew on the pool, then the others (log 35). -/
def trimPool (own : WarpId) : Nat → State → State
  | 0, s => s
  | n + 1, s => match s.block? own.blk with
    | none => s
    | some b =>
      if s.poolUsed b ≤ 240 then s else
      match s.firstLog own b with
      | none => s
      | some a => trimPool own n (s.updBlock a.blk fun x => x.dropOldest a.warp)

/-- Enough turns of `trimPool` to empty every log of a core. -/
def poolFuel : Nat := 4096

/-- Every core's undo logs within its pool (R81), after a step that gave a pool more rows: a mapping dropped with its warp, a
handoff, a diversion, a resume. Where no instruction drew on the pool, the logs give way in the order of the blocks (log 35). -/
def trimLogs (s : State) : State :=
  if s.blocks.all fun b => b.warps.all fun w => w.undo.isEmpty then s
  else (s.blocks.filter fun b => b.onCore).foldl (fun s b => trimPool ⟨b.key, 0⟩ poolFuel s) s

end State

end Sys2Proof.Machine
end

