-- ==== Sys2Proof/Machine/Front.lean ====
section
/-! DEFINITION. What the front end and firmware do to launches, gangs, blocks and warps: Strandline events (R145), counters
and status (R73, R309), the ends of warps and blocks (R64, R157), phase boundaries and block barriers (R70, R320), gang
kill and relaunch (R312, R313, R352), and the diversion at an expiry or cancel (R274, R307). -/
namespace Sys2Proof.Machine

/-! ### Strandline (R145) -/

/-- An event added to a ring of `cap` entries, the oldest overwritten. -/
def SlRing.push (r : SlRing) (cap : Nat) (e : Event) : SlRing :=
  let es := r.events ++ [{ e with seq := r.count % 65536 }]
  ⟨es.drop (es.length - cap), r.count + 1⟩

/-- An event entered in a device ring, and in a core's ring where it concerns one; none once the rings are frozen
(R146). -/
def State.logEvent (s : State) (die : Nat) (e : Event) : State :=
  if s.frozen then s else
  let s := { s with devRings := match s.devRings[die]? with
    | some r => s.devRings.setIfInBounds die (r.push 4096 e)
    | none => s.devRings }
  if e.core < 48 ∧ e.cluster < 48 then
    let k := 48 * e.cluster + e.core
    { s with coreRings := insertN s.coreRings k (((lookupN s.coreRings k).getD SlRing.empty).push 64 e) }
  else s

/-- An event of a warp. A prologue's place is its link die (R292). -/
def State.logWarp (s : State) (b : Block) (w : Warp) (code cause : Nat) (info : Word) : State :=
  match b.kind with
  | .kernel => s.logEvent (s.dieOfCluster b.cluster)
      ⟨s.now, code, stackOfCluster b.cluster, b.cluster, b.core, w.slot, cause, 0, b.key.lid, w.pc, info⟩
  | .prologue =>
      let die := ((s.pass? b.key.lid).map (·.die)).getD 0
      s.logEvent die ⟨s.now, code, 0x80 + die, 0xFF, 0xFF, 0xFF, cause, 0, b.key.lid, w.pc, info⟩

/-- An event of a gang, at the place of its block 0. -/
def State.logBlock (s : State) (b : Block) (code cause : Nat) (info : Word) : State :=
  s.logEvent (s.dieOfCluster b.cluster)
    ⟨s.now, code, stackOfCluster b.cluster, b.cluster, b.core, 0xFF, cause, 0, b.key.lid, 0, info⟩

/-- An event of a front end. -/
def State.logFront (s : State) (part code cause : Nat) (lid : Nat) (info : Word) : State :=
  let die := s.dieOfPart part
  s.logEvent die ⟨s.now, code, 0x80 + die, 0xFF, 0xFF, 0xFF, cause, 0, lid, 0, info⟩

/-! ### Load and slack (R298, R299) -/

namespace LaunchRec

/-- Scheduling priority. -/
def pri (r : LaunchRec) : Nat := (r.flags.extractLsb' 2 2).toNat
/-- Relaunch permitted. -/
def relaunch (r : LaunchRec) : Bool := r.flags.getLsbD 0
/-- The debug bit (R143). -/
def debug (r : LaunchRec) : Bool := r.flags.getLsbD 1
/-- The gangs of the grid. -/
def gangs (r : LaunchRec) : Nat := r.x * r.y * r.z

end LaunchRec

/-- The effective SHARE of a priority (R297): 257 to 511 act as 256. -/
def Partition.shareOf (p : Partition) (pri : Nat) : Nat :=
  min 256 ((p.share[pri]?.getD 0).extractLsb' 0 9).toNat

/-- A launch's remaining cost in 1/1000 of a unit of 1/16 core-µs (R298). -/
def Launch.rem (l : Launch) : Nat :=
  match l.rcd with
  | some r => r.cost * 1000 - l.used
  | none => 0

/-- Whether a launch counts in a committed load (R298). -/
def Launch.committed (l : Launch) : Bool :=
  l.ebbAt.isNone && (l.st == .queued || l.st == .running)

/-- L(P, D) of a partition, in 1/1000 of a unit (R298). -/
def State.loadMilli (s : State) (part pri deadline : Nat) : Nat :=
  (s.launches.filter fun l => l.part == part && l.committed && (match l.rcd with
    | some r => decide (pri < r.pri) || (r.pri == pri && decide (r.deadline ≤ deadline))
    | none => false)).foldl (fun n l => n + l.rem) 0

/-- Rounding up. -/
def ceilDiv (a b : Nat) : Nat := if b = 0 then 0 else (a + b - 1) / b

/-- t of R299 for a cost `c` in units. -/
def State.admitTime (s : State) (p : Partition) (pri deadline c : Nat) : Nat :=
  ceilDiv ((s.loadMilli p.first pri deadline + c * 1000) * 16) (p.cores * p.shareOf pri)

/-- The slack of R299. -/
def State.slack (s : State) (p : Partition) (pri deadline c : Nat) : Int :=
  (deadline : Int) - s.now - s.admitTime p pri deadline c

/-! ### Completion (R73, R309) -/

/-- The status when the counter reaches zero (R309). -/
def Launch.finalStatus (l : Launch) : Status :=
  if l.cancelled then .cancelled
  else if l.gangFailed then .gangFailed
  else if l.ebbAt.isSome && l.overBudget then .budgetExceeded
  else if l.ebbAt.isSome then .expired
  else .completed

/-- The code of a status (R287). -/
def Status.code : Status → Nat
  | .completed => 0 | .rejected => 1 | .cancelled => 2 | .expired => 3 | .budgetExceeded => 4 | .gangFailed => 5
  | .absent => 6 | .malformed => 7 | .prologueFault => 8 | .prologueTimeout => 9 | .timeout => 10

/-- A launch is COMPLETE, and Strandline says so (R145, R301). -/
def State.logComplete (s : State) (l : Launch) (st : Status) : State :=
  (s.setLaunch { l with st := .complete }).logFront l.part 0x09 0 l.lid (BitVec.ofNat 32 st.code)

/-- A reduce block ended by a final EXIT or WRAPEND within its budget (R343): it was placed, no kill took it, and its deadline,
the dispatch time plus the budget, has not passed. -/
def Launch.reduced (l : Launch) (st : Status) (now : Nat) : Bool :=
  (st == .completed || st == .cancelled) && !l.gangFailed && !l.overBudget && (l.ebbAt.isNone || l.wrap.isSome)
    && !l.gangs.isEmpty && l.gangs.all (·.st == .ended)
    && (match l.rcd with | some r => decide (now ≤ r.deadline) | none => false)

/-- A pass ends with a status and a reason: its record becomes due (R286); a reduce block, for which nothing is written, is
complete at once, and the reason tells its instance whether it failed (R343). -/
def State.endLaunch (s : State) (l : Launch) (st : Status) (reason : Nat) : State :=
  match l.origin with
  | .reduce .. => s.logComplete { l with status := some (st, if l.reduced st s.now then 0 else 4) } st
  | .ring _ =>
    let s := s.setLaunch { l with status := some (st, reason) }
    { s with dues := s.dues ++
        [⟨l.compl, l.irq, l.part, l.vec, st, reason, l.pass % 65536, l.tag, l.lid, l.flags.length, some l.lid, none⟩] }

/-- The completion counter lowered by `n` blocks; at zero the status is decided (R73, R309). -/
def State.countDown (s : State) (lid n : Nat) : State :=
  match s.launch? lid with
  | none => s
  | some l =>
    let l := { l with counter := l.counter - n }
    if l.counter = 0 ∧ l.status.isNone then (s.setLaunch l).endLaunch l l.finalStatus 0 else s.setLaunch l

/-- A gang's state written. -/
def Launch.setGang (l : Launch) (idx : Nat) (f : Gang → Gang) : Launch :=
  { l with gangs := l.gangs.map fun g => if g.idx == idx then f g else g }

/-- A gang of the launch. -/
def Launch.gang? (l : Launch) (idx : Nat) : Option Gang := l.gangs.find? fun g => g.idx == idx

/-- The block is one of a gang's. -/
def Block.inGang (b : Block) (lid idx : Nat) : Bool := b.kind == .kernel && b.key.lid == lid && b.key.gang == idx

/-- The blocks of a gang. -/
def State.gangBlocks (s : State) (lid idx : Nat) : List Block := s.blocks.filter fun b => b.inGang lid idx

/-- The blocks of a gang taken away, their allocations freed. -/
def State.dropGang (s : State) (lid idx : Nat) : State :=
  { s with blocks := s.blocks.filter fun (b : Block) => !b.inGang lid idx }

/-- The blocks of a gang that have not ended. -/
def State.gangLeft (s : State) (lid idx : Nat) : Nat :=
  ((s.gangBlocks lid idx).filter fun b => b.st != .ended).length

/-- A launch's gang written in the state. -/
def State.setGang (s : State) (lid idx : Nat) (f : Gang → Gang) : State :=
  match s.launch? lid with
  | some l => s.setLaunch (l.setGang idx f)
  | none => s

/-- The operations of some warps complete with their results discarded (R307, R352). -/
def State.orphan (s : State) (p : WarpId → Bool) : State :=
  { s with
    reqs := s.reqs.map fun r => if p r.wid then { r with dead := true } else r
    copies := s.copies.map fun c => if p c.wid then { c with dead := true, lines := [] } else c
    queries := s.queries.map fun q => if p q.wid then { q with dead := true } else q }

/-! ### Phase boundaries and block barriers -/

/-- The reset table of R228. -/
def resetCodebook : Vector (BitVec 16 × Bool) 16 :=
  #v[(0x0000, false), (0x3F00, false), (0x3F80, false), (0x3FC0, false), (0x4000, false), (0x4040, false),
     (0x4080, false), (0x40C0, false), (0x0000, false), (0xBF00, false), (0xBF80, false), (0xBFC0, false),
     (0xC000, false), (0xC040, false), (0xC080, false), (0xC0C0, false)]

/-- The operand buffer and codebook slots at a block's start and after a boundary: no reservation, every slot at the
reset table (R237, R247). -/
def OpBuf.fresh : OpBuf := ⟨Vector.replicate 8 none, Memory.empty, [], [], Vector.replicate 16 resetCodebook⟩

/-- The matrix state a boundary leaves (R247). -/
def Block.clearMatrix (b : Block) : Block := { b with ob := OpBuf.fresh, snap := OpBuf.fresh }

/-- An MTILE stopped part-done hands over no further step; its start leaves MTX when its last step has completed
(R252). -/
def Block.stopMtile (b : Block) (w : Warp) : Warp :=
  match w.st with
  | .mtile seq => if b.steps.any fun t => t.seq == seq then w else w.setOp seq .done
  | _ => w

/-- What a stopped warp keeps of a wait: its place among those that wait for the engine (R141), and the object of its BARWT.
Any other instruction runs again when it goes on. -/
def WarpSt.atRest : WarpSt → WarpSt
  | .macq p => .macq p
  | .barwt o ph r => .barwt o ph r
  | _ => .ready

/-- A warp that stops precisely, its MTILE between steps (R59, R140). -/
def Block.stopWarp (b : Block) (w : Warp) : Warp :=
  let w := b.stopMtile w
  { w with st := w.st.atRest, stepOne := false }

/-- One warp through a boundary (R70): names outside its carry mask unmapped, p1 to p7 zero, accumulators released, and
on to the instruction after its PHASE. -/
def Block.carryWarp (b : Block) (w : Warp) : Block :=
  match w.st with
  | .phase idx =>
    let mask := b.kern.carry.getD idx 0
    let gone := w.v.toList.zipIdx.map fun (r, i) => if mask.getLsbD i then none else r
    let b := b.dropRefs (gone ++ w.undoRefs)
    b.setWarp { w.clearAcc with
      v := Vector.ofFn fun i => if mask.getLsbD i then w.v[i] else none
      p := Vector.replicate 8 0
      pPoison := Vector.replicate 8 0
      pc := w.pc + 4
      st := .ready
      stepOne := false
      wdog := 0
      undo := [] }
  | _ => b

/-- The boundary for every warp of a block at once (R70). -/
def Block.passBoundary (b : Block) : Block :=
  let b := b.live.foldl carryWarp b
  let b := b.dropRefs b.slots.toList
  { b.clearMatrix.sweepTiles with slots := Vector.replicate 16 none, holder := none }

/-- What a phase record keeps of a warp (R71), every other register as at its start (log 13). -/
def Warp.phaseRecord (w : Warp) : Warp :=
  { w with m := w.liveMask, stack := [], tpc := 0, tcause := 0, tlanes := 0, taddr := 0, taddrh := 0, tinfo := 0,
           saved := Vector.replicate 8 none, ctr := 0, ctrPc := 0, wdog := 0, st := .ready, stepOne := false }

/-- The block parked at its boundary. -/
def Block.park (b : Block) : Block :=
  { b with st := .parked, boundary := false, warps := b.warps.map Warp.phaseRecord }

/-- The gather in progress on a cluster. -/
def State.gatherOf (s : State) (cluster : Nat) : Option Gather := s.gathers.find? fun g => g.cluster == cluster

/-- A gang is to be parked (R304, R305): its cluster is in gather for another gang, one of its blocks holds a target
core, if only with the allocation it left (R157), and its launch is not in EBB. -/
def State.toPark (s : State) (b : Block) : Bool :=
  match s.gatherOf b.cluster with
  | none => false
  | some g =>
    !(g.lid == b.key.lid && g.gang == b.key.gang)
      && ((s.gangBlocks b.key.lid b.key.gang).any fun x => (x.st == .resident || x.st == .ended) && g.target.contains x.core)
      && (match s.launch? b.key.lid with | some l => l.ebbAt.isNone | none => false)

/-- The blocks of a gang that wait at BOUNDARY (R72, R304): the gang is parked once every block of it that has not ended
stands there, and they go on in place once it is no longer to be parked. -/
def State.lookAgain (s : State) (b : Block) : State :=
  let bs := (s.gangBlocks b.key.lid b.key.gang).filter fun x => x.st != .ended
  if s.toPark b then
    if !bs.isEmpty && bs.all (·.boundary) then
      let s := bs.foldl (fun (s : State) x => (s.setBlock x.park).logBlock x 0x05 0 0) s
      s.setGang b.key.lid b.key.gang fun g => { g with st := .parked }
    else s
  else bs.foldl (fun (s : State) x => if x.boundary then s.setBlock { x with boundary := false } else s) s

/-- The block scheduler at a boundary of a block (R71, R72, R304). -/
def State.atBoundary (s : State) (b : Block) : State := (s.setBlock { b with boundary := true }).lookAgain b

/-! ### The end of a block -/

/-- A block ends (R50, R73, R157): its rows, slots and matrix state are freed, its allocation stays until every block of
its gang has ended, blocks of the gang that wait at BOUNDARY are looked at again, and the counter falls. -/
def State.endBlock (s : State) (b : Block) : State :=
  let b := { b with st := .ended, rows := [], slots := Vector.replicate 16 none, holder := none, tiles := [],
                    steps := [], xfers := [], warps := [] }
  let s := s.setBlock b
  let s := if (s.gangBlocks b.key.lid b.key.gang).all fun x => x.st == .ended then
      (s.dropGang b.key.lid b.key.gang).setGang b.key.lid b.key.gang fun g => { g with st := .ended }
    else s.lookAgain b
  s.countDown b.key.lid 1

/-- Whether every live warp waits at PHASE. -/
def Block.allAtPhase (b : Block) : Bool :=
  !b.live.isEmpty && b.live.all fun w => match w.st with | .phase _ => true | _ => false

/-- Whether every live warp has arrived at a block barrier. -/
def Block.allAtBarb (b : Block) (id : Nat) : Bool :=
  !b.live.isEmpty && b.live.all fun w => w.st == .barb id

/-- A completed block barrier: every arrived warp resumes after its BARB (R320). -/
def Block.passBarb (b : Block) (id : Nat) : Block :=
  if b.allAtBarb id then
    { b with warps := b.warps.map fun w => if w.ended then w else { w with
        pc := w.pc + 4, st := .ready, stepOne := false, wdog := 0 } }
  else b

/-- Barriers and boundaries that an arrival or an end of a warp completes (R70, R320). -/
def State.settle (s : State) (b : Block) : State :=
  let b := (List.range 16).foldl Block.passBarb b
  if b.allAtPhase then s.atBoundary b.passBoundary else s.setBlock b

/-! ### The end of a warp -/

/-- A warp ends (R64): every reference of its names and saved mappings is dropped, its accumulators and the engine are
released, and its slot is free. -/
def Block.endWarp (b : Block) (w : Warp) : Block :=
  let b := b.dropRefs (w.v.toList ++ w.saved.toList ++ w.undoRefs)
  let w := { w.clearAcc with v := Vector.replicate 64 none, saved := Vector.replicate 8 none, exited := 0xFFFFFFFF#32,
                             ended := true, st := .ready, ops := [], undo := [], ctr := 0, wdog := 0 }
  let b := b.setWarp w
  let b := if b.holder == some w.num then b.releaseEngine else b
  b.sweepTiles

/-- A warp ends, and with its last warp the block; what its end completes settles (R64, R320). -/
def State.endWarp (s : State) (b : Block) (w : Warp) : State :=
  let b := b.endWarp w
  if b.live.isEmpty then s.endBlock b else s.settle b

/-! ### Gang kill and relaunch -/

/-- Why a gang is killed. -/
inductive Kill where
  /-- a machine check (R352) -/
  | mcheck
  /-- the default handler, an escalation, the watchdog (R135, R136, R311), a partition reset (R363) -/
  | firmware
  /-- the kills of R307 at an expiry or cancel without wrap-up entry -/
  | noWrap
  /-- the kills of R307 at E + B -/
  | budget
deriving DecidableEq, Repr

/-- Whether R312 relaunches a gang. -/
def State.relaunches (s : State) (l : Launch) (g : Gang) : Bool :=
  match l.rcd, s.part? l.part with
  | some r, some p =>
    r.relaunch && decide (g.relaunches < 2) && l.ebbAt.isNone && decide (p.shareOf r.pri ≠ 0)
      && decide (0 ≤ s.slack p r.pri r.deadline (ceilDiv (r.cost * r.g) (r.gangs * r.g)))
  | _, _ => false

/-- A gather for a gang ends, and blocks it held at a boundary go on (R305). -/
def State.endGather (s : State) (lid gang : Nat) : State :=
  let cs := (s.gathers.filter fun g => g.lid == lid && g.gang == gang).map (·.cluster)
  { s with
    gathers := s.gathers.filter fun g => !(g.lid == lid && g.gang == gang)
    blocks := s.blocks.map fun b => if cs.contains b.cluster then { b with boundary := false } else b }

/-- The gathers of a launch's gangs end. -/
def State.endGathers (s : State) (lid : Nat) : State :=
  (s.gathers.filter fun g => g.lid == lid).foldl (fun (s : State) g => s.endGather g.lid g.gang) s

/-- A gang of a lower number waits for placement: it is the launch's candidate, if any is (R305). -/
def Launch.waitsBelow (l : Launch) (idx : Nat) : Bool := l.gangs.any fun g => g.st == .unplaced && decide (g.idx < idx)

/-- A gang is killed: its blocks are freed, held faults dropped, its operations left to complete with their results
discarded, and it is relaunched, KILLED or ENDED as its cause gives (R304, R307, R312, R313, R352). -/
def State.killGang (s : State) (lid idx : Nat) (k : Kill) : State :=
  match s.launch? lid with
  | none => s
  | some l =>
    match l.gang? idx with
    | none => s
    | some g =>
      let left := s.gangLeft lid idx
      let s := (s.dropGang lid idx).orphan fun w => w.blk.lid == lid && w.blk.gang == idx
      let again := k == .mcheck && s.relaunches l g
      if again then
        let n := (l.rcd.map (·.g)).getD 0
        s.setLaunch { (l.setGang idx fun g => { g with st := .unplaced, relaunches := g.relaunches + 1 }) with
          counter := l.counter - left + n, w0 := if l.waitsBelow idx then l.w0 else none }
      else
        let st : GangSt := match k with
          | .mcheck | .firmware => .killed
          | .noWrap | .budget => .ended
        let l := l.setGang idx fun g => { g with st := st }
        let l : Launch := { l with gangFailed := l.gangFailed || st == .killed, overBudget := l.overBudget || k == .budget }
        (s.setLaunch l).countDown lid left

/-- A warp's gang is killed, a Strandline GANG_KILL event recorded (R352). A prologue has no gang. -/
def State.killGangOf (s : State) (b : Block) (k : Kill) (cause : Nat) : State :=
  (s.logBlock b 0x04 cause 0).killGang b.key.lid b.key.gang k

/-! ### The ebb (R274, R307) -/

/-- The mappings of v56 to v63 saved at trap entry come back, and the handler's are dropped (R134, R137). -/
def Block.restoreSaved (b : Block) (w : Warp) : Block × Warp :=
  let b := b.dropRefs (w.v.toList.drop 56)
  (b, { w with v := Vector.ofFn fun i => if i.val < 56 then w.v[i] else w.saved[i.val - 56]?.join
               saved := Vector.replicate 8 none }.setDepth false)

/-- A warp that a diversion passes over: in wrap-up, or draining a final EXIT or WRAPEND (R307). -/
def Warp.undiverted (w : Warp) : Bool := w.ended || w.inWrap || w.st == .drain

/-- One warp diverted to the wrap-up entry (R137, R274, R307); a debug stop ends (R308). -/
def Block.divertWarp (entry : Word) (b : Block) (w : Warp) : Block :=
  if w.undiverted then b else
  let w := b.stopMtile w
  let (b, w, at_) := if w.depth then
      let (b, w') := b.restoreSaved w
      (b, w', w.tpc)
    else (b, w, w.pc)
  b.setWarp { w with
    ebbpc := at_, pc := entry, inWrap := true, m := w.liveMask, stack := [], wdog := 0, st := .ready
    halted := false, stepOne := false }

/-- Every warp of a block diverted; a block waiting at BOUNDARY goes on. -/
def Block.divert (b : Block) (entry : Word) : Block :=
  let b := b.warps.foldl (Block.divertWarp entry) b
  { b with boundary := false }

/-- Gangs of the launch that have not been placed, in blocks (R307, step 2). -/
def Launch.unplacedBlocks (l : Launch) : Nat :=
  match l.rcd with
  | none => 0
  | some r => ((r.gangs - l.next) + (l.gangs.filter fun g => g.st == .unplaced).length) * r.g

/-- A parked or saved gang DISCARDED (R307). -/
def State.discardGang (s : State) (lid idx : Nat) : State :=
  let n := s.gangLeft lid idx
  ((s.dropGang lid idx).setGang lid idx fun g => { g with st := .discarded }).countDown lid n

/-- An expiry (`cancel` false) or a cancel recorded at time E = now (R74, R307): unplaced gangs are DISCARDED, resident
warps diverted or killed, and parked and saved gangs wait to resume into wrap-up or are DISCARDED. Nothing happens when
one is already recorded or the counter has reached zero (R76, R301). -/
def State.recordEbb (s : State) (lid : Nat) (cancel : Bool) : State :=
  match s.launch? lid with
  | none => s
  | some l =>
    if l.ebbAt.isSome || l.status.isSome || l.counter = 0 || !(l.st == .queued || l.st == .running) then s else
    let gone := l.unplacedBlocks
    let total := (l.rcd.map (·.gangs)).getD 0
    let l := { l with
      ebbAt := some s.now, cancelled := cancel, st := .ebb, next := total, w0 := none
      gangs := l.gangs.map fun g => if g.st == .unplaced then { g with st := .discarded } else g }
    let s := (s.setLaunch l).endGathers lid
    let s := if cancel then s else s.logFront l.part 0x0B 0 lid 0
    let s : State := match l.wrap with
      | some entry => { s with blocks := s.blocks.map fun (b : Block) =>
          if b.kind == .kernel && b.key.lid == lid && b.st == .resident then b.divert (BitVec.ofNat 32 entry) else b }
      | none =>
        let s := (l.gangs.filter fun g => g.st == .placed).foldl (fun (s : State) g => s.killGang lid g.idx .noWrap) s
        (l.gangs.filter fun g => g.st == .parked || g.st == .saved).foldl (fun (s : State) g => s.discardGang lid g.idx) s
    s.countDown lid gone

/-- At E + B every warp still present is killed and every gang not resumed is DISCARDED (R307, step 5). -/
def State.endBudget (s : State) (lid : Nat) : State :=
  match s.launch? lid with
  | none => s
  | some l =>
    let s := s.logFront l.part 0x0B 1 lid 0
    let late := l.gangs.filter fun g => g.st == .parked || g.st == .saved
    let s := if late.isEmpty then s else s.setLaunch { l with overBudget := true }
    let s := late.foldl (fun (s : State) g => s.discardGang lid g.idx) s
    (l.gangs.filter fun g => g.st == .placed).foldl (fun (s : State) g => s.killGang lid g.idx .budget) s

/-! ### Prologue passes (R292) -/

/-- A prologue pass is over: its scalar core is free, what it has in flight completes and is discarded, and its merge
group may take its next packet (R282, R292). -/
def State.closePass (s : State) (lid : Nat) : State :=
  let s : State := { s with
    passes := s.passes.filter fun p => p.lid != lid
    blocks := s.blocks.filter fun b => !(b.kind == .prologue && b.key.lid == lid)
    groups := s.groups.map fun (g : Group) => match g.busy with
      | some t => if t.lid == some lid then { g with busy := none } else g
      | none => g }
  s.orphan fun w => w.blk.lid == lid

/-- A pass that ends without submitting a record ends its launch with a status (R292). -/
def State.endPass (s : State) (lid : Nat) (st : Status) (reason : Nat) : State :=
  match s.launch? lid with
  | none => s
  | some l => if l.status.isSome then s else (s.closePass lid).endLaunch l st reason

end Sys2Proof.Machine
end

