-- ==== Sys2Proof/Machine/Ops.lean ====
section
/-! DEFINITION. The shared operations every meaning is written with: the executing warp and its block (`Ctx`), names, rows and
scratchpad through it, what an instruction does (`Eff`), taking a trap and returning from one (R132 to R136), machine
checks (R138), the checks of R43, and retirement. -/
namespace Sys2Proof.Machine

/-- Trap causes (R130). -/
inductive Cause where
  | illegalOpcode | reservedField | unmappedName | scratchBounds | misaligned | illegalConvergence | matrixNotHeld
  | unitAbsent | fpEnabled | badcode | tagFault | copyFault | stackOverflow | spillBounds | software | brk | priv
deriving DecidableEq, Repr

/-- The code of a cause (R130). -/
def Cause.code : Cause → Nat
  | .illegalOpcode => 0x01 | .reservedField => 0x02 | .unmappedName => 0x03 | .scratchBounds => 0x04
  | .misaligned => 0x05 | .illegalConvergence => 0x06 | .matrixNotHeld => 0x07 | .unitAbsent => 0x08
  | .fpEnabled => 0x09 | .badcode => 0x0A | .tagFault => 0x0B | .copyFault => 0x0C | .stackOverflow => 0x0D
  | .spillBounds => 0x0E | .software => 0x0F | .brk => 0x10 | .priv => 0x11

/-- Machine checks (R138). -/
inductive MCheck where
  | shadow | poisonConsumed | hwInternal
deriving DecidableEq, Repr

/-- The code of a machine check (R138). -/
def MCheck.code : MCheck → Nat
  | .shadow => 0x20 | .poisonConsumed => 0x21 | .hwInternal => 0x22

/-- What a trap writes (R129, R130): `lanes` none stands for the retire mask, `addr` none for a cause without an
address. -/
structure TrapInfo where
  cause : Cause
  info  : Word
  lanes : Option Mask := none
  addr  : Option DWord := none
  noskip : Bool := false

/-- The executing warp and its block, copied out of the state they stand in. -/
structure Ctx where
  s : State
  b : Block
  w : Warp

/-- What an instruction does: retire and go on at `pc`; trap; raise a machine check; wait unretired; or move the whole
state where one warp's copy does not say it all. -/
inductive Eff where
  | retire (c : Ctx) (pc : Word)
  | trap (c : Ctx) (t : TrapInfo)
  | mcheck (c : Ctx) (m : MCheck)
  | stay (c : Ctx) (st : WarpSt)
  | goto (s : State)

namespace Ctx

/-- The state with the warp and its block written back. -/
def commit (c : Ctx) : State := c.s.setBlock (c.b.setWarp c.w)
/-- The warp's identity. -/
def wid (c : Ctx) : WarpId := ⟨c.b.key, c.w.num⟩
/-- The device core index of R213. -/
def coreIx (c : Ctx) : Nat :=
  match c.b.kind with
  | .kernel => 48 * c.b.cluster + c.b.core
  | .prologue => match c.s.pass? c.b.key.lid with
    | some p => 2304 + 16 * p.die + p.fcore
    | none => 2304
/-- The address of the instruction after one of `n` bytes. -/
def next (c : Ctx) (n : Nat) : Word := c.w.pc + BitVec.ofNat 32 n
/-- The active mask under a guard (R13, R62). -/
def active (c : Ctx) (g : Guard) : Mask :=
  c.w.m &&& c.w.liveMask &&& (if g.neg then ~~~(c.w.pget g.p) else c.w.pget g.p)
/-- The lanes whose guard bit is poisoned: a guard consumes it (R102). -/
def guardBad (c : Ctx) (g : Guard) : Bool := (c.w.m &&& c.w.liveMask &&& c.w.pbad g.p) != 0
/-- The warp replaced. -/
def setW (c : Ctx) (w : Warp) : Ctx := { c with w }
/-- An s-name written. -/
def sput (c : Ctx) (n : Name) (x : Word) (bad : Bool := false) : Ctx := { c with w := c.w.sput n x bad }
/-- A p-name written in some lanes. -/
def pput (c : Ctx) (n : PName) (lanes x : Mask) (bad : Mask := 0) : Ctx := { c with w := c.w.pput n lanes x bad }
/-- The row a v-name maps. -/
def row? (c : Ctx) (n : Name) : Option Row := (c.w.vmap n).bind c.b.row?
/-- The lanes of a v-name; zeros when it maps no row. -/
def vlanes (c : Ctx) (n : Name) : Vector Word 32 :=
  match c.row? n with
  | some r => r.lanes
  | none => Vector.replicate 32 0
/-- The poisoned lanes of a v-name. -/
def vbad (c : Ctx) (n : Name) : Mask := match c.row? n with | some r => r.poison | none => 0

/-- The row write(v, row) of R17 makes: it holds `x` in the lanes of `act`, the old row's values in the other launched
lanes and zero in lanes that never launched (R52). -/
def newRow (c : Ctx) (n : Name) (act : Mask) (x : Nat → Word) (bad : Mask) : Row :=
  let old := c.vlanes n
  { lanes := Vector.ofFn fun i : Fin 32 =>
      if c.w.launched.getLsbD i then (if act.getLsbD i then x i else old[i]) else 0
    poison := c.w.launched &&& ((bad &&& act) ||| (c.vbad n &&& ~~~act))
    count := 1 }

/-- write(v, row) of R17: the name maps a fresh row, and the old row's count falls. -/
def vwrite (c : Ctx) (n : Name) (act : Mask) (x : Nat → Word) (bad : Mask := 0) : Ctx :=
  let id := c.b.freshRow
  { c with b := (c.b.dropRef (c.w.vmap n)).putRow id (c.newRow n act x bad), w := c.w.setVmap n (some id) }

/-- The first name of a list that maps no row (R79). -/
def unmapped? (c : Ctx) (ns : List Name) : Option Name := ns.find? fun n => (c.w.vmap n).isNone

/-! ### Scratchpad (R155, R156) -/

/-- The place of `n` bytes at a scratchpad address, none where the address fails the checks of R156. A prologue reaches its
scratch at 0x000 to 0xFFF alone (R292). -/
def resolve (c : Ctx) (a : Word) (n : Nat) : Option ScrLoc :=
  if a.getLsbD 31 then
    let blk := (a.extractLsb' 25 6).toNat
    let off := (a.extractLsb' 0 19).toNat
    if c.b.kind = .kernel ∧ blk < c.b.gsize ∧ a.extractLsb' 19 6 = 0#6 ∧ off + n ≤ c.b.kern.v then some ⟨{ c.b.key with num := blk }, off⟩
    else none
  else
    let off := (a.extractLsb' 0 31).toNat
    if off + n ≤ c.b.kern.v then some ⟨c.b.key, off⟩ else none

/-- The allocation of a block of the gang. -/
def scr (c : Ctx) (k : BlockId) : Scratch :=
  if k = c.b.key then c.b.scr else match c.s.block? k with | some b => b.scr | none => Scratch.fresh 0

/-- An allocation written. -/
def setScr (c : Ctx) (k : BlockId) (sc : Scratch) : Ctx :=
  if k = c.b.key then { c with b := { c.b with scr := sc } }
  else match c.s.block? k with
    | some b => { c with s := c.s.setBlock { b with scr := sc } }
    | none => c

/-- Bytes read at a place. -/
def get (c : Ctx) (l : ScrLoc) (n : Nat) : List Byte := (c.scr l.blk).get l.off n
/-- Whether a granule there is poisoned. -/
def getBad (c : Ctx) (l : ScrLoc) (n : Nat) : Bool := (c.scr l.blk).poisoned l.off n
/-- Whether the lines there are present (R161). -/
def present (c : Ctx) (l : ScrLoc) (n : Nat) : Bool := (c.scr l.blk).present l.off n
/-- Bytes stored at a place. -/
def put (c : Ctx) (l : ScrLoc) (bs : List Byte) (bad : Bool := false) : Ctx :=
  c.setScr l.blk ((c.scr l.blk).put l.off bs bad)
/-- A pending count raised or lowered (R161). -/
def pend (c : Ctx) (l : ScrLoc) (up : Bool) : Ctx :=
  let sc := c.scr l.blk
  let n := sc.pendOf (l.off / 64)
  c.setScr l.blk (sc.setPend (l.off / 64) (if up then n + 1 else n - 1))

end Ctx

/-! ### Retire mask (R58) -/

/-- The retire mask (R58). -/
def Ctx.retireMask (c : Ctx) (i : Instr) : Mask := if i.isL then c.active i.guard else c.w.liveMask

/-! ### Taking a trap (R132) and machine checks (R138) -/

/-- The whole gang stops for the debugger, each warp precisely (R143). -/
def State.stopGang (s : State) (lid gang : Nat) : State :=
  { s with blocks := s.blocks.map fun (b : Block) =>
      if b.inGang lid gang then
        { b with warps := b.warps.map fun (w : Warp) => if w.ended then w else { b.stopWarp w with halted := true } }
      else b }

/-- The warp as trap entry leaves it (R132): sr.tpc, sr.tcause, sr.tlanes, sr.tinfo, sr.taddr written, v56 to v63 saved
and unmapped, DEPTH set, the pc at the handler. -/
def Warp.enterTrap (w : Warp) (t : TrapInfo) (lanes : Mask) (len8 : Bool) (entry : Word) : Warp :=
  { w with
    tpc := w.pc
    tcause := BitVec.ofNat 32 (t.cause.code + (if len8 then 0x100 else 0) + (if t.noskip then 0x200 else 0) + 0x10000)
    tlanes := lanes
    tinfo := t.info
    taddr := match t.addr with | some a => a.setWidth 32 | none => w.taddr
    taddrh := match t.addr with | some a => (a >>> 32).setWidth 32 | none => w.taddrh
    saved := Vector.ofFn fun i : Fin 8 => w.v[56 + i.val]
    v := Vector.ofFn fun i : Fin 64 => if i.val < 56 then w.v[i] else none
    pc := entry
    wdog := 0
    st := .ready
    stepOne := false }

/-- Whether the debugger has selected a cause to stop on (R143). -/
def Ctx.debugStops (c : Ctx) (cause : Cause) : Bool :=
  c.b.debug && (match c.s.launch? c.b.key.lid with
    | some l => l.dbgCauses.contains cause.code
    | none => false)

/-- A trap taken (R132, R135, R136, R143, R292): a prologue's pass ends, a second error escalates, the debugger stops
the gang, the firmware default handler kills it, or the kernel's handler is entered. -/
def Ctx.takeTrap (c : Ctx) (t : TrapInfo) (lanes : Mask) (len8 : Bool) : State :=
  match c.b.kind with
  | .prologue => (c.commit.logWarp c.b c.w 0x01 t.cause.code t.info).endPass c.b.key.lid .prologueFault t.cause.code
  | .kernel =>
    if c.w.depth then
      (c.commit.logWarp c.b c.w 0x03 t.cause.code t.info).killGangOf c.b .firmware t.cause.code
    else if c.debugStops t.cause then c.commit.stopGang c.b.key.lid c.b.key.gang
    else
      let s := c.commit.logWarp c.b c.w 0x01 t.cause.code t.info
      match c.b.kern.trap with
      | none => s.killGangOf c.b .firmware t.cause.code
      | some e => (Ctx.commit { c with s, w := c.w.enterTrap t lanes len8 (BitVec.ofNat 32 e) }).trimPool c.wid State.poolFuel

/-- A machine check on the warp (R136, R138, R292, R352). -/
def Ctx.takeMCheck (c : Ctx) (m : MCheck) : State :=
  match c.b.kind with
  | .prologue => ((c.commit.logWarp c.b c.w 0x02 m.code 0).logWarp c.b c.w 0x01 m.code 0).endPass c.b.key.lid .prologueFault m.code
  | .kernel =>
    let s := c.commit.logWarp c.b c.w 0x02 m.code 0
    let s := if c.w.depth then s.logWarp c.b c.w 0x03 m.code 0 else s
    s.killGangOf c.b .mcheck m.code

/-! ### Return from a trap (R134) -/

/-- The warp as TRET leaves it: the saved mappings back, DEPTH clear, the pc where `skip` says; .skip resets the MTILE
step counter (R252). -/
def Ctx.leaveTrap (c : Ctx) (skip : Bool) : Ctx × Word :=
  let (b, w) := c.b.restoreSaved c.w
  let step : Word := if c.w.tcause.getLsbD 8 ∧ c.w.tcause.extractLsb' 0 8 ≠ 0x01#8 then 8 else 4
  ({ c with b, w := if skip then { w with ctr := 0 } else w }, if skip then c.w.tpc + step else c.w.tpc)

/-! ### Retirement -/

/-- Bytes of a size (R31). -/
def Size.bytes : Size → Nat
  | .b8 => 1 | .b16 => 2 | .b32 => 4 | .b64 => 8 | .b128 => 16

/-- The offset of a spill slot in the block's allocation (R158). -/
def Ctx.spillOff (c : Ctx) (k : BitVec 6) : Nat :=
  (c.b.kern.v + 127) / 128 * 128 + (c.w.num * c.b.kern.q + k.toNat) * 128

/-- The address of a lane of LD, ST and ATOM (R155, R179). -/
def Ctx.laneAddr (c : Ctx) (r : LmA) (i : Nat) : Word := c.w.sget r.s + (c.vlanes r.v)[i]?.getD 0

/-- The scratchpad address of SLD and SST (R125). -/
def Ctx.uniAddr (c : Ctx) (a : Name) (imm : BitVec 13) : Word := c.w.sget a + imm.signExtend 32

/-- A store through the cluster window (R144, R155): bit 31 of an address of a storing lane is set. -/
def Ctx.windowStore (c : Ctx) (i : Instr) : Bool :=
  let lanes (r : LmA) : Bool := (List.range 32).any fun k => (c.active r.g).getLsbD k && (c.laneAddr r k).getLsbD 31
  match i with
  | .st r _ | .stLong r _ | .atom r _ => lanes r
  | .sst _ a imm => (c.uniAddr a imm).getLsbD 31
  | .ast _ _ f _ => (c.w.sget f).getLsbD 31
  | _ => false

/-- The offsets and sizes of the scratchpad writes of an instruction within its block's allocation, those that R144 logs: ST, ATOM,
SST and SPILL, lane by lane. -/
def Ctx.storePlaces (c : Ctx) (i : Instr) : List (Nat × Nat) :=
  let lanes (r : LmA) (n : Nat) : List (Nat × Nat) := (List.range 32).filterMap fun k =>
    if (c.active r.g).getLsbD k then (c.resolve (c.laneAddr r k) n).map fun l => (l.off, n) else none
  match i with
  | .st r z => lanes r (Size.bytes z)
  | .stLong r w => lanes r (Size.bytes w.size)
  | .atom r w => lanes r (if w.w64 then 8 else 4)
  | .sst _ a imm => ((c.resolve (c.uniAddr a imm) 4).map fun l => (l.off, 4)).toList
  | .spill _ k => [(c.spillOff k, 128)]
  | _ => []

/-- The old bytes of those writes, as an undo entry holds them. -/
def Ctx.oldBytes (c : Ctx) (i : Instr) : List (Nat × Byte) :=
  (c.storePlaces i).flatMap fun x => ((c.b.scr.get x.1 x.2).zipIdx x.1).map fun y => (y.2, y.1)

/-- A tile's elements, as an undo entry holds them back. -/
def Block.tileCopy (b : Block) (a : AccName) : Option (Nat × Vector Word 256 × BitVec 256) :=
  (a.tile.bind b.tile?).map fun t => (t.id, t.el, t.poison)

/-- The undo entry of a retired instruction (R144): the old values of what it changed. -/
def undoEntry (o c : Ctx) (i : Instr) : Undo :=
  { pc := o.w.pc
    ctr := o.w.ctr
    seq := o.s.nextSeq
    v := (List.finRange 64).filterMap fun (i : Fin 64) => if o.w.v[i] = c.w.v[i] then none else some (i.val, o.w.v[i])
    s := (List.finRange 64).filterMap fun (i : Fin 64) =>
      if o.w.s[i] = c.w.s[i] ∧ o.w.sPoison.getLsbD i = c.w.sPoison.getLsbD i then none
      else some (i.val, o.w.s[i], o.w.sPoison.getLsbD i)
    p := (List.finRange 8).filterMap fun (i : Fin 8) =>
      if o.w.p[i] = c.w.p[i] ∧ o.w.pPoison[i] = c.w.pPoison[i] then none else some (i.val, o.w.p[i], o.w.pPoison[i])
    flg := if o.w.flg = c.w.flg then none else some o.w.flg
    masks := if o.w.m = c.w.m ∧ o.w.exited = c.w.exited ∧ o.w.stack = c.w.stack then none
      else some (o.w.exited, o.w.m, o.w.stack)
    scr := o.oldBytes i
    acc := (List.finRange 16).filterMap fun (i : Fin 16) => if o.w.acc[i] = c.w.acc[i] then none else some (i.val, o.w.acc[i])
    tiles := match i with
      | .mma _ _ d _ _ => (o.b.tileCopy (o.w.aget d)).toList
      | _ => [] }

/-- Whether an entry records a change. -/
def Undo.changes (u : Undo) : Bool :=
  !(u.v.isEmpty && u.s.isEmpty && u.p.isEmpty && u.flg.isNone && u.masks.isNone && u.scr.isEmpty && u.acc.isEmpty
    && u.tiles.isEmpty)

/-- A row held back by the log: one reference more, or the row put back with that reference alone (R77). -/
def Block.holdRow (b old : Block) : Option Nat → Block
  | none => b
  | some id => match b.row? id with
    | some _ => b.incRow id
    | none => match old.row? id with
      | some r => { b with rows := insertN b.rows id { r with count := 1 } }
      | none => b

/-- The oldest undo entries discarded while the log is over a limit of its own: 256 entries, or the 0x2000 bytes of the
reserve (R144). -/
def Ctx.trimUndo : Nat → Ctx → Ctx
  | 0, c => c
  | n + 1, c =>
    let bytes := c.w.undo.foldl (fun k u => k + u.scr.length) 0
    if c.w.undo.length ≤ 256 ∧ bytes ≤ 0x2000 then c else
    match c.w.undo.getLast? with
    | none => c
    | some u => trimUndo n { c with b := c.b.dropRefs (u.v.map (·.2)), w := { c.w with undo := c.w.undo.dropLast } }

/-- An entry of a warp's undo log, with the rows it holds back. -/
def Ctx.pushUndo (o c : Ctx) (u : Undo) : Ctx :=
  let b := u.v.foldl (fun b x => b.holdRow o.b x.2) c.b
  Ctx.trimUndo 257 { c with b, w := { c.w with undo := u :: c.w.undo } }

/-- The undo log after an instruction retires in debug mode (R144), youngest entry first. The entry of an MTILE is made with
its first step. -/
def Ctx.logUndo (o c : Ctx) (i : Instr) : Ctx :=
  if i.clearsUndo || o.windowStore i || decide (c.s.blocks ≠ o.s.blocks) then
    { c with b := c.b.dropRefs c.w.undoRefs, w := { c.w with undo := [] } }
  else match i with
  | .mtile .. => c
  | _ =>
    let u := undoEntry o c i
    if u.changes then o.pushUndo c u else c

/-- The state after an instruction of the warp `o` retires as `c` and goes on at `pc`. -/
def Ctx.retired (o c : Ctx) (i : Instr) (pc : Word) : State :=
  let c := c.setW { c.w with pc, wdog := 0, st := .ready, stepOne := false }
  if c.b.debug then (Ctx.logUndo o c i).commit.trimPool c.wid State.poolFuel else c.commit

/-! ### Running an instruction -/

/-- The checks of R43, in its order; a prologue's set is that of R293. DESIGN CHOICE: the matrix and handoff flags of the kernel are
not among them (log 52). -/
def Ctx.gate (c : Ctx) (i : Instr) : Option TrapInfo :=
  if !i.wf then some { cause := .illegalOpcode, info := i.firstWord }
  else match c.b.kind with
  | .prologue =>
    if !i.inPrologue then some { cause := .illegalOpcode, info := i.firstWord }
    else i.reserved.map fun b => { cause := .reservedField, info := badFieldInfo b }
  | .kernel =>
    if i.privInKernel then some { cause := .priv, info := i.firstWord }
    else match i.reserved with
    | some b => some { cause := .reservedField, info := badFieldInfo b }
    | none => match i with
      | .coll _ _ => if c.s.hasTideway then none else some { cause := .unitAbsent, info := i.firstWord }
      | _ => none

/-- An effect carried out. -/
def Ctx.finish (o : Ctx) (i : Instr) : Eff → State
  | .retire c pc => o.retired c i pc
  | .trap c t => (if o.b.kind == .kernel && !o.w.depth && o.debugStops t.cause then o else c).takeTrap t
      (t.lanes.getD (o.retireMask i)) (i.len == 8)
  | .mcheck c m => c.takeMCheck m
  | .stay c st => (c.setW { c.w with st }).commit
  | .goto s => s

/-- A warp that can execute: resident, not ended, not stopped, not held at a boundary. -/
def State.ctxAt (s : State) (a : WarpId) : Option Ctx :=
  match s.block? a.blk with
  | none => none
  | some b =>
    if b.st = .resident ∧ b.boundary = false then
      match b.warp? a.warp with
      | none => none
      | some w => if w.ended ∨ (w.halted ∧ !w.stepOne) then none else some ⟨s, b, w⟩
    else none

/-- The executing warp: the current agent. -/
def State.ctx (s : State) : Option Ctx := s.cur.bind s.ctxAt

/-- An instruction of the executing warp: the checks of R43, the poisoned guard of R102, then its meaning. -/
def State.run (s : State) (i : Instr) (f : Ctx → Eff) : Host.Outcome State Fault Refusal :=
  match s.ctx with
  | none => .fault .noAgent
  | some c =>
    match c.gate i with
    | some t => .next (c.takeTrap t (t.lanes.getD (c.retireMask i)) (i.len == 8))
    | none =>
      if i.isL && c.guardBad i.guard then .next (c.takeMCheck .poisonConsumed)
      else .next (c.finish i (f c))

/-- What a step leaves: every core's undo logs within its pool (R81). -/
def settle : Host.Outcome State Fault Refusal → Host.Outcome State Fault Refusal
  | .next s => .next s.trimLogs
  | .fault f => .fault f
  | .refused r => .refused r

end Sys2Proof.Machine
end

