-- ==== Sys2Proof/Machine/Flags.lean ====
section
/-! DEFINITION. Integer types read and written (R100, R103), and sr.flg with its sticky flags and enables (R105 to R107). -/
namespace Sys2Proof

/-- The width of an element (R26). -/
def Ty.bits : Ty → Nat
  | .s8 | .n8 => 8
  | .s16 | .n16 | .f16 | .bf16 => 16
  | .s32 | .n32 | .f32 => 32
  | .s64 | .n64 | .f64 => 64

/-- Signed integer types. -/
def Ty.signed : Ty → Bool
  | .s8 | .s16 | .s32 | .s64 => true
  | _ => false

/-- The least value of an integer type (R103). -/
def Ty.lo (t : Ty) : Int := if t.signed then -((2 : Int) ^ (t.bits - 1)) else 0
/-- The greatest value of an integer type (R103). -/
def Ty.hi (t : Ty) : Int := if t.signed then (2 : Int) ^ (t.bits - 1) - 1 else (2 : Int) ^ t.bits - 1

/-- The value a type reads from a lane or pair: its low bits, extended (R100). -/
def Ty.toInt (t : Ty) (x : BitVec 64) : Int :=
  if t.signed then (x.setWidth t.bits).toInt else ((x.setWidth t.bits).toNat : Int)

/-- A value wrapped to a type and extended to the lane or pair (R100, R103). -/
def Ty.ofInt (t : Ty) (r : Int) : BitVec 64 :=
  match t with
  | .s8 => ((BitVec.ofInt 8 r).signExtend 32).setWidth 64
  | .n8 => (BitVec.ofInt 8 r).setWidth 64
  | .s16 => ((BitVec.ofInt 16 r).signExtend 32).setWidth 64
  | .n16 => (BitVec.ofInt 16 r).setWidth 64
  | .s32 | .n32 => (BitVec.ofInt 32 r).setWidth 64
  | _ => BitVec.ofInt 64 r

/-- A value limited to a range. -/
def clampInt (lo hi x : Int) : Int := min (max x lo) hi

/-- The result of an integer instruction from its exact value (R103). -/
def Ty.result (t : Ty) (sat : Bool) (r : Int) : BitVec 64 :=
  t.ofInt (if sat then clampInt t.lo t.hi r else r)

namespace Machine

/-- Exceptions of an instruction in the bit order of sr.flg[4:0]: NV, DZ, OF, UF, NX (R105). -/
abbrev Exc := BitVec 5

/-- Invalid operation. -/
def Exc.nv : Exc := 1
/-- Division by zero. -/
def Exc.dz : Exc := 2
/-- Overflow, which is always inexact (R109). -/
def Exc.ofNx : Exc := 0x14
/-- Underflow, which is always inexact (R109). -/
def Exc.ufNx : Exc := 0x18
/-- Inexact. -/
def Exc.nx : Exc := 0x10

/-- The bits of sr.flg that SWR writes (R105). -/
def flgMask : Word := 0x00013F7F

namespace Warp

/-- FTZ (R108). -/
def ftz (w : Warp) : Bool := w.flg.getLsbD 16
/-- The enables of the five exceptions (R107). -/
def enables (w : Warp) : Exc := w.flg.extractLsb' 8 5
/-- ENBC (R105). -/
def enbc (w : Warp) : Bool := w.flg.getLsbD 13
/-- Exceptions merged into the sticky flags at retirement (R106). -/
def raise (w : Warp) (e : Exc) : Warp := { w with flg := w.flg ||| e.setWidth 32 }
/-- BADCODE set. -/
def raiseBadcode (w : Warp) (on : Bool) : Warp := { w with flg := if on then w.flg ||| 0x20#32 else w.flg }
/-- IOV set (R266). -/
def raiseIov (w : Warp) (on : Bool) : Warp := { w with flg := if on then w.flg ||| 0x40#32 else w.flg }
/-- The flags of a completed matrix step kept until a WAITC MTX covers the step (R257, R317). -/
def flagLate (w : Warp) (seq : Nat) (iov badcode : Bool) : Warp :=
  let x := (if iov then 0x40#32 else 0) ||| (if badcode then 0x20#32 else 0)
  if x = 0 then w else { w with late := w.late ++ [(seq, x)] }
/-- The flags a WAITC MTX lets SRD see: those of every operation but the `n` youngest (R199, R317). -/
def coverLate (w : Warp) (n : Nat) : Warp :=
  let young := w.mtxOps.take n
  { w with
    flg := w.late.foldl (fun f x => if young.contains x.1 then f else f ||| x.2) w.flg
    late := w.late.filter fun x => young.contains x.1 }
/-- sr.flg with the flags of every completed step (R105, R257). -/
def fullFlg (w : Warp) : Word := w.late.foldl (fun f x => f ||| x.2) w.flg

end Warp

end Machine

end Sys2Proof
end

