-- ==== Sys2Proof/Machine/Operands.lean ====
section
/-! DEFINITION. Operands of the lane instructions: v-names, broadcast s-names, pairs and groups (R79, R80, R100), poison
(R102), and the writing of lane results. -/
namespace Sys2Proof.Machine

/-- Operand `k` of those read. -/
def arg (xs : List (BitVec 64)) (k : Nat) : BitVec 64 := xs.getD k 0

/-- A source operand: a v-name, or with `s` an s-name read once; `wide` for an even pair (R100). -/
structure Opnd where
  n    : Name
  s    : Bool
  wide : Bool := false

/-- The name `k` after a name. -/
def Name.after (n : Name) (k : Nat) : Name := n + BitVec.ofNat 6 k

/-- A lane mask from a rule for each lane. -/
def maskOf (f : Nat → Bool) : Mask :=
  (List.range 32).foldl (fun m i => if f i then m ||| (1#32 <<< i) else m) 0

/-- The lanes of a mask, lowest first. -/
def lanesOf (m : Mask) : List Nat := (List.range 32).filter fun i => m.getLsbD i

/-- The low and the high word of a double word. -/
def loWord (x : BitVec 64) : Word := x.setWidth 32
/-- The high word. -/
def hiWord (x : BitVec 64) : Word := x.extractLsb' 32 32
/-- A double word from its high and low words. -/
def dword (hi lo : Word) : BitVec 64 := hi ++ lo

/-- An operand read: the value each lane sees, and the lanes where it is poisoned. -/
structure Read where
  val : Nat → BitVec 64
  bad : Mask

namespace Opnd

/-- The v-names an operand reads, the lowest first (R79). -/
def vnames (o : Opnd) : List Name := if o.s then [] else if o.wide then [o.n, Name.after o.n 1] else [o.n]

/-- The operand read in every lane (R100). -/
def read (c : Ctx) (o : Opnd) : Read :=
  if o.s then
    let x := if o.wide then dword (c.w.sget (Name.after o.n 1)) (c.w.sget o.n) else (c.w.sget o.n).setWidth 64
    let bad := c.w.sbad o.n || (o.wide && c.w.sbad (Name.after o.n 1))
    ⟨fun _ => x, if bad then 0xFFFFFFFF#32 else 0⟩
  else
    let lo := c.vlanes o.n
    if o.wide then
      let hi := c.vlanes (Name.after o.n 1)
      ⟨fun i => dword (hi[i]?.getD 0) (lo[i]?.getD 0), c.vbad o.n ||| c.vbad (Name.after o.n 1)⟩
    else ⟨fun i => (lo[i]?.getD 0).setWidth 64, c.vbad o.n⟩

end Opnd

namespace Ctx

/-- The instruction retires and the warp goes on after its `n` bytes. -/
def done (c : Ctx) (n : Nat) : Eff := .retire c (c.next n)

/-- The UNMAPPED_NAME trap (R49). -/
def unmapped (c : Ctx) (n : Name) : Eff := .trap c { cause := .unmappedName, info := n.setWidth 32 }

/-- The rest of an instruction that reads some v-names, if any lane is active, or the trap of R79. -/
def needs (c : Ctx) (act : Mask) (ns : List Name) (k : Eff) : Eff :=
  if act = 0 then k else
  match c.unmapped? ns with
  | some n => c.unmapped n
  | none => k

/-- write() to a name, or to both names of a pair (R17, R80). -/
def vwriteW (c : Ctx) (n : Name) (wide : Bool) (act : Mask) (x : Nat → BitVec 64) (bad : Mask) : Ctx :=
  let c := c.vwrite n act (fun i => loWord (x i)) bad
  if wide then c.vwrite (Name.after n 1) act (fun i => hiWord (x i)) bad else c

/-- An instruction that computes each active lane of one result from its operands, poison element by element (R102,
R103). -/
def laneOp (c : Ctx) (g : Guard) (len : Nat) (d : Name) (wide : Bool) (os : List Opnd)
    (f : Nat → List (BitVec 64) → BitVec 64) : Eff :=
  let act := c.active g
  c.needs act (os.flatMap Opnd.vnames) <|
    let rs := os.map (Opnd.read c)
    let bad := rs.foldl (fun m r => m ||| r.bad) 0
    (c.vwriteW d wide act (fun i => f i (rs.map fun r => r.val i)) bad).done len

/-- An instruction that computes a predicate bit in each active lane (R89, R102). -/
def predOp (c : Ctx) (g : Guard) (len : Nat) (pd : PName) (os : List Opnd) (f : Nat → List (BitVec 64) → Bool) : Eff :=
  let act := c.active g
  c.needs act (os.flatMap Opnd.vnames) <|
    let rs := os.map (Opnd.read c)
    let bad := rs.foldl (fun m r => m ||| r.bad) 0
    (c.pput pd act (maskOf fun i => f i (rs.map fun r => r.val i)) bad).done len

end Ctx

end Sys2Proof.Machine
end

