-- ==== Sys2Proof/Machine/Engine.lean ====
section
/-! DEFINITION. What engine operations share: the order of a warp's accesses (R204 to R206), hand-over and class counters
(R147, R198), the delivery of faults (R131, R200), and barrier objects (R195, R196). -/
namespace Sys2Proof.Machine

/-! ### Order of accesses (R204 to R206, R209) -/

namespace Sem

/-- Not relaxed (R205). -/
def strong : Sem → Bool
  | .rlx => false
  | _ => true
/-- An acquire. -/
def acquires : Sem → Bool
  | .acq | .acqrel => true
  | _ => false
/-- A release. -/
def releases : Sem → Bool
  | .rel | .acqrel => true
  | _ => false

end Sem

/-- A scope that counts a packet as performed only once its base die has performed it (R201, R206). -/
def atDie (sc : Scope) : Bool := sc != .core

/-- A request's bytes meet a range of a memory address space. -/
def Req.meets (r : Req) (asid : Option Nat) (addr : DWord) (n : Nat) : Bool :=
  r.asid == asid && decide (r.addr.toNat < addr.toNat + n ∧ addr.toNat < r.addr.toNat + r.size)

/-- A request on its way. -/
def Req.unperformed (r : Req) : Bool := r.st == .sent

/-- The requests of a warp that have not performed; those of a run of its gang that was killed are not its own (R313). -/
def Ctx.pendingReqs (c : Ctx) : List Req := c.s.reqs.filter fun r => r.wid == c.wid && !r.dead && r.unperformed

/-- The warp's acquires that have not performed, which its younger packets follow (R204). -/
def Ctx.acquires (c : Ctx) : List Nat := (c.pendingReqs.filter fun r => Sem.acquires r.sem && atDie r.scope).map (·.seq)

/-- An older acquire of the warp has not performed at its scope, so no younger access performs (R204). -/
def Ctx.acqPending (c : Ctx) : Bool := c.pendingReqs.any fun r => Sem.acquires r.sem && atDie r.scope

/-- An older strong packet must perform before a strong access issues (R204, R205): at its own scope, and for a release at
the release's scope. An access that is only an acquire read (`read`: LD or PKRD) passes one that is only a release write
where they share no byte (`apart`). -/
def Ctx.strongPending (c : Ctx) (sem : Sem) (scope : Scope) (read : Bool) (apart : Req → Bool) : Bool :=
  Sem.strong sem && c.pendingReqs.any fun r =>
    Sem.strong r.sem && (atDie r.scope || (Sem.releases sem && atDie scope))
      && !(read && sem == .acq && r.sem == .rel && (match r.kind with | .write _ _ => true | _ => false) && apart r)

/-- A scratchpad access goes on unless older accesses hold it back; it then waits, unretired. `read` says that it is an
LD. -/
def Ctx.inOrder (c : Ctx) (sem : Sem) (scope : Scope) (k : Eff) (read : Bool := false) : Eff :=
  if c.acqPending || c.strongPending sem scope read (fun _ => true) then .stay c .oldest else k

/-- The packets that had left a core when a promotion request arrived, numbered below `upto`, have performed (R209). Those that
wait for the read itself are passed over (`but`, log 40). -/
def State.promoted (s : State) (core upto : Nat) (but : List Nat) : Bool :=
  !(s.reqs.any fun r => r.chan == core && r.unperformed && decide (r.seq < upto) && !but.contains r.seq)

/-! ### Hand-over and completion (R147, R148, R198) -/

/-- An operation handed over: its class counter rises. -/
def Ctx.handOver (c : Ctx) (cls : Cls) (tag : BitVec 3) (sigs : List ScrLoc) : Ctx × Nat :=
  let seq := c.s.nextSeq
  ({ c with
      s := { c.s with nextSeq := seq + 1 }
      w := { c.w with
        ops := c.w.ops ++ [⟨seq, cls, tag, sigs, .pending⟩]
        mtxOps := if cls = .mtx then (seq :: c.w.mtxOps).take 256 else c.w.mtxOps } }, seq)

/-- How an operation that has completed stands (R200): with a fault it holds it, unless an older one of its class, PKT
apart, holds one already. -/
def Warp.completed (w : Warp) (seq : Nat) (f : Option OpFault) : OpSt :=
  match f, w.ops.find? fun o => o.seq == seq with
  | some f, some o =>
    if o.cls != .pkt && w.ops.any fun x => x.cls == o.cls && (match x.st with | .faulted _ => true | _ => false) then .withheld f
    else .faulted f
  | some f, none => .faulted f
  | none, _ => .done

/-- An operation completes at its warp, or with a fault holds it (R148, R200). -/
def State.completeOp (s : State) (w : WarpId) (seq : Nat) (f : Option OpFault) : State :=
  s.updWarp w fun x => x.setOp seq (x.completed seq f)

/-! ### Delivery of faults (R130, R131, R200) -/

/-- The trap that delivers an operation's fault. -/
def faultTrap (o : EngOp) (f : OpFault) : TrapInfo :=
  match o.cls with
  | .pkt => { cause := .tagFault, addr := some f.addr, info := BitVec.ofNat 32 (o.tag.toNat + 256 * f.kind) }
  | c => { cause := .copyFault, addr := some f.addr,
           info := BitVec.ofNat 32 (f.bytes % 2 ^ 24 + 2 ^ 24 * f.kind + 2 ^ 28 * c.code.toNat) }

/-- The oldest operation of a kind that holds a fault. -/
def Warp.oldestFault (w : Warp) (p : EngOp → Bool) : Option (EngOp × OpFault) :=
  w.ops.findSome? fun o => match o.st with
    | .faulted f => if p o then some (o, f) else none
    | _ => none

/-- A completion is kept back (R200). -/
def OpSt.keptBack : OpSt → Bool
  | .withheld _ => true
  | _ => false

/-- A completion that the engine kept back comes through once no fault of its class is held (R200). -/
def Warp.admitHeld (w : Warp) (cls : Cls) : Warp :=
  match w.ops.find? fun o => o.cls == cls && o.st.keptBack with
  | some ⟨seq, _, _, _, .withheld f⟩ => w.setOp seq (.faulted f)
  | _ => w

/-- The oldest such fault is delivered, and the operation counts as complete; else the instruction goes on. -/
def Ctx.deliver (c : Ctx) (p : EngOp → Bool) (k : Eff) : Eff :=
  match c.w.oldestFault p with
  | some (o, f) => .trap (c.setW ((c.w.setOp o.seq .done).admitHeld o.cls)) (faultTrap o f)
  | none => k

/-! ### Barrier objects (R195, R196) -/

/-- A barrier object. -/
structure Bar where
  ebytes : Nat
  earr   : Nat
  xbytes : Nat
  cbytes : Nat
  carr   : Nat
  ph     : Bool
  err    : Bool
  flt    : Bool
deriving DecidableEq, Repr

/-- The object in 16 bytes. -/
def Bar.ofBytes (bs : List Byte) : Bar :=
  let w := fieldAt bs 12 4
  { ebytes := fieldAt bs 0 3, earr := fieldAt bs 3 1, xbytes := fieldAt bs 4 3, cbytes := fieldAt bs 8 3,
    carr := fieldAt bs 11 1, ph := w % 2 == 1, err := w / 2 % 2 == 1, flt := w / 4 % 2 == 1 }

/-- The bytes of an object. -/
def Bar.bytes (b : Bar) : List Byte :=
  leBytes 4 (b.ebytes + 2 ^ 24 * b.earr) ++ leBytes 4 b.xbytes ++ leBytes 4 (b.cbytes + 2 ^ 24 * b.carr)
    ++ leBytes 4 ((if b.ph then 1 else 0) + (if b.err then 2 else 0) + (if b.flt then 4 else 0))

/-- A count added to, held at its maximum with ERR (R196). -/
def capAdd (x n top : Nat) : Nat × Bool := if top < x + n then (top, true) else (x + n, false)

/-- An event that adds arrivals, bytes or expected bytes. -/
def Bar.add (b : Bar) (arr bytes xb : Nat) (flt : Bool) : Bar :=
  let (carr, e1) := capAdd b.carr arr 255
  let (cbytes, e2) := capAdd b.cbytes bytes 0xFFFFFF
  let (xbytes, e3) := capAdd b.xbytes xb 0xFFFFFF
  { b with carr, cbytes, xbytes, err := b.err || e1 || e2 || e3, flt := b.flt || flt }

/-- The test after an event: at most one flip (R196). -/
def Bar.test (b : Bar) : Bar :=
  if b.earr ≤ b.carr ∧ b.ebytes + b.xbytes ≤ b.cbytes then
    { b with carr := b.carr - b.earr, cbytes := b.cbytes - (b.ebytes + b.xbytes), xbytes := 0, ph := !b.ph }
  else b

/-- Warps parked in BARWT on an object resume where their operand differs from its phase (R196). -/
def State.wakeBar (s : State) (l : ScrLoc) (ph : Bool) : State :=
  { s with blocks := s.blocks.map fun (b : Block) => { b with warps := b.warps.map fun (w : Warp) =>
      match w.st with
      | .barwt obj p false => if obj == l && p != ph then { w with st := .barwt obj p true } else w
      | _ => w } }

/-- An object replaced, and the parked warps tested. -/
def State.setBar (s : State) (l : ScrLoc) (b : Bar) : State :=
  (s.updBlock l.blk fun x => { x with scr := x.scr.put l.off b.bytes false }).wakeBar l b.ph

/-- The object at a place. DESIGN CHOICE: poison of its granule is not consumed (log 23). -/
def State.barAt (s : State) (l : ScrLoc) : Bar :=
  Bar.ofBytes (((s.block? l.blk).map fun b => b.scr.get l.off 16).getD [])

/-- An event on an object (R196). -/
def State.barEvent (s : State) (l : ScrLoc) (arr bytes xb : Nat) (flt : Bool) : State :=
  s.setBar l ((s.barAt l).add arr bytes xb flt).test

/-! ### Presence counts of other blocks (R161) -/

/-- The lines of a range, each named by its first byte. -/
def linesAt (l : ScrLoc) (n : Nat) : List ScrLoc := (Scratch.lines l.off n).map fun i => ⟨l.blk, 64 * i⟩

/-- Every line of a list can take one more (R161). -/
def Ctx.canPend (c : Ctx) (ls : List ScrLoc) : Bool := ls.all fun l => decide ((c.scr l.blk).pendOf (l.off / 64) < 15)

/-- Every line's count raised. -/
def Ctx.pendAll (c : Ctx) (ls : List ScrLoc) : Ctx := ls.foldl (fun (c : Ctx) l => c.pend l true) c

/-- A field of a word. -/
def fld (w : Word) (lo n : Nat) : Nat := w.toNat / 2 ^ lo % 2 ^ n

/-- A scratchpad address with its bank rotation (R160). -/
def rotate (code row : Nat) (a : Word) : Word := a ^^^ BitVec.ofNat 32 ((row * code % 32) <<< 4)

/-- The address of a byte of a row of a tile, rotated (R249, R160). -/
def tileAddr (base word : Word) (tile row byte : Nat) : Word :=
  rotate (fld word 29 3) (16 * tile + row) (base + BitVec.ofNat 32 (16 * fld word 16 13 * tile + fld word 0 16 * row + byte))

/-- A byte of scratchpad with its poison; none while its line is absent, or where the address fails R156. -/
def Ctx.peek (c : Ctx) (a : Word) : Option (Byte × Bool) :=
  (c.resolve a 1).bind fun l => if c.present l 1 then some ((c.get l 1).headD 0, c.getBad l 1) else none

/-- A step's operand bytes whose lines have become present, as they stand then (R162, R253). -/
def Side.refill (peek : Word → Option (Byte × Bool)) : Side → Side
  | .rows r => .rows r
  | .scr base word tile lo old => .scr base word tile lo (old.zipIdx.map fun (row, r) => row.zipIdx.map fun (x, j) =>
      x.or (peek (tileAddr base word tile r (lo + j))))

/-- The operands of the steps that a block holds, after lines have become present. -/
def State.refill (s : State) (b : Block) : Block :=
  match b.warps with
  | [] => b
  | w :: _ =>
    let see := (⟨s, b, w⟩ : Ctx).peek
    { b with steps := b.steps.map fun t => { t with a := t.a.refill see, b := t.b.refill see } }

/-- Every line's count lowered, in the state, and what the engine's steps find there once it is zero. -/
def State.unpendAll (s : State) (ls : List ScrLoc) : State :=
  let s := ls.foldl (fun (s : State) l => s.updBlock l.blk fun b =>
    { b with scr := b.scr.setPend (l.off / 64) (b.scr.pendOf (l.off / 64) - 1) }) s
  { s with blocks := s.blocks.map fun b => if b.steps.isEmpty then b else s.refill b }

/-- Bytes with their poison by granule, as a completion writes them (R131, R139). -/
def State.putScr (s : State) (l : ScrLoc) (bs : List (Byte × Bool)) : State :=
  s.updBlock l.blk fun b => { b with scr := b.scr.putMarked l.off bs }

/-! ### Scratchpad operands of engine instructions -/

/-- The place of an aligned scratchpad range, or the trap that refuses it: MISALIGNED before SCRATCH_BOUNDS (R184, R197). -/
def Ctx.engLoc (c : Ctx) (a : Word) (align n : Nat) : Except TrapInfo ScrLoc :=
  if a.toNat % align ≠ 0 then .error { cause := .misaligned, info := 0, addr := some (a.setWidth 64) }
  else match c.resolve a n with
    | some l => .ok l
    | none => .error { cause := .scratchBounds, info := 0, addr := some (a.setWidth 64) }

end Sys2Proof.Machine
end

