-- ==== Sys2Proof/Machine/Barriers.lean ====
section
/-! DEFINITION. Barrier objects (R195 to R197), WAITC (R199) and FENCE (R211, R212). -/
namespace Sys2Proof.Machine

/-- The object address of a barrier instruction, checked as R197 orders. -/
def Ctx.barLoc (c : Ctx) (f : Name) (k : ScrLoc → Eff) : Eff :=
  if c.w.sbad f then .mcheck c .poisonConsumed else
  match c.engLoc (c.w.sget f) 16 16 with
  | .error t => .trap c t
  | .ok l => k l

/-- A barrier instruction retires, and its event takes place. -/
def Ctx.barDone (c : Ctx) (i : Instr) (f : State → State) : Eff := .goto (f (c.retired c i (c.next 4)))

/-- The object BARINIT writes. -/
def Bar.init (x : Word) : Bar :=
  ⟨(x.extractLsb' 0 24).toNat, (x.extractLsb' 24 8).toNat, 0, 0, 0, false, false, false⟩

/-- BARINIT (R197). A poisoned S would be stored without its mark: it is consumed (log 23). -/
def execBarinit (f sn : Name) (s : State) : Host.Outcome State Fault Refusal :=
  s.run (.barinit f sn) fun c => c.barLoc f fun l =>
    if c.w.sbad sn then .mcheck c .poisonConsumed
    else c.inOrder .rlx .core <| c.barDone (.barinit f sn) fun s => s.setBar l (Bar.init (c.w.sget sn))

/-- BARARV (R197): a release at cluster scope, then one arrival. -/
def execBararv (f : Name) (s : State) : Host.Outcome State Fault Refusal :=
  s.run (.bararv f) fun c => c.barLoc f fun l =>
    c.inOrder .rel .cluster <| c.barDone (.bararv f) fun s => s.barEvent l 1 0 0 false

/-- BAREXP (R197). -/
def execBarexp (f sn : Name) (s : State) : Host.Outcome State Fault Refusal :=
  s.run (.barexp f sn) fun c => c.barLoc f fun l =>
    if c.w.sbad sn then .mcheck c .poisonConsumed
    else c.inOrder .rlx .core <| c.barDone (.barexp f sn) fun s =>
      s.barEvent l 0 0 ((c.w.sget sn).extractLsb' 0 24).toNat false

/-- BARWT (R197): parks while PH is the operand and no flip has released the warp, then delivers the faults of the warp's
operations that signal the object (R200). -/
def execBarwt (f : Name) (ph : Bool) (s : State) : Host.Outcome State Fault Refusal :=
  s.run (.barwt f ph) fun c => c.barLoc f fun l => c.inOrder .rlx .cluster <|
    if c.w.st == .barwt l ph true || (c.s.barAt l).ph != ph then
      c.deliver (fun o => o.sigs.contains l) (c.done 4)
    else .stay c (.barwt l ph false)

/-- WAITC (R199): an operation whose completion the engine keeps back has neither completed nor holds a fault (R200), and where none
of those waited for holds one, the warp parks. After one of class MTX, SRD sees the flags of the steps it covers (R317). -/
def execWaitc (cls : Cls) (n : Byte) (s : State) : Host.Outcome State Fault Refusal :=
  s.run (.waitc cls n) fun c =>
    let ops := c.w.classOps cls
    let old := ops.take (ops.length - n.toNat)
    let faulted := (c.w.oldestFault fun o => old.any fun x => x.seq == o.seq).isSome
    if old.any fun o => o.st == .pending || (o.st.keptBack && !faulted) then .stay c (.waitc cls n.toNat)
    else c.deliver (fun o => old.any fun x => x.seq == o.seq)
      ((if cls = .mtx then c.setW (c.w.coverLate n.toNat) else c).done 4)

/-- Every older packet of the warp has performed at a scope (R206, R211). -/
def Ctx.fenced (c : Ctx) (scope : Scope) : Bool := !atDie scope || c.pendingReqs.isEmpty

/-- Every packet that has left the warp's core has performed (R212). -/
def Ctx.coreDrained (c : Ctx) : Bool := !(c.s.reqs.any fun r => r.chan == c.coreIx && r.unperformed)

/-- FENCE (R211). FENCE.sc waits for its drain, then for the next tide tick, which completes it (R212). -/
def execFence (sc : Bool) (scope : Scope) (s : State) : Host.Outcome State Fault Refusal :=
  s.run (.fence sc scope) fun c =>
    if sc then
      if c.w.st == .fenceSc || (c.coreDrained && c.fenced .device) then .stay c .fenceSc else .stay c .oldest
    else if c.fenced scope then c.done 4 else .stay c .oldest

end Sys2Proof.Machine
end

