-- ==== Sys2Proof/Config.lean ====
section
/-! DEFINITION. What the spec leaves to the implementation or leaves open, as constants with no body: nothing can be
proved about a value of one, so a claim that holds here holds for every value (logs 3, 8, 11 and 29). -/
namespace Sys2Proof.Config

/-- The fixed function of R117 that picks among the results the bounds permit: `fn` numbers FRCP, FRSQ, FEXP2, FLOG2,
FSIN and FCOS from 0, `x` is the input. -/
opaque special : Nat → Word → BitVec 32

/-- A byte the spec leaves undefined: the contents of a new reservation's range (R243). -/
opaque freeByte : Nat → Byte

/-- The fault kind with which another package of the domain answers a request, none for no fault (R153). -/
opaque remoteFault : Nat → Option Nat

/-- Whether a granule that another package of the domain answers with is uncorrectable, where its fault kind is 2 (R131, R153). -/
opaque remoteBad : Nat → Bool

/-- What the SRAM PUF reconstructs from helper data (R353): the 48-byte identity seed, its first byte the least significant,
or none where reconstruction fails. -/
opaque puf : List Byte → Option (BitVec 384)

/-- The 16 bytes of added randomness with which the security processor signs a message (FIPS 205, R356). -/
opaque addrnd : List Byte → BitVec 128

/-- Whether Zelwin's signature of a configuration record holds (R354). -/
opaque recordGood : List Byte → Bool

/-- The device identity a configuration record names (R354). -/
opaque recordIdentity : List Byte → BitVec 256

/-- Whether the variant a configuration record fixes is SW9-M (R354). -/
opaque recordIsM : List Byte → Bool

/-- The licensor public key with which the security processor checks an allow-list, from its registered digest (R367, R368). -/
opaque licensor : BitVec 256 → List Byte

/-- Whether the signature of a firmware image holds (R295). -/
opaque imageGood : List Byte → Bool

end Sys2Proof.Config
end

