-- ==== Sys2Proof/Machine/Sha.lean ====
section
/-! DEFINITION. SHA-256, which R355, R289 and R367 name: the algorithm of FIPS 180-4 (log 11, PRESUMED: the spec names it
and does not restate it). -/
namespace Sys2Proof.Machine.Sha

/-- The 64 round constants. -/
def k : List Nat :=
  [0x428a2f98, 0x71374491, 0xb5c0fbcf, 0xe9b5dba5, 0x3956c25b, 0x59f111f1, 0x923f82a4, 0xab1c5ed5] ++
  [0xd807aa98, 0x12835b01, 0x243185be, 0x550c7dc3, 0x72be5d74, 0x80deb1fe, 0x9bdc06a7, 0xc19bf174] ++
  [0xe49b69c1, 0xefbe4786, 0x0fc19dc6, 0x240ca1cc, 0x2de92c6f, 0x4a7484aa, 0x5cb0a9dc, 0x76f988da] ++
  [0x983e5152, 0xa831c66d, 0xb00327c8, 0xbf597fc7, 0xc6e00bf3, 0xd5a79147, 0x06ca6351, 0x14292967] ++
  [0x27b70a85, 0x2e1b2138, 0x4d2c6dfc, 0x53380d13, 0x650a7354, 0x766a0abb, 0x81c2c92e, 0x92722c85] ++
  [0xa2bfe8a1, 0xa81a664b, 0xc24b8b70, 0xc76c51a3, 0xd192e819, 0xd6990624, 0xf40e3585, 0x106aa070] ++
  [0x19a4c116, 0x1e376c08, 0x2748774c, 0x34b0bcb5, 0x391c0cb3, 0x4ed8aa4a, 0x5b9cca4f, 0x682e6ff3] ++
  [0x748f82ee, 0x78a5636f, 0x84c87814, 0x8cc70208, 0x90befffa, 0xa4506ceb, 0xbef9a3f7, 0xc67178f2]

/-- The initial hash value. -/
def h0 : List Word :=
  [0x6a09e667, 0xbb67ae85, 0x3c6ef372, 0xa54ff53a, 0x510e527f, 0x9b05688c, 0x1f83d9ab, 0x5be0cd19]

/-- Rotation right. -/
def rotr (x : Word) (n : Nat) : Word := x.rotateRight n

/-- The message padded to whole blocks. -/
def pad (m : List Byte) : List Byte :=
  let z := (119 - m.length % 64) % 64
  m ++ [0x80#8] ++ List.replicate z 0#8 ++ (leBytes 8 (8 * m.length)).reverse

/-- A big-endian word. -/
def beWord (bs : List Byte) : Word := BitVec.ofNat 32 (leNat bs.reverse)

/-- The message schedule, latest word first: each new word from those 2, 7, 15 and 16 back. -/
def expand : Nat → List Word → List Word
  | 0, ws => ws
  | n + 1, ws =>
    let w (i : Nat) : Word := ws.getD (i - 1) 0
    let s0 := rotr (w 15) 7 ^^^ rotr (w 15) 18 ^^^ (w 15 >>> 3)
    let s1 := rotr (w 2) 17 ^^^ rotr (w 2) 19 ^^^ (w 2 >>> 10)
    expand n ((s1 + w 7 + s0 + w 16) :: ws)

/-- One round on the eight working variables. -/
def round (v : List Word) (kw : Nat × Word) : List Word :=
  match v with
  | [a, b, c, d, e, f, g, h] =>
    let s1 := rotr e 6 ^^^ rotr e 11 ^^^ rotr e 25
    let ch := (e &&& f) ^^^ (~~~e &&& g)
    let t1 := h + s1 + ch + BitVec.ofNat 32 kw.1 + kw.2
    let s0 := rotr a 2 ^^^ rotr a 13 ^^^ rotr a 22
    let maj := (a &&& b) ^^^ (a &&& c) ^^^ (b &&& c)
    [t1 + (s0 + maj), a, b, c, d + t1, e, f, g]
  | _ => v

/-- One block of 64 bytes. -/
def block (h : List Word) (bs : List Byte) : List Word :=
  let ws := (expand 48 ((List.range 16).map fun i => beWord ((bs.drop (4 * i)).take 4)).reverse).reverse
  List.zipWith (· + ·) h ((k.zip ws).foldl round h)

/-- Every block of a padded message, `n` blocks. -/
def blocks : Nat → List Word → List Byte → List Word
  | 0, h, _ => h
  | n + 1, h, bs => blocks n (block h (bs.take 64)) (bs.drop 64)

/-- The digest as 32 bytes. -/
def bytes (m : List Byte) : List Byte :=
  let p := pad m
  (blocks (p.length / 64) h0 p).flatMap fun w => (leBytes 4 w.toNat).reverse

/-- The digest, its first byte the least significant: the form of a 32-byte field. -/
def hash (m : List Byte) : BitVec 256 := BitVec.ofNat 256 (leNat (bytes m))

end Sys2Proof.Machine.Sha
end

