-- ==== Sys2Proof/Machine/Slh.lean ====
section
/-! DEFINITION. SLH-DSA-SHA2-128s, which R353, R356 and R367 name: the key pair, the signature and its check of FIPS 205 (log 11,
PRESUMED: the spec names it and does not restate it). Its parameters are n = 16, h = 63, d = 7, h' = 9, a = 12, k = 14 and w = 16. -/
namespace Sys2Proof.Machine.Slh

/-! ### Addresses and hash functions -/

/-- A number as big-endian bytes. -/
def be (n x : Nat) : List Byte := (leBytes n x).reverse

/-- A number from big-endian bytes. -/
def num (bs : List Byte) : Nat := leNat bs.reverse

/-- What an address is of. -/
inductive Kind where
  | wotsHash | wotsPk | tree | forsTree | forsRoots | wotsPrf | forsPrf
deriving DecidableEq, Repr

/-- The number of a kind. -/
def Kind.code : Kind → Nat
  | .wotsHash => 0 | .wotsPk => 1 | .tree => 2 | .forsTree => 3 | .forsRoots => 4 | .wotsPrf => 5 | .forsPrf => 6

/-- An address: its layer and tree, its kind, the key pair, the chain or tree height, and the hash or tree index. -/
structure Adrs where
  layer : Nat
  tree  : Nat
  kind  : Kind
  pair  : Nat
  level : Nat
  index : Nat
deriving DecidableEq, Repr

/-- The compressed address. -/
def Adrs.bytes (a : Adrs) : List Byte :=
  be 1 a.layer ++ be 8 a.tree ++ be 1 a.kind.code ++ be 4 a.pair ++ be 4 a.level ++ be 4 a.index

/-- F, H, T and PRF: the first 16 bytes of the digest of PK.seed in a block of its own, the address, and the input. -/
def thash (seed : List Byte) (a : Adrs) (m : List Byte) : List Byte :=
  (Sha.bytes (seed ++ List.replicate 48 0#8 ++ a.bytes ++ m)).take 16

/-- HMAC-SHA-256 under a key of at most one block. -/
def hmac (key m : List Byte) : List Byte :=
  let key := key ++ List.replicate (64 - key.length) 0#8
  Sha.bytes (key.map (· ^^^ 0x5C#8) ++ Sha.bytes (key.map (· ^^^ 0x36#8) ++ m))

/-- H_msg: the 30 bytes that select the tree, the key pair and the FORS leaves, one block of MGF1-SHA-256. -/
def msgDigest (r seed root m : List Byte) : List Byte :=
  (Sha.bytes (r ++ seed ++ Sha.bytes (r ++ seed ++ root ++ m) ++ be 4 0)).take 30

/-- `n` digits of `b` bits of some bytes, the most significant first. -/
def digits (bs : List Byte) (b n : Nat) : List Nat :=
  (List.range n).map fun i => num bs / 2 ^ (8 * bs.length - b * (i + 1)) % 2 ^ b

/-- The 16-byte values of some bytes. -/
def values (n : Nat) (bs : List Byte) : List (List Byte) := (List.range n).map fun i => (bs.drop (16 * i)).take 16

/-! ### WOTS+ -/

/-- `steps` applications of F from position `i` of a chain. -/
def chain (seed : List Byte) (a : Adrs) (i : Nat) : Nat → List Byte → List Byte
  | 0, x => x
  | steps + 1, x => chain seed a (i + 1) steps (thash seed { a with index := i } x)

/-- The address of a chain of a key pair. -/
def chainAt (layer tree pair i : Nat) : Adrs := ⟨layer, tree, .wotsHash, pair, i, 0⟩

/-- The secret value of a chain. -/
def secret (sk seed : List Byte) (a : Adrs) : List Byte := thash seed { a with kind := .wotsPrf, index := 0 } sk

/-- The digits of a 16-byte message, and of their checksum. -/
def wotsDigits (m : List Byte) : List Nat :=
  let ds := digits m 4 32
  ds ++ digits (be 2 (16 * ds.foldl (fun n x => n + (15 - x)) 0)) 4 3

/-- The public key of a key pair, compressed. -/
def wotsKey (seed : List Byte) (layer tree pair : Nat) (ends : List (List Byte)) : List Byte :=
  thash seed ⟨layer, tree, .wotsPk, pair, 0, 0⟩ ends.flatten

/-- A key pair's public key. -/
def wotsPkGen (sk seed : List Byte) (layer tree pair : Nat) : List Byte :=
  wotsKey seed layer tree pair ((List.range 35).map fun i =>
    let a := chainAt layer tree pair i
    chain seed a 0 15 (secret sk seed a))

/-- A key pair's signature. -/
def wotsSign (sk seed : List Byte) (layer tree pair : Nat) (m : List Byte) : List Byte :=
  (wotsDigits m).zipIdx.flatMap fun (x, i) =>
    let a := chainAt layer tree pair i
    chain seed a 0 x (secret sk seed a)

/-- The public key that a signature gives. -/
def wotsFromSig (seed : List Byte) (layer tree pair : Nat) (sig m : List Byte) : List Byte :=
  wotsKey seed layer tree pair ((wotsDigits m).zipIdx.map fun (x, i) =>
    chain seed (chainAt layer tree pair i) x (15 - x) ((sig.drop (16 * i)).take 16))

/-! ### Hash trees -/

/-- A node of a tree of leaves: `i` at height `z`, hashed under an address with its height and index. -/
def node (seed : List Byte) (a : Adrs) (leaf : Nat → List Byte) : Nat → Nat → List Byte
  | 0, i => leaf i
  | z + 1, i => thash seed { a with level := z + 1, index := i }
      (node seed a leaf z (2 * i) ++ node seed a leaf z (2 * i + 1))

/-- The siblings on the way from leaf `i` to a height. -/
def authPath (seed : List Byte) (a : Adrs) (leaf : Nat → List Byte) (height i : Nat) : List Byte :=
  (List.range height).flatMap fun j => node seed a leaf j ((i / 2 ^ j) ^^^ 1)

/-- The node that a leaf and the siblings on its way lead to, from height `j` on. -/
def climb (seed : List Byte) (a : Adrs) (j i : Nat) (x : List Byte) : List (List Byte) → List Byte
  | [] => x
  | y :: ys =>
    climb seed a (j + 1) (i / 2) (thash seed { a with level := j + 1, index := i / 2 } (if i % 2 = 0 then x ++ y else y ++ x)) ys

/-- The address of an XMSS tree's nodes. -/
def xmssAt (layer tree : Nat) : Adrs := ⟨layer, tree, .tree, 0, 0, 0⟩

/-- The root of an XMSS tree. -/
def xmssRoot (sk seed : List Byte) (layer tree : Nat) : List Byte :=
  node seed (xmssAt layer tree) (wotsPkGen sk seed layer tree) 9 0

/-- An XMSS signature. -/
def xmssSign (sk seed : List Byte) (layer tree leaf : Nat) (m : List Byte) : List Byte :=
  wotsSign sk seed layer tree leaf m ++ authPath seed (xmssAt layer tree) (wotsPkGen sk seed layer tree) 9 leaf

/-- The root that an XMSS signature gives. -/
def xmssFromSig (seed : List Byte) (layer tree leaf : Nat) (sig m : List Byte) : List Byte :=
  climb seed (xmssAt layer tree) 0 leaf (wotsFromSig seed layer tree leaf sig m) (values 9 (sig.drop 560))

/-- A hypertree signature: `n` layers from `layer` on, each over the root below it. -/
def htSign (sk seed : List Byte) : Nat → Nat → Nat → Nat → List Byte → List Byte
  | 0, _, _, _, _ => []
  | n + 1, layer, tree, leaf, m =>
    let sig := xmssSign sk seed layer tree leaf m
    sig ++ htSign sk seed n (layer + 1) (tree / 2 ^ 9) (tree % 2 ^ 9) (xmssFromSig seed layer tree leaf sig m)

/-- The root that a hypertree signature gives. -/
def htFromSig (seed : List Byte) : Nat → Nat → Nat → Nat → List Byte → List Byte → List Byte
  | 0, _, _, _, _, m => m
  | n + 1, layer, tree, leaf, sig, m =>
    htFromSig seed n (layer + 1) (tree / 2 ^ 9) (tree % 2 ^ 9) (sig.drop 704) (xmssFromSig seed layer tree leaf (sig.take 704) m)

/-! ### FORS -/

/-- The address of a key pair's FORS nodes. -/
def forsAt (tree pair : Nat) : Adrs := ⟨0, tree, .forsTree, pair, 0, 0⟩

/-- The secret value of a FORS leaf. -/
def forsSecret (sk seed : List Byte) (tree pair i : Nat) : List Byte := thash seed ⟨0, tree, .forsPrf, pair, 0, i⟩ sk

/-- A FORS leaf from its secret value. -/
def forsLeaf (seed : List Byte) (tree pair i : Nat) (x : List Byte) : List Byte :=
  thash seed { forsAt tree pair with index := i } x

/-- The siblings on a FORS leaf's way to the root of its own tree of 4,096 leaves. -/
def forsAuth (sk seed : List Byte) (tree pair i : Nat) : List Byte :=
  authPath seed (forsAt tree pair) (fun i => forsLeaf seed tree pair i (forsSecret sk seed tree pair i)) 12 i

/-- A FORS signature. -/
def forsSign (sk seed : List Byte) (tree pair : Nat) (md : List Byte) : List Byte :=
  (digits md 12 14).zipIdx.flatMap fun (x, t) =>
    forsSecret sk seed tree pair (4096 * t + x) ++ forsAuth sk seed tree pair (4096 * t + x)

/-- The FORS public key that a signature gives. -/
def forsFromSig (seed : List Byte) (tree pair : Nat) (sig md : List Byte) : List Byte :=
  let roots := (digits md 12 14).zipIdx.map fun (x, t) =>
    let part := (sig.drop (208 * t)).take 208
    climb seed (forsAt tree pair) 0 (4096 * t + x) (forsLeaf seed tree pair (4096 * t + x) (part.take 16)) (values 12 (part.drop 16))
  thash seed ⟨0, tree, .forsRoots, pair, 0, 0⟩ roots.flatten

/-! ### SLH-DSA -/

/-- PK.root: the root of the topmost tree. -/
def root (sk seed : List Byte) : List Byte := xmssRoot sk seed 6 0

/-- The message as the pure form of FIPS 205 signs it, with an empty context. -/
def framed (m : List Byte) : List Byte := [0#8, 0#8] ++ m

/-- What a message's digest selects: the FORS digest, the tree and the key pair. -/
def selected (d : List Byte) : List Byte × Nat × Nat :=
  (d.take 21, num ((d.drop 21).take 7) % 2 ^ 54, num ((d.drop 28).take 2) % 2 ^ 9)

/-- The signature of a message under SK.seed, SK.prf and PK.seed, with 16 bytes of added randomness. -/
def sign (sk prf seed rand m : List Byte) : List Byte :=
  let m := framed m
  let r := (hmac prf (rand ++ m)).take 16
  let (md, tree, pair) := selected (msgDigest r seed (root sk seed) m)
  let fors := forsSign sk seed tree pair md
  r ++ fors ++ htSign sk seed 7 0 tree pair (forsFromSig seed tree pair fors md)

/-- Whether a signature of a message holds under PK.seed and PK.root. -/
def verify (seed rt m sig : List Byte) : Bool :=
  let (md, tree, pair) := selected (msgDigest (sig.take 16) seed rt (framed m))
  sig.length == 7856
    && htFromSig seed 7 0 tree pair (sig.drop 2928) (forsFromSig seed tree pair ((sig.drop 16).take 2912) md) == rt

end Sys2Proof.Machine.Slh
end

