-- ==== Sys2Proof/Machine/BringUp.lean ====
section
/-! DEFINITION. The identity of the part (R353), its configuration record (R354), the measurement log (R355), the meter journal
in flash (R358), and the steps of bring-up (R364). -/
namespace Sys2Proof.Machine

/-! ### Package flash (R365) -/

/-- A region of package flash. -/
structure FlashRegion where
  offset : Nat
  size   : Nat
deriving DecidableEq, Repr

/-- PUF helper data. -/
def flashHelper : FlashRegion := ⟨0, 0x10000⟩
/-- The certificates, and the configuration record. -/
def flashCerts : FlashRegion := ⟨0x10000, 0x10000⟩
/-- A firmware image slot. -/
def flashSlot (n : Nat) : FlashRegion := ⟨0x100000 + 0x8000000 * n, 0x8000000⟩
/-- The meter journal. -/
def flashJournal : FlashRegion := ⟨0x10100000, 0x4000000⟩
/-- A Strandline dump. -/
def flashDump (n : Nat) : FlashRegion := ⟨0x14100000 + 0x800000 * n, 0x800000⟩

/-- Contents that fit their region. -/
def FlashRegion.holds (r : FlashRegion) (bs : List Byte) : Bool := decide (bs.length ≤ r.size)

/-- What package flash holds fits its layout. -/
def State.flashOk (s : State) : Bool :=
  flashHelper.holds s.helper && flashCerts.holds (s.certs ++ s.cfgRecord)
    && (List.range 2).all (fun n => (flashSlot n).holds (s.fwSlots[n]?.getD []))

/-! ### The identity (R353) -/

/-- SK.seed, SK.prf and PK.seed: the identity seed in thirds. -/
def State.keys (s : State) : BitVec 128 × BitVec 128 × BitVec 128 :=
  let x := s.seed.getD 0
  (x.extractLsb' 0 128, x.extractLsb' 128 128, x.extractLsb' 256 128)

/-- The public key: PK.seed and PK.root, as FIPS 205 derives it and lays it out (log 11, PRESUMED). -/
def State.publicKey (s : State) : List Byte :=
  let (sk, _, pk) := s.keys
  leBytes 16 pk.toNat ++ Slh.root (leBytes 16 sk.toNat) (leBytes 16 pk.toNat)

/-- The device identity: the SHA-256 of the public key. -/
def State.identity (s : State) : BitVec 256 := Sha.hash s.publicKey

/-- The device's signature over a message, with added randomness that the spec leaves open (R356, log 11). -/
def State.signature (s : State) (msg : List Byte) : List Byte :=
  let (sk, prf, pk) := s.keys
  Slh.sign (leBytes 16 sk.toNat) (leBytes 16 prf.toNat) (leBytes 16 pk.toNat) (leBytes 16 (Config.addrnd msg).toNat) msg

/-- The identity has been reconstructed, so the security processor can sign (R353, R364). -/
def State.signs (s : State) : Bool := decide (2 < s.boot)

/-! ### Measurement (R355) -/

/-- An entry of the measurement log (R355), `code` none for a firmware image or a configuration record. -/
def logEntry (kind part time : Nat) (code : Option (DWord × Nat)) (hash : BitVec 256) : List Byte :=
  leBytes 4 kind ++ leBytes 4 part ++ leBytes 8 time
    ++ (match code with | some (a, n) => leBytes 8 a.toNat ++ leBytes 8 n | none => List.replicate 16 0)
    ++ leBytes 32 hash.toNat

/-- An entry appended, and the digest with it. -/
def State.measure (s : State) (kind part : Nat) (code : Option (DWord × Nat)) (hash : BitVec 256) : State :=
  let e := logEntry kind part s.now code hash
  { s with mlog := s.mlog ++ [e], mdigest := Sha.hash (leBytes 32 s.mdigest.toNat ++ e) }

/-- The firmware image in a slot. -/
def State.image (s : State) (slot : Nat) : List Byte := s.fwSlots[slot]?.getD []

/-! ### The meter journal (R358) -/

/-- A journal entry's digest. The spec does not give the bytes of an entry: DESIGN CHOICE, the meter in 2 and the bound in 8,
after the digest of the entry before, 0 for the first (log 28). -/
def journalDigest (prev : BitVec 256) (m bound : Nat) : BitVec 256 :=
  Sha.hash (leBytes 32 prev.toNat ++ leBytes 2 m ++ leBytes 8 bound)

/-- The digest of the newest entry. -/
def lastDigest (j : List JEntry) : BitVec 256 := (j.head?.map (·.digest)).getD 0

/-- Every entry's digest chains it to the one before. -/
def chainOk : List JEntry → Bool
  | [] => true
  | e :: t => e.digest == journalDigest (lastDigest t) e.meter e.bound && chainOk t

/-- A meter's journalled bound. -/
def State.bound (s : State) (m : Nat) : Nat := ((s.journal.find? fun e => e.meter == m).map (·.bound)).getD (2 ^ 30)

/-- A new bound in the journal, newest entry first. -/
def State.writeJournal (s : State) (m bound : Nat) : State :=
  { s with journal := ⟨m, bound, journalDigest (lastDigest s.journal) m bound⟩ :: s.journal }

/-! ### Bring-up (R364) -/

/-- The configuration record is accepted (R354): its signature holds and it names this device, whose identity has been
reconstructed. -/
def State.recordOk (s : State) : Bool :=
  s.seed.isSome && Config.recordGood s.cfgRecord && Config.recordIdentity s.cfgRecord == s.identity

/-- Step 2: the active complex boots its image, which is measured; the identity is reconstructed; the configuration record is
checked, measured, and fixes the variant. The spec does not say at which step the journal is checked, nor what a broken
chain does: DESIGN CHOICE, at this one, and bring-up stops (log 28). -/
def State.bootConfig (s : State) : State × Bool :=
  let s : State := { (s.measure 1 0xFF none (Sha.hash (s.image s.bootSlot))) with seed := Config.puf s.helper }
  if s.recordOk && chainOk s.journal then
    ({ (s.measure 2 0xFF none (Sha.hash s.cfgRecord)) with
        variant := if Config.recordIsM s.cfgRecord then .m else .x }, true)
  else (s, false)

/-- The work of the step that GSTAT.BOOT names, and whether it succeeds: step 3 zeroes the DRAM. Rails and links have no
state of their own here. -/
def State.bootWork (s : State) : State × Bool :=
  if s.boot = 2 then s.bootConfig
  else if s.boot = 3 then ({ s with dram := Memory.empty, poison := [], symErr := [] }, true)
  else (s, true)

/-- A step of bring-up ends: the next one begins, the fifth being the last, or a failure holds GSTAT.BOOT there. The spec
gives the steps no time: DESIGN CHOICE, one ends at each turn of the agenda (log 41). -/
def State.bootStep (s : State) : State :=
  match s.booting with
  | none => s
  | some stop =>
    let (t, ok) := s.bootWork
    if stop = some s.boot || !ok then { t with booting := none, bootErr := true }
    else if s.boot + 1 < 5 then { t with boot := s.boot + 1 }
    else { t with boot := 5, booting := none, bootErr := stop == some 5 }

end Sys2Proof.Machine
end

