-- ==== Sys2Proof/Machine/Fp.lean ====
section
/-! DEFINITION. IEEE 754-2019 binary arithmetic on exact numbers (R109 to R111): unpacking, one rounding, NaN results,
and the operations of each element; the F8 formats of R120 and R222. -/
namespace Sys2Proof.Machine

/-- A binary format: exponent bits and fraction bits (R109). -/
structure Fmt where
  eb : Nat
  mb : Nat
deriving DecidableEq, Repr

namespace Fmt

/-- .f64 -/
def f64 : Fmt := ⟨11, 52⟩
/-- .f32 -/
def f32 : Fmt := ⟨8, 23⟩
/-- .f16 -/
def f16 : Fmt := ⟨5, 10⟩
/-- .bf16: an 8-bit significand and the FP32 exponent range (R109). -/
def bf16 : Fmt := ⟨8, 7⟩

/-- The exponent bias. -/
def bias (f : Fmt) : Nat := 2 ^ (f.eb - 1) - 1
/-- The smallest normal exponent. -/
def emin (f : Fmt) : Int := 1 - (f.bias : Int)
/-- The greatest exponent. -/
def emax (f : Fmt) : Int := f.bias
/-- The sign bit in place. -/
def sign (f : Fmt) (neg : Bool) : Nat := if neg then 2 ^ (f.eb + f.mb) else 0
/-- Infinity. -/
def infBits (f : Fmt) (neg : Bool) : Nat := f.sign neg + (2 ^ f.eb - 1) * 2 ^ f.mb
/-- The largest finite magnitude. -/
def maxBits (f : Fmt) (neg : Bool) : Nat := f.sign neg + ((2 ^ f.eb - 1) * 2 ^ f.mb - 1)
/-- Zero. -/
def zeroBits (f : Fmt) (neg : Bool) : Nat := f.sign neg
/-- The canonical quiet NaN (R110). -/
def canonNan (f : Fmt) : Nat := (2 ^ f.eb - 1) * 2 ^ f.mb + 2 ^ (f.mb - 1)
/-- A subnormal encoding. -/
def isSub (f : Fmt) (x : Nat) : Bool := x / 2 ^ f.mb % 2 ^ f.eb == 0 && x % 2 ^ f.mb != 0
/-- FTZ applies to operands and results of every format but .f64 (R108). -/
def flushes (f : Fmt) : Bool := decide (f ≠ f64)

end Fmt

/-- The format of a floating type. -/
def fmtOf : Ty → Fmt
  | .f64 => .f64
  | .f16 => .f16
  | .bf16 => .bf16
  | _ => .f32

/-- A value: a NaN with its sign, whether it signals, and its fraction; an infinity; or the finite number
(-1)^neg * m * 2^e. -/
inductive FVal where
  | nan (neg sig : Bool) (frac : Nat)
  | inf (neg : Bool)
  | fin (neg : Bool) (m : Nat) (e : Int)
deriving DecidableEq, Repr

/-- The sign of a value. -/
def FVal.neg : FVal → Bool
  | .nan n _ _ | .inf n | .fin n _ _ => n

/-- A value is a NaN. -/
def FVal.isNan : FVal → Bool
  | .nan .. => true
  | _ => false

/-- A value is a signalling NaN. -/
def FVal.isSig : FVal → Bool
  | .nan _ s _ => s
  | _ => false

/-- A value is zero. -/
def FVal.isZero : FVal → Bool
  | .fin _ 0 _ => true
  | _ => false

/-- The value of an encoding. -/
def Fmt.unpack (f : Fmt) (x : Nat) : FVal :=
  let frac := x % 2 ^ f.mb
  let ex := x / 2 ^ f.mb % 2 ^ f.eb
  let neg := x / 2 ^ (f.eb + f.mb) % 2 == 1
  if ex = 2 ^ f.eb - 1 then
    if frac = 0 then .inf neg else .nan neg (decide (frac < 2 ^ (f.mb - 1))) frac
  else if ex = 0 then .fin neg frac (f.emin - f.mb)
  else .fin neg (2 ^ f.mb + frac) ((ex : Int) - f.bias - f.mb)

/-! ### Rounding (R109) -/

/-- The number of bits of a natural number. -/
def bitLen (m : Nat) : Nat := if m = 0 then 0 else m.log2 + 1

/-- m * 2^-sh rounded to an integer by a mode, and whether it was inexact. -/
def roundShift (rm : Rm) (neg : Bool) (m : Nat) (sh : Int) : Nat × Bool :=
  if sh ≤ 0 then (m <<< sh.natAbs, false) else
  let k := sh.natAbs
  let q := m >>> k
  let r := m % 2 ^ k
  let half := 2 ^ (k - 1)
  let up := match rm with
    | .rn => decide (half < r) || (r == half && q % 2 == 1)
    | .rz => false
    | .ru => !neg && r != 0
    | .rd => neg && r != 0
  (if up then q + 1 else q, r != 0)

/-- A rounded element: its bits and exceptions. -/
structure FRes where
  bits : Nat
  exc  : Exc
deriving DecidableEq, Repr

/-- The overflow result of a mode (R109). -/
def Fmt.overflow (f : Fmt) (rm : Rm) (neg : Bool) : Nat :=
  match rm, neg with
  | .rn, _ | .ru, false | .rd, true => f.infBits neg
  | _, _ => f.maxBits neg

/-- The exact value (-1)^neg * m * 2^e rounded once; `ftz` flushes a tiny result (R108, R109). Below its leading
bits of precision `m` may end in a sticky bit. -/
def Fmt.round (f : Fmt) (rm : Rm) (ftz : Bool) (neg : Bool) (m : Nat) (e : Int) : FRes :=
  if m = 0 then ⟨f.zeroBits neg, 0⟩ else
  let sh : Int := (bitLen m : Int) - (f.mb + 1)
  let (q, inex) := roundShift rm neg m sh
  let top : Int := e + sh + f.mb + (if bitLen q = f.mb + 2 then 1 else 0)
  if top < f.emin then
    if ftz then ⟨f.zeroBits neg, Exc.ufNx⟩ else
    let (q, inex) := roundShift rm neg m (f.emin - f.mb - e)
    ⟨f.sign neg + q, if inex then Exc.ufNx else 0⟩
  else if f.emax < top then ⟨f.overflow rm neg, Exc.ofNx⟩
  else
    let q := if bitLen q = f.mb + 2 then q / 2 else q
    ⟨f.sign neg + ((top - f.emin).toNat * 2 ^ f.mb + q), if inex then Exc.nx else 0⟩

/-! ### NaN results (R110) -/

/-- An encoding quieted. -/
def Fmt.quiet (f : Fmt) (x : Nat) : Nat := if x / 2 ^ (f.mb - 1) % 2 = 1 then x else x + 2 ^ (f.mb - 1)

/-- The NaN result of some operands, if one of them is a NaN: the first, quieted, with NV for a signalling one. -/
def Fmt.nanOf (f : Fmt) (xs : List Nat) : Option FRes :=
  let sig := xs.any fun x => (f.unpack x).isSig
  (xs.find? fun x => (f.unpack x).isNan).map fun x => ⟨f.quiet x, if sig then Exc.nv else 0⟩

/-- The result of an invalid operation. -/
def Fmt.invalid (f : Fmt) : FRes := ⟨f.canonNan, Exc.nv⟩

/-! ### Operations -/

/-- A signed sum of two exact values. -/
def exactSum (n1 : Bool) (m1 : Nat) (e1 : Int) (n2 : Bool) (m2 : Nat) (e2 : Int) : Int × Int :=
  let e := min e1 e2
  let a : Int := (m1 <<< (e1 - e).toNat : Nat)
  let b : Int := (m2 <<< (e2 - e).toNat : Nat)
  ((if n1 then -a else a) + (if n2 then -b else b), e)

/-- The sum of two values rounded, with the sign of an exact zero (R109). -/
def Fmt.addFin (f : Fmt) (rm : Rm) (ftz : Bool) (n1 : Bool) (m1 : Nat) (e1 : Int) (n2 : Bool) (m2 : Nat) (e2 : Int) : FRes :=
  let (v, e) := exactSum n1 m1 e1 n2 m2 e2
  if v = 0 then ⟨f.zeroBits (if n1 == n2 then n1 else rm == .rd), 0⟩
  else f.round rm ftz (decide (v < 0)) v.natAbs e

/-- FADD, and FSUB with y's sign inverted. -/
def Fmt.add (f : Fmt) (rm : Rm) (ftz sub : Bool) (x y : Nat) : FRes :=
  match f.nanOf [x, y] with
  | some r => r
  | none =>
    match f.unpack x, f.unpack y with
    | .inf n1, .inf n2 => if n1 == (n2 != sub) then ⟨f.infBits n1, 0⟩ else f.invalid
    | .inf n1, _ => ⟨f.infBits n1, 0⟩
    | _, .inf n2 => ⟨f.infBits (n2 != sub), 0⟩
    | .fin n1 m1 e1, .fin n2 m2 e2 => f.addFin rm ftz n1 m1 e1 (n2 != sub) m2 e2
    | _, _ => f.invalid

/-- FMUL. -/
def Fmt.mul (f : Fmt) (rm : Rm) (ftz : Bool) (x y : Nat) : FRes :=
  match f.nanOf [x, y] with
  | some r => r
  | none =>
    let a := f.unpack x
    let b := f.unpack y
    let n := a.neg != b.neg
    match a, b with
    | .fin _ m1 e1, .fin _ m2 e2 => f.round rm ftz n (m1 * m2) (e1 + e2)
    | _, _ => if a.isZero || b.isZero then f.invalid else ⟨f.infBits n, 0⟩

/-- FFMA (R110, R111). -/
def Fmt.fma (f : Fmt) (rm : Rm) (ftz : Bool) (x y z : Nat) : FRes :=
  let a := f.unpack x
  let b := f.unpack y
  let c := f.unpack z
  let bad := match a, b with
    | .inf _, .fin _ 0 _ | .fin _ 0 _, .inf _ => true
    | _, _ => false
  match f.nanOf [x, y, z] with
  | some r => if bad then { r with exc := r.exc ||| Exc.nv } else r
  | none =>
    let n := a.neg != b.neg
    if bad then f.invalid else
    match a, b, c with
    | .fin _ m1 e1, .fin _ m2 e2, .fin n3 m3 e3 => f.addFin rm ftz n (m1 * m2) (e1 + e2) n3 m3 e3
    | .fin _ _ _, .fin _ _ _, _ => ⟨f.infBits c.neg, 0⟩
    | _, _, .inf n3 => if n == n3 then ⟨f.infBits n, 0⟩ else f.invalid
    | _, _, _ => ⟨f.infBits n, 0⟩

/-- FDIV: the quotient to two bits beyond the precision, with a sticky bit. -/
def Fmt.div (f : Fmt) (rm : Rm) (ftz : Bool) (x y : Nat) : FRes :=
  match f.nanOf [x, y] with
  | some r => r
  | none =>
    let a := f.unpack x
    let b := f.unpack y
    let n := a.neg != b.neg
    match a, b with
    | .inf _, .inf _ => f.invalid
    | .inf _, _ => ⟨f.infBits n, 0⟩
    | _, .inf _ => ⟨f.zeroBits n, 0⟩
    | .fin _ m1 e1, .fin _ m2 e2 =>
      if m2 = 0 then (if m1 = 0 then f.invalid else ⟨f.infBits n, Exc.dz⟩)
      else
        let k := f.mb + 4 + bitLen m2
        let q := (m1 <<< k) / m2
        let st := if (m1 <<< k) % m2 = 0 then 0 else 1
        f.round rm ftz n (2 * q + st) (e1 - e2 - k - 1)
    | _, _ => f.invalid

/-- The integer square root, bit by bit from bit `b - 1` down. -/
def isqrtFrom : Nat → Nat → Nat → Nat
  | 0, _, acc => acc
  | b + 1, n, acc =>
    let t := acc + 2 ^ b
    isqrtFrom b n (if t * t ≤ n then t else acc)

/-- The integer square root. -/
def isqrt (n : Nat) : Nat := isqrtFrom (bitLen n / 2 + 1) n 0

/-- FSQRT: the root to two bits beyond the precision, with a sticky bit. -/
def Fmt.sqrt (f : Fmt) (rm : Rm) (ftz : Bool) (x : Nat) : FRes :=
  match f.nanOf [x] with
  | some r => r
  | none =>
    match f.unpack x with
    | .fin n 0 _ => ⟨f.zeroBits n, 0⟩
    | .inf false => ⟨f.infBits false, 0⟩
    | .fin false m e =>
      let k := 2 * (f.mb + 4) + (e % 2).natAbs
      let s := isqrt (m <<< k)
      let st := if s * s = m <<< k then 0 else 1
      f.round rm ftz false (2 * s + st) ((e - k) / 2 - 1)
    | _ => f.invalid

/-- FRND (R116). -/
def Fmt.rint (f : Fmt) (rm : Rm) (x : Nat) : FRes :=
  match f.nanOf [x] with
  | some r => r
  | none =>
    match f.unpack x with
    | .fin n m e =>
      if 0 ≤ e then ⟨x, 0⟩
      else
        let (q, _) := roundShift rm n m (-e)
        ⟨(f.round rm false n q 0).bits, 0⟩
    | _ => ⟨x, 0⟩

/-- The order of two encodings that are no NaN, -0 below +0 (R114). -/
def Fmt.key (f : Fmt) (x : Nat) : Int :=
  let mag : Int := (x % 2 ^ (f.eb + f.mb) : Nat)
  if (f.unpack x).neg then -mag - 1 else mag

/-- FMIN, or FMAX with `hi` (R114). -/
def Fmt.minmax (f : Fmt) (hi : Bool) (x y : Nat) : FRes :=
  let a := f.unpack x
  let b := f.unpack y
  let exc : Exc := if a.isSig || b.isSig then Exc.nv else 0
  if a.isNan && b.isNan then ⟨f.canonNan, exc⟩
  else if a.isNan then ⟨y, exc⟩
  else if b.isNan then ⟨x, exc⟩
  else if decide (f.key x ≤ f.key y) != hi then ⟨x, exc⟩ else ⟨y, exc⟩

/-- FCMP on one element: the condition and its exceptions (R115). -/
def Fmt.cmp (f : Fmt) (k : FCond) (x y : Nat) : Bool × Exc :=
  let a := f.unpack x
  let b := f.unpack y
  let un := a.isNan || b.isNan
  let ordered := match k with | .lt | .le | .gt | .ge => true | _ => false
  let exc : Exc := if a.isSig || b.isSig || (ordered && un) then Exc.nv else 0
  let zz := a.isZero && b.isZero
  let kx := f.key x
  let ky := f.key y
  let r := match k with
    | .un => un
    | .ord => !un
    | .eq => !un && (zz || kx == ky)
    | .ne => un || !(zz || kx == ky)
    | .lt => !un && !zz && decide (kx < ky)
    | .le => !un && (zz || decide (kx ≤ ky))
    | .gt => !un && !zz && decide (ky < kx)
    | .ge => !un && (zz || decide (ky ≤ kx))
  (r, exc)

/-- FCLASS: the one-hot class (R116). -/
def Fmt.classOf (f : Fmt) (x : Nat) : Nat :=
  match f.unpack x with
  | .inf true => 1
  | .inf false => 0x80
  | .nan _ true _ => 0x100
  | .nan _ false _ => 0x200
  | .fin true 0 _ => 8
  | .fin false 0 _ => 0x10
  | .fin n _ _ => if f.isSub x then (if n then 4 else 0x20) else (if n then 2 else 0x40)

/-- A subnormal read as zero of its sign (R108). -/
def Fmt.flushIn (f : Fmt) (ftz : Bool) (x : Nat) : Nat :=
  if ftz && f.flushes && f.isSub x then f.zeroBits (f.unpack x).neg else x

/-- Operand modifiers (R14): absolute value, then negation. -/
def Fmt.modify (f : Fmt) (neg abs : Bool) (x : Nat) : Nat :=
  let s := 2 ^ (f.eb + f.mb)
  let m := if abs then x % s else x % (2 * s)
  if neg then (if s ≤ m then m - s else m + s) else m

/-! ### Conversions (R119) -/

/-- A number rounded to an integer type: its value and exceptions. -/
def toIntTy (t2 : Ty) (rm : Rm) (v : FVal) : Int × Exc :=
  match v with
  | .nan .. => (0, Exc.nv)
  | .inf n => (if n then t2.lo else t2.hi, Exc.nv)
  | .fin n m e =>
    let (q, inex) := roundShift rm n m (-e)
    let x : Int := if n then -(q : Int) else q
    if x < t2.lo then (t2.lo, Exc.nv) else if t2.hi < x then (t2.hi, Exc.nv)
    else (x, if inex then Exc.nx else 0)

/-- An integer rounded to a format. -/
def Fmt.ofIntVal (f : Fmt) (rm : Rm) (ftz : Bool) (v : Int) : FRes := f.round rm (ftz && f.flushes) (decide (v < 0)) v.natAbs 0

/-- A floating value converted to a format (R119). -/
def Fmt.convert (f g : Fmt) (rm : Rm) (sat ftz : Bool) (x : Nat) : FRes :=
  match f.unpack x with
  | .nan n s frac =>
    let frac := if g.mb ≤ f.mb then frac / 2 ^ (f.mb - g.mb) else frac * 2 ^ (g.mb - f.mb)
    ⟨g.quiet (g.infBits n + frac % 2 ^ g.mb), if s then Exc.nv else 0⟩
  | .inf n => ⟨if sat then g.maxBits n else g.infBits n, 0⟩
  | .fin n m e =>
    let r := g.round rm (ftz && g.flushes) n m e
    if sat && r.bits == g.infBits n then { r with bits := g.maxBits n } else r

/-! ### F8 (R120, R121, R222) -/

/-- The format of an F8 kind, apart from E4's top exponent. -/
def f8Fmt : F8 → Fmt
  | .e4 => ⟨4, 3⟩
  | .e5 => ⟨5, 2⟩

/-- The largest finite F8 magnitude as an encoding: 448 and 57,344. -/
def f8Max : F8 → Nat
  | .e4 => 0x7E
  | .e5 => 0x7B

/-- The NaN an F8 conversion writes (R120). -/
def f8Nan : F8 → Nat
  | .e4 => 0x7F
  | .e5 => 0x7E

/-- The sign bit of an F8 byte. -/
def f8Sign (neg : Bool) : Nat := if neg then 0x80 else 0

/-- A finite value rounded to F8, by R109 with the overflow rules of R120. -/
def f8Round (k : F8) (rm : Rm) (sat : Bool) (neg : Bool) (m : Nat) (e : Int) : FRes :=
  if m = 0 then ⟨f8Sign neg, 0⟩ else
  let f := f8Fmt k
  let sh : Int := (bitLen m : Int) - (f.mb + 1)
  let (q, inex) := roundShift rm neg m sh
  let (q, sh) : Nat × Int := if bitLen q = f.mb + 2 then (q / 2, sh + 1) else (q, sh)
  let top : Int := e + sh + f.mb
  if top < f.emin then
    let (q, inex) := roundShift rm neg m (f.emin - f.mb - e)
    ⟨f8Sign neg + q, if inex then Exc.ufNx else 0⟩
  else
    let code := (top - f.emin).toNat * 2 ^ f.mb + q
    if code ≤ f8Max k then ⟨f8Sign neg + code, if inex then Exc.nx else 0⟩
    else if sat then ⟨f8Sign neg + f8Max k, Exc.ofNx⟩
    else match k with
      | .e4 => ⟨f8Sign neg + f8Nan k, Exc.ofNx⟩
      | .e5 => ⟨f8Sign neg + Fmt.overflow f rm neg % 0x80, Exc.ofNx⟩

/-- One value packed to F8 (R120); the input's subnormals are flushed already. -/
def f8Pack (k : F8) (f : Fmt) (rm : Rm) (sat : Bool) (x : Nat) : FRes :=
  match f.unpack x with
  | .nan n s _ => ⟨f8Sign n + f8Nan k, if s then Exc.nv else 0⟩
  | .inf n =>
    if sat then ⟨f8Sign n + f8Max k, 0⟩
    else match k with
      | .e4 => ⟨f8Sign n + f8Nan k, Exc.nv⟩
      | .e5 => ⟨f8Sign n + 0x7C, 0⟩
  | .fin n m e => f8Round k rm sat n m e

/-- The value of an F8 byte (R222). -/
def f8Unpack (k : F8) (x : Nat) : FVal :=
  match k with
  | .e5 => (f8Fmt .e5).unpack x
  | .e4 =>
    let f := f8Fmt .e4
    let neg := x / 0x80 % 2 == 1
    if x % 0x80 = 0x7F then .nan neg false 7
    else
      let ex := x / 8 % 16
      let frac := x % 8
      if ex = 0 then .fin neg frac (f.emin - 3) else .fin neg (8 + frac) ((ex : Int) - 7 - 3)

/-- An F8 byte unpacked to a wide format, exactly (R121). -/
def f8Widen (k : F8) (g : Fmt) (x : Nat) : Nat :=
  match f8Unpack k x with
  | .nan n _ _ => g.sign n + g.canonNan
  | .inf n => g.infBits n
  | .fin n m e => (g.round .rn false n m e).bits

end Sys2Proof.Machine
end

