-- ==== Sys2Proof/Machine/Sfu.lean ====
section
/-! DEFINITION. The special-function unit (R117): exact and special results as the table lists them, and between them a result
within the table's bounds that the implementation picks (`Config.special`, log 8). The functions are approximated here in
fixed point to 2^-90, against which the bounds are checked. -/
namespace Sys2Proof.Machine

/-- The six functions, numbered as the b field of opcode 0x28 numbers them from 3. -/
inductive Sfu where
  | rcp | rsq | exp2 | log2 | sin | cos
deriving DecidableEq, Repr

/-- The number of a function in `Config.special`. -/
def Sfu.index : Sfu → Nat
  | .rcp => 0 | .rsq => 1 | .exp2 => 2 | .log2 => 3 | .sin => 4 | .cos => 5

/-- A number (-1)^neg * m * 2^e. -/
structure Dy where
  neg : Bool
  m   : Nat
  e   : Int
deriving DecidableEq, Repr

namespace Dy

/-- The exponent of the leading bit. -/
def top (a : Dy) : Int := (bitLen a.m : Int) - 1 + a.e
/-- A number next to a dyadic one: above it in magnitude, or below. -/
def beside (a : Dy) (up : Bool) : Dy := ⟨a.neg, if up then a.m * 2 ^ 64 + 1 else a.m * 2 ^ 64 - 1, a.e - 64⟩
/-- Two numbers differ by at most k * 2^b. -/
def near (a b : Dy) (k : Nat) (bd : Int) : Bool :=
  let (v, e) := exactSum a.neg a.m a.e (!b.neg) b.m b.e
  let lo := min e bd
  decide (v.natAbs <<< (e - lo).toNat ≤ k <<< (bd - lo).toNat)

end Dy

/-- ln 2 in units of 2^-96. -/
def fixLn2 : Nat := 54916777467707473351141471128
/-- π/2 in units of 2^-96. -/
def fixPio2 : Nat := 124451306656115542615260972311
/-- One in units of 2^-96. -/
def fixOne : Nat := 2 ^ 96

/-- A finite value in units of 2^-96, rounded down in magnitude. -/
def toFix (n : Bool) (m : Nat) (e : Int) : Int :=
  let a : Int := if 0 ≤ e + 96 then ((m <<< (e + 96).toNat : Nat) : Int) else ((m >>> (-(e + 96)).toNat : Nat) : Int)
  if n then -a else a

/-- The exponential series to `n` terms: the sum of y^k / k! from the term `t` = y^k / k! on. -/
def expSeries : Nat → Nat → Nat → Nat → Nat
  | 0, _, _, _ => 0
  | n + 1, k, t, y => t + expSeries n (k + 1) (((t * y) >>> 96) / (k + 1)) y

/-- The series of atanh z: the sum of z^(2k+1) / (2k+1), from the power `p` on. -/
def atanhSeries : Nat → Nat → Nat → Nat → Nat
  | 0, _, _, _ => 0
  | n + 1, k, p, z2 => p / (2 * k + 1) + atanhSeries n (k + 1) ((p * z2) >>> 96) z2

/-- An alternating series 1 - r/(a(a+1)) + r^2/(a(a+1)(a+2)(a+3)) - ... with r in fixed point. -/
def altSeries : Nat → Nat → Int → Nat → Int
  | 0, _, _, _ => 0
  | n + 1, a, t, r => t + altSeries n (a + 2) (-(t * r) / (fixOne * (a * (a + 1)) : Nat)) r

/-- sin r / r and cos r for r^2 in fixed point. -/
def sinRatio (r2 : Nat) : Int := altSeries 16 2 fixOne r2
/-- cos r. -/
def cosFix (r2 : Nat) : Int := altSeries 16 1 fixOne r2

/-- A signed fixed-point number as a dyadic one. -/
def ofFix (x : Int) : Dy := ⟨decide (x < 0), x.natAbs, -96⟩

/-- sin (`co` false) or cos of a finite value with magnitude at most 2^20. -/
def trig (co : Bool) (n : Bool) (m : Nat) (e : Int) : Dy :=
  let x := toFix n m e
  let k := (2 * x + fixPio2) / (2 * fixPio2)
  let r := x - k * fixPio2
  let r2 := (r.natAbs * r.natAbs) >>> 96
  let near (a : Dy) : Dy := if r2 = 0 then a.beside false else a
  let sinR := if k = 0 then near ⟨n, m * (sinRatio r2).natAbs, e - 96⟩ else ofFix (r * sinRatio r2 / fixOne)
  let cosR := near (ofFix (cosFix r2))
  let flip (a : Dy) : Dy := { a with neg := !a.neg }
  match ((k + if co then 1 else 0) % 4).toNat with
  | 0 => sinR
  | 1 => cosR
  | 2 => flip sinR
  | _ => flip cosR

/-- The function of a finite non-zero value inside its domain, to about 90 bits. Where the approximation comes out exact and the
function's value is not, it lies on that value's side. -/
def Sfu.approx (u : Sfu) (n : Bool) (m : Nat) (e : Int) : Dy :=
  match u with
  | .rcp => let k := 100 + bitLen m; ⟨n, 2 ^ k / m, -k - e⟩
  | .rsq =>
    let odd := e % 2 != 0
    let m' := if odd then 2 * m else m
    let e' := if odd then e - 1 else e
    ⟨false, isqrt (2 ^ 240 / m'), -120 - e' / 2⟩
  | .exp2 =>
    let x := toFix n m e
    let f := (x % (fixOne : Int)).toNat
    let t := expSeries 40 0 fixOne ((f * fixLn2) >>> 96)
    let a : Dy := ⟨false, t, x / (fixOne : Int) - 96⟩
    if t = fixOne ∧ (f ≠ 0 ∨ e < -96) then a.beside (!n) else a
  | .log2 =>
    let l := bitLen m - 1
    let mant := (m <<< 96) >>> l
    let z := ((mant - fixOne) <<< 96) / (mant + fixOne)
    let lg := ((2 * atanhSeries 40 0 z ((z * z) >>> 96)) <<< 96) / fixLn2
    ofFix ((e + l) * fixOne + lg)
  | .sin => trig false n m e
  | .cos => trig true n m e

/-- The exact and special results of R117, none where the bounds apply. -/
def Sfu.special (u : Sfu) (x : Nat) : Option FRes :=
  let f := Fmt.f32
  let pow (m : Nat) : Bool := m == 2 ^ (bitLen m - 1)
  match f.unpack x with
  | .nan .. => f.nanOf [x]
  | .inf n => match u with
    | .rcp => some ⟨f.zeroBits n, 0⟩
    | .rsq => some (if n then f.invalid else ⟨f.zeroBits false, 0⟩)
    | .exp2 => some (if n then ⟨f.zeroBits false, 0⟩ else ⟨f.infBits false, 0⟩)
    | .log2 => some (if n then f.invalid else ⟨f.infBits false, 0⟩)
    | .sin | .cos => some f.invalid
  | .fin n 0 _ => match u with
    | .rcp | .rsq => some ⟨f.infBits n, Exc.dz⟩
    | .exp2 | .cos => some ⟨0x3F800000, 0⟩
    | .log2 => some ⟨f.infBits true, Exc.dz⟩
    | .sin => some ⟨x, 0⟩
  | .fin n m e =>
    let top : Int := (bitLen m : Int) - 1 + e
    match u with
    | .rcp =>
      let r := f.round .rn false n 1 (-top)
      if pow m && r.exc == 0 then some r else none
    | .rsq => if n then some f.invalid else if pow m && top % 2 == 0 then some (f.round .rn false false 1 (-(top / 2))) else none
    | .exp2 =>
      if !n && decide (7 ≤ top) then some ⟨f.infBits false, Exc.ofNx⟩
      else
        let v := toFix n m e
        if decide (v < -150 * (fixOne : Int)) then some ⟨f.zeroBits false, Exc.ufNx⟩
        else if v % (fixOne : Int) = 0 ∧ decide (-96 ≤ e) then
          let i := v / (fixOne : Int)
          if decide (-149 ≤ i ∧ i ≤ 127) then some (f.round .rn false false 1 i) else none
        else none
    | .log2 => if n then some f.invalid else if pow m then some (f.ofIntVal .rn false top) else none
    | .sin | .cos => if decide (20 < top) || (top == 20 && !pow m) then some f.invalid else none

/-- The bound of R117 on a result: `k` units of 2^`b`. R117 says for FEXP2 alone in which binade the ulp is taken: DESIGN CHOICE, for
each function the binade of the exact value, and the lowest normal one below it (log 8). -/
def Sfu.bound (u : Sfu) (x : Nat) (a : Dy) : Nat × Int :=
  let ulp := max a.top Fmt.f32.emin - 23
  match u with
  | .rcp | .rsq => (1, ulp)
  | .exp2 => (2, ulp)
  | .log2 => if 0x3F000000 < x ∧ x < 0x40000000 then (1, -22) else (2, ulp)
  | .sin | .cos =>
    match Fmt.f32.unpack x with
    | .fin _ m e => if (toFix false m e).natAbs * 2 ≤ fixPio2 then (2, ulp) else (1, -22)
    | _ => (1, -22)

/-- Whether the bounds permit a result. -/
def Sfu.permits (u : Sfu) (x : Nat) (a : Dy) (v : Nat) : Bool :=
  match Fmt.f32.unpack v with
  | .fin n m e => let (k, b) := u.bound x a; Dy.near ⟨n, m, e⟩ a k b
  | _ => false

/-- A tiny result as FTZ leaves it (R108). -/
def flushTiny (ftz : Bool) (r : FRes) : FRes :=
  if ftz && Fmt.f32.isSub r.bits then ⟨Fmt.f32.zeroBits (Fmt.f32.unpack r.bits).neg, r.exc ||| Exc.ufNx⟩ else r

/-- A result outside the exact cases, `pick` the implementation's where the bounds permit it (R117). -/
def Sfu.inexact (u : Sfu) (pick : Nat) (ftz : Bool) (x : Nat) (a : Dy) : FRes :=
  let f := Fmt.f32
  let r := f.round .rn false a.neg a.m a.e
  if r.bits = f.infBits a.neg then r else
  let v := if u.permits x a pick then pick else r.bits
  let tiny := f.isSub v || (v % 0x80000000 == 0 && decide (a.top < f.emin))
  if tiny then ⟨if ftz then f.zeroBits (f.unpack v).neg else v, Exc.ufNx⟩ else ⟨v, Exc.nx⟩

/-- A special function of a value, its subnormal inputs flushed already (R117). -/
def Sfu.result (u : Sfu) (ftz : Bool) (x : Nat) : FRes :=
  match u.special x with
  | some r => flushTiny ftz r
  | none => match Fmt.f32.unpack x with
    | .fin n m e => u.inexact (Config.special u.index (BitVec.ofNat 32 x)).toNat ftz x (u.approx n m e)
    | _ => Fmt.f32.invalid

/-- The nearest result, which the shadow unit compares with (R126). -/
def Sfu.nearest (u : Sfu) (ftz : Bool) (x : Nat) : FRes :=
  match u.special x with
  | some r => flushTiny ftz r
  | none => match Fmt.f32.unpack x with
    | .fin n m e =>
      let a := u.approx n m e
      u.inexact (Fmt.f32.round .rn false a.neg a.m a.e).bits ftz x a
    | _ => Fmt.f32.invalid

end Sys2Proof.Machine
end

