-- ==== Sys2Proof/Machine/FpAlu.lean ====
section
/-! DEFINITION. The floating-point lane instructions: elements of a lane, shadow checks (R126 to R128), FP_ENABLED (R107),
and the meanings of R111 to R117. -/
namespace Sys2Proof.Machine

/-! ### Elements (R100) -/

/-- The elements of a lane or pair: two at a packed type. -/
def elems (t : Ty) (x : BitVec 64) : List Nat :=
  match t with
  | .f16 | .bf16 => [(x.extractLsb' 0 16).toNat, (x.extractLsb' 16 16).toNat]
  | .f64 => [x.toNat]
  | _ => [(loWord x).toNat]

/-- A lane or pair from its elements. -/
def joinElems (t : Ty) (es : List Nat) : BitVec 64 :=
  match t with
  | .f16 | .bf16 => BitVec.ofNat 64 (es.getD 0 0 % 65536 + 65536 * (es.getD 1 0 % 65536))
  | .f64 => BitVec.ofNat 64 (es.getD 0 0)
  | _ => (BitVec.ofNat 32 (es.getD 0 0)).setWidth 64

/-- A floating source: an operand and its modifiers (R14). -/
structure FSrc where
  o   : Opnd
  neg : Bool := false
  abs : Bool := false

/-- A floating source's element after its modifiers and the flush of R108. -/
def FSrc.elem (w : Warp) (t : Ty) (s : FSrc) (x : Nat) : Nat :=
  (fmtOf t).flushIn w.ftz ((fmtOf t).modify s.neg s.abs x)

/-- Lists of equal length by element instead of by source. -/
def byElement (k : Nat) (xs : List (List Nat)) : List (List Nat) := (List.range k).map fun j => xs.map fun x => x.getD j 0

/-! ### Shadow checks (R126, R127) -/

/-- An operand cut to 8 significant bits. -/
def Fmt.cut8 (f : Fmt) (x : Nat) : Nat :=
  match f.unpack x with
  | .fin n m e =>
    let l := bitLen m
    if l ≤ 8 then x
    else
      let m := (m >>> (l - 8)) <<< (l - 8)
      (f.round .rn false n m e).bits
  | _ => x

/-- The shadow's result: sign, exponent and the top 7 significand bits of an element. The spec does not say which 7 bits these
are, how they are rounded, or whether FTZ reaches them: DESIGN CHOICE, the 7 fraction bits beside the leading one, rounded a
second time in the operation's direction, from a result that FTZ has flushed as it flushes the main one (log 9). -/
def Fmt.top7 (f : Fmt) (rm : Rm) (x : Nat) : FVal :=
  let g : Fmt := ⟨f.eb, min 7 f.mb⟩
  g.unpack (f.convert g rm false false x).bits

/-- The exponent of a finite non-zero value. -/
def FVal.expo? : FVal → Option Int
  | .fin _ m e => if m = 0 then none else some ((bitLen m : Int) - 1 + e)
  | _ => none

/-- |v| * 2^e exceeds 2^k. -/
def exceeds (v : Nat) (e k : Int) : Bool :=
  let lo := min e k
  decide (2 ^ (k - lo).toNat < v <<< (e - lo).toNat)

/-- A magnitude is below 2^k. -/
def below (m : Nat) (e k : Int) : Bool := decide (m = 0 ∨ (bitLen m : Int) - 1 + e < k)

/-- Whether main and shadow results diverge (R127); `addends` are the exponents of the addends, where there are any. -/
def diverges (f : Fmt) (m h : FVal) (addends : List Int) : Bool :=
  let es := [m.expo?, h.expo?].filterMap id ++ addends
  let e := es.foldl max f.emin
  match m, h with
  | .fin n1 m1 e1, .fin n2 m2 e2 =>
    if below m1 e1 (-100) && below m2 e2 (-100) then false else
    let (d, ed) := exactSum n1 m1 e1 (!n2) m2 e2
    exceeds d.natAbs ed (e - 5) || (n1 != n2 && (exceeds m1 e1 (e - 5) || exceeds m2 e2 (e - 5)))
  | .nan .., .nan .. => false
  | .inf n1, .inf n2 => n1 != n2
  | .inf n1, .fin n2 m2 e2 | .fin n2 m2 e2, .inf n1 => !(n1 == n2 && !below m2 e2 f.emax)
  | _, _ => true

/-- What the shadow unit has of an element: its format, its result, and the addends' exponents. -/
structure Shadow where
  fmt     : Fmt
  h       : FVal
  addends : List Int := []

/-- A result in the bits of a format diverges from its shadow (R127). -/
def Shadow.differs (x : Shadow) (bits : Nat) : Bool := diverges x.fmt (x.fmt.unpack bits) x.h x.addends

/-- No element of the checked lanes diverges from its shadow (R126, R127): `rs` holds the elements of each lane, `sh` their
shadows. -/
def agrees (live : Mask) (rs : List (Nat × List FRes)) (sh : Nat → List Shadow) : Bool :=
  (lanesOf live).all fun i => (((lookupN rs i).getD []).zip (sh i)).all fun x => !x.2.differs x.1.bits

/-- A soft error that waits falls on the first checked element (log 9). -/
def Ctx.upsetFirst (c : Ctx) (live : Mask) (rs : List (Nat × List FRes)) (sh : Nat → List Shadow) :
    Ctx × List (Nat × List FRes) :=
  match c.s.upset, lanesOf live with
  | some bits, i :: _ => match sh i with
    | [] => (c, rs)
    | x :: _ =>
      let m := bits.toNat % 2 ^ (1 + x.fmt.eb + x.fmt.mb)
      ({ c with s := { c.s with upset := none } },
        rs.map fun (j, es) => if j = i then (j, match es with | r :: t => { r with bits := m } :: t | [] => []) else (j, es))
  | _, _ => (c, rs)

/-- The shadow check of every active, unpoisoned element (R126): none on a divergence. -/
def Ctx.shadowCheck (c : Ctx) (live : Mask) (rs : List (Nat × List FRes)) (sh : Nat → List Shadow) :
    Option (Ctx × List (Nat × List FRes)) :=
  let x := c.upsetFirst live rs sh
  if agrees live x.2 sh then some x else none

/-- The results of a lane's elements: those that were checked, and of a poisoned one its own. -/
def mergeClean : List (FRes × Bool) → List FRes → List FRes
  | [], _ => []
  | (x, true) :: t, rs => x :: mergeClean t rs
  | (x, false) :: t, rs => rs.headD x :: mergeClean t rs.tail

/-- The shadow check element by element (R102, R126): `one` gives the results of a lane's elements, each with its poison, `sh`
their shadows. A poisoned element is not checked. It answers the results of the clean elements of each lane, none on a
divergence. -/
def Ctx.checkElems (c : Ctx) (act : Mask) (one : Nat → List (FRes × Bool)) (sh : Nat → List Shadow) :
    Option (Ctx × List (Nat × List FRes)) :=
  let clean (i : Nat) : List FRes := (one i).filterMap fun x => if x.2 then none else some x.1
  c.shadowCheck (maskOf fun i => act.getLsbD i && !(clean i).isEmpty) ((lanesOf act).map fun i => (i, clean i)) fun i =>
    ((one i).zip (sh i)).filterMap fun x => if x.1.2 then none else some x.2

/-! ### Retirement (R106, R107) -/

/-- A floating-point instruction retires with the exceptions of its unpoisoned active lanes, or raises FP_ENABLED.
`k` is the context with its results written. -/
def Ctx.fpRetire (c k : Ctx) (live : Mask) (exc : Nat → Exc) (len : Nat) : Eff :=
  let all := (lanesOf live).foldl (fun e i => e ||| exc i) (0 : Exc)
  let hit := maskOf fun i => live.getLsbD i && (exc i &&& c.w.enables) != 0
  if hit ≠ 0 then .trap c { cause := .fpEnabled, info := all.setWidth 32, lanes := some hit }
  else (k.setW (k.w.raise all)).done len

/-- The union of a lane's exceptions. -/
def excOf (es : List FRes) : Exc := es.foldl (fun e r => e ||| r.exc) 0

/-- An instruction whose elements each give one element of the result type `t2`, from sources of type `t` (R111). `f` is
the operation on an element after modifiers and flush, `sh` the shadow's, none for an unchecked instruction. -/
def Ctx.fpOp (c : Ctx) (g : Guard) (len : Nat) (d : Name) (t t2 : Ty) (srcs : List FSrc)
    (f : List Nat → FRes) (sh : Option (List Nat → Shadow)) : Eff :=
  let act := c.active g
  c.needs act (srcs.flatMap fun s => s.o.vnames) <|
    let rd := srcs.map fun s => (s, s.o.read c)
    let bad := rd.foldl (fun m r => m ||| r.2.bad) 0
    let live := act &&& ~~~bad
    let ins := fun i => byElement (if t.packed then 2 else 1)
      (rd.map fun (s, r) => (elems t (r.val i)).map (s.elem c.w t))
    let rs := (lanesOf act).map fun i => (i, (ins i).map f)
    let out := match sh with
      | some h => c.shadowCheck live rs fun i => (ins i).map h
      | none => some (c, rs)
    match out with
    | none => .mcheck { c with s := { c.s with upset := none } } .shadow
    | some (c, rs) =>
      let res := fun i => (lookupN rs i).getD []
      c.fpRetire (c.vwriteW d t2.wide act (fun i => joinElems t2 ((res i).map (·.bits))) bad) live
        (fun i => excOf (res i)) len

/-! ### Two and three sources -/

/-- Whether a result of a type is flushed (R108). -/
def Warp.ftzAt (w : Warp) (t : Ty) : Bool := w.ftz && (fmtOf t).flushes

/-- An operation of two elements with its rounding, flush and shadow. -/
def Ctx.fpBin (c : Ctx) (g : Guard) (len : Nat) (d : Name) (t : Ty) (rm : Rm) (a b : FSrc)
    (op : Fmt → Rm → Bool → Nat → Nat → FRes) (adds : Bool) : Eff :=
  let f := fmtOf t
  let ftz := c.w.ftzAt t
  c.fpOp g len d t t [a, b] (fun xs => op f rm ftz (xs.getD 0 0) (xs.getD 1 0))
    (some fun xs =>
      let x := xs.getD 0 0
      let y := xs.getD 1 0
      { fmt := f, h := f.top7 rm (op f rm ftz (f.cut8 x) (f.cut8 y)).bits,
        addends := if adds then [(f.unpack x).expo?, (f.unpack y).expo?].filterMap id else [] })

/-- Short form of two sources: .f32 at .rn, mod[1] negating b (R24). -/
def Ctx.fpBinF (c : Ctx) (r : LrF) (op : Fmt → Rm → Bool → Nat → Nat → FRes) (adds : Bool) : Eff :=
  c.fpBin r.g 4 r.d .f32 .rn { o := ⟨r.a, false, false⟩ } { o := ⟨r.b, r.bs, false⟩, neg := r.nb } op adds

/-- The floating source a of a modifier-word form. -/
def LrM.srcA (r : LrM) : FSrc := { o := ⟨r.a, false, r.m.t.wide⟩, neg := r.m.na, abs := r.m.aa }
/-- Source b. -/
def LrM.srcB (r : LrM) : FSrc := { o := ⟨r.b, r.bs, r.m.t.wide⟩, neg := r.m.nb, abs := r.m.ab }
/-- Source c. -/
def LrM.srcC (r : LrM) : FSrc := { o := ⟨r.m.c, r.m.cs, r.m.t.wide⟩, neg := r.m.nc, abs := r.m.ac }

/-- Modifier-word form of two sources. -/
def Ctx.fpBinM (c : Ctx) (r : LrM) (op : Fmt → Rm → Bool → Nat → Nat → FRes) (adds : Bool) : Eff :=
  c.fpBin r.g 8 r.d r.m.t r.m.rm (LrM.srcA r) (LrM.srcB r) op adds

/-- FADD. -/
def opAdd (f : Fmt) (rm : Rm) (ftz : Bool) (x y : Nat) : FRes := f.add rm ftz false x y
/-- FSUB. -/
def opSub (f : Fmt) (rm : Rm) (ftz : Bool) (x y : Nat) : FRes := f.add rm ftz true x y

/-- FADD (R111). -/
def execFadd (r : LrF) (s : State) : Host.Outcome State Fault Refusal := s.run (.fadd r) fun c => c.fpBinF r opAdd true
/-- FADD with a modifier word (R111). -/
def execFaddModw (r : LrM) (s : State) : Host.Outcome State Fault Refusal := s.run (.faddModw r) fun c => c.fpBinM r opAdd true
/-- FSUB (R111). -/
def execFsub (r : LrF) (s : State) : Host.Outcome State Fault Refusal := s.run (.fsub r) fun c => c.fpBinF r opSub true
/-- FSUB with a modifier word (R111). -/
def execFsubModw (r : LrM) (s : State) : Host.Outcome State Fault Refusal := s.run (.fsubModw r) fun c => c.fpBinM r opSub true
/-- FMUL (R111). -/
def execFmul (r : LrF) (s : State) : Host.Outcome State Fault Refusal := s.run (.fmul r) fun c => c.fpBinF r Fmt.mul false
/-- FMUL with a modifier word (R111). -/
def execFmulModw (r : LrM) (s : State) : Host.Outcome State Fault Refusal := s.run (.fmulModw r) fun c => c.fpBinM r Fmt.mul false
/-- FDIV (R111, R112). -/
def execFdiv (r : LrF) (s : State) : Host.Outcome State Fault Refusal := s.run (.fdiv r) fun c => c.fpBinF r Fmt.div false
/-- FDIV with a modifier word (R111, R112). -/
def execFdivModw (r : LrM) (s : State) : Host.Outcome State Fault Refusal := s.run (.fdivModw r) fun c => c.fpBinM r Fmt.div false

/-- FFMA (R111): the addends of its shadow check are the exact product and z (R127). -/
def execFfma (r : LrM) (s : State) : Host.Outcome State Fault Refusal :=
  s.run (.ffma r) fun c =>
    let f := fmtOf r.m.t
    let ftz := c.w.ftzAt r.m.t
    c.fpOp r.g 8 r.d r.m.t r.m.t [LrM.srcA r, LrM.srcB r, LrM.srcC r]
      (fun xs => f.fma r.m.rm ftz (xs.getD 0 0) (xs.getD 1 0) (xs.getD 2 0))
      (some fun xs =>
        let x := xs.getD 0 0
        let y := xs.getD 1 0
        let z := xs.getD 2 0
        let p := match f.unpack x, f.unpack y with
          | .fin _ m1 e1, .fin _ m2 e2 => (FVal.fin false (m1 * m2) (e1 + e2)).expo?
          | _, _ => none
        { fmt := f, h := f.top7 r.m.rm (f.fma r.m.rm ftz (f.cut8 x) (f.cut8 y) (f.cut8 z)).bits,
          addends := [p, (f.unpack z).expo?].filterMap id })

/-- FMIN and FMAX (R114). -/
def Ctx.fpMinMax (c : Ctx) (g : Guard) (len : Nat) (d : Name) (t : Ty) (a b : FSrc) (hi : Bool) : Eff :=
  c.fpOp g len d t t [a, b] (fun xs => (fmtOf t).minmax hi (xs.getD 0 0) (xs.getD 1 0)) none

/-- FMIN (R114). -/
def execFmin (r : LrF) (s : State) : Host.Outcome State Fault Refusal :=
  s.run (.fmin r) fun c => c.fpMinMax r.g 4 r.d .f32 { o := ⟨r.a, false, false⟩ } { o := ⟨r.b, r.bs, false⟩, neg := r.nb } false
/-- FMIN with a modifier word (R114). -/
def execFminModw (r : LrM) (s : State) : Host.Outcome State Fault Refusal :=
  s.run (.fminModw r) fun c => c.fpMinMax r.g 8 r.d r.m.t (LrM.srcA r) (LrM.srcB r) false
/-- FMAX (R114). -/
def execFmax (r : LrF) (s : State) : Host.Outcome State Fault Refusal :=
  s.run (.fmax r) fun c => c.fpMinMax r.g 4 r.d .f32 { o := ⟨r.a, false, false⟩ } { o := ⟨r.b, r.bs, false⟩, neg := r.nb } true
/-- FMAX with a modifier word (R114). -/
def execFmaxModw (r : LrM) (s : State) : Host.Outcome State Fault Refusal :=
  s.run (.fmaxModw r) fun c => c.fpMinMax r.g 8 r.d r.m.t (LrM.srcA r) (LrM.srcB r) true

/-- FCMP (R115): at a packed type the condition must hold for both elements. -/
def Ctx.fpCmp (c : Ctx) (g : Guard) (len : Nat) (pd : PName) (t : Ty) (k : FCond) (a b : FSrc) : Eff :=
  let act := c.active g
  c.needs act (a.o.vnames ++ b.o.vnames) <|
    let ra := a.o.read c
    let rb := b.o.read c
    let bad := ra.bad ||| rb.bad
    let one := fun i => (byElement (if t.packed then 2 else 1)
      [(elems t (ra.val i)).map (a.elem c.w t), (elems t (rb.val i)).map (b.elem c.w t)]).map
        fun xs => (fmtOf t).cmp k (xs.getD 0 0) (xs.getD 1 0)
    c.fpRetire (c.pput pd act (maskOf fun i => (one i).all (·.1)) bad) (act &&& ~~~bad)
      (fun i => (one i).foldl (fun e r => e ||| r.2) 0) len

/-- FCMP (R115). -/
def execFcmp (k : FCond) (pd : PName) (r : SrcF) (s : State) : Host.Outcome State Fault Refusal :=
  s.run (.fcmp k pd r) fun c =>
    c.fpCmp r.g 4 pd .f32 k { o := ⟨r.a, false, false⟩ } { o := ⟨r.b, r.bs, false⟩, neg := r.nb }
/-- FCMP with a modifier word (R115). -/
def execFcmpModw (k : FCond) (pd : PName) (r : SrcM) (s : State) : Host.Outcome State Fault Refusal :=
  s.run (.fcmpModw k pd r) fun c =>
    c.fpCmp r.g 8 pd r.m.t k { o := ⟨r.a, false, r.m.t.wide⟩, neg := r.m.na, abs := r.m.aa }
      { o := ⟨r.b, r.bs, r.m.t.wide⟩, neg := r.m.nb, abs := r.m.ab }

/-! ### One source -/

/-- FCLASS: never flushed, raises nothing, writes one name (R116). -/
def Ctx.fpClass (c : Ctx) (g : Guard) (len : Nat) (d : Name) (t : Ty) (a : FSrc) : Eff :=
  c.laneOp g len d false [a.o] fun _ xs =>
    let es := (elems t (arg xs 0)).map fun x => (fmtOf t).classOf ((fmtOf t).modify a.neg a.abs x)
    BitVec.ofNat 64 (es.getD 0 0 + 65536 * es.getD 1 0)

/-- FCLASS (R116). -/
def execFclass (r : LrU) (s : State) : Host.Outcome State Fault Refusal :=
  s.run (.fclass r) fun c => c.fpClass r.g 4 r.d .f32 { o := ⟨r.a, false, false⟩ }
/-- The floating source of a unary modifier-word form. -/
def LrUM.src (r : LrUM) : FSrc := { o := ⟨r.a, false, r.m.t.wide⟩, neg := r.m.na, abs := r.m.aa }
/-- FCLASS with a modifier word (R116). -/
def execFclassModw (r : LrUM) (s : State) : Host.Outcome State Fault Refusal :=
  s.run (.fclassModw r) fun c => c.fpClass r.g 8 r.d r.m.t (LrUM.src r)

/-- FRND (R116), which is not shadow-checked. -/
def Ctx.fpRnd (c : Ctx) (g : Guard) (len : Nat) (d : Name) (t : Ty) (rm : Rm) (a : FSrc) : Eff :=
  c.fpOp g len d t t [a] (fun xs => (fmtOf t).rint rm (xs.getD 0 0)) none

/-- FRND (R116). -/
def execFrnd (r : LrU) (s : State) : Host.Outcome State Fault Refusal :=
  s.run (.frnd r) fun c => c.fpRnd r.g 4 r.d .f32 .rn { o := ⟨r.a, false, false⟩ }
/-- FRND with a modifier word (R116). -/
def execFrndModw (r : LrUM) (s : State) : Host.Outcome State Fault Refusal :=
  s.run (.frndModw r) fun c => c.fpRnd r.g 8 r.d r.m.t r.m.rm (LrUM.src r)

/-- FSQRT (R111, R112). -/
def Ctx.fpSqrt (c : Ctx) (g : Guard) (len : Nat) (d : Name) (t : Ty) (rm : Rm) (a : FSrc) : Eff :=
  let f := fmtOf t
  let ftz := c.w.ftzAt t
  c.fpOp g len d t t [a] (fun xs => f.sqrt rm ftz (xs.getD 0 0))
    (some fun xs => { fmt := f, h := f.top7 rm (f.sqrt rm ftz (f.cut8 (xs.getD 0 0))).bits })

/-- FSQRT (R111). -/
def execFsqrt (r : LrU) (s : State) : Host.Outcome State Fault Refusal :=
  s.run (.fsqrt r) fun c => c.fpSqrt r.g 4 r.d .f32 .rn { o := ⟨r.a, false, false⟩ }
/-- FSQRT with a modifier word (R111). -/
def execFsqrtModw (r : LrUM) (s : State) : Host.Outcome State Fault Refusal :=
  s.run (.fsqrtModw r) fun c => c.fpSqrt r.g 8 r.d r.m.t r.m.rm (LrUM.src r)

/-- A special function (R117). FRCP and FRSQ are checked against the same operation of the cut operand, the others against
their last stage, whose shadow is taken from the result itself (R126, log 9). -/
def Ctx.fpSfu (c : Ctx) (g : Guard) (len : Nat) (d : Name) (u : Sfu) (a : FSrc) : Eff :=
  let f := Fmt.f32
  let cut := match u with | .rcp | .rsq => true | _ => false
  c.fpOp g len d .f32 .f32 [a] (fun xs => u.result c.w.ftz (xs.getD 0 0))
    (some fun xs =>
      let x := xs.getD 0 0
      { fmt := f, h := f.top7 .rn (if cut then u.nearest c.w.ftz (f.cut8 x) else u.result c.w.ftz x).bits })

/-- FRCP (R117). -/
def execFrcp (r : LrU) (s : State) : Host.Outcome State Fault Refusal :=
  s.run (.frcp r) fun c => c.fpSfu r.g 4 r.d .rcp { o := ⟨r.a, false, false⟩ }
/-- FRCP with a modifier word (R117). -/
def execFrcpModw (r : LrUM) (s : State) : Host.Outcome State Fault Refusal :=
  s.run (.frcpModw r) fun c => c.fpSfu r.g 8 r.d .rcp (LrUM.src r)
/-- FRSQ (R117). -/
def execFrsq (r : LrU) (s : State) : Host.Outcome State Fault Refusal :=
  s.run (.frsq r) fun c => c.fpSfu r.g 4 r.d .rsq { o := ⟨r.a, false, false⟩ }
/-- FRSQ with a modifier word (R117). -/
def execFrsqModw (r : LrUM) (s : State) : Host.Outcome State Fault Refusal :=
  s.run (.frsqModw r) fun c => c.fpSfu r.g 8 r.d .rsq (LrUM.src r)
/-- FEXP2 (R117). -/
def execFexp2 (r : LrU) (s : State) : Host.Outcome State Fault Refusal :=
  s.run (.fexp2 r) fun c => c.fpSfu r.g 4 r.d .exp2 { o := ⟨r.a, false, false⟩ }
/-- FEXP2 with a modifier word (R117). -/
def execFexp2Modw (r : LrUM) (s : State) : Host.Outcome State Fault Refusal :=
  s.run (.fexp2Modw r) fun c => c.fpSfu r.g 8 r.d .exp2 (LrUM.src r)
/-- FLOG2 (R117). -/
def execFlog2 (r : LrU) (s : State) : Host.Outcome State Fault Refusal :=
  s.run (.flog2 r) fun c => c.fpSfu r.g 4 r.d .log2 { o := ⟨r.a, false, false⟩ }
/-- FLOG2 with a modifier word (R117). -/
def execFlog2Modw (r : LrUM) (s : State) : Host.Outcome State Fault Refusal :=
  s.run (.flog2Modw r) fun c => c.fpSfu r.g 8 r.d .log2 (LrUM.src r)
/-- FSIN (R117). -/
def execFsin (r : LrU) (s : State) : Host.Outcome State Fault Refusal :=
  s.run (.fsin r) fun c => c.fpSfu r.g 4 r.d .sin { o := ⟨r.a, false, false⟩ }
/-- FSIN with a modifier word (R117). -/
def execFsinModw (r : LrUM) (s : State) : Host.Outcome State Fault Refusal :=
  s.run (.fsinModw r) fun c => c.fpSfu r.g 8 r.d .sin (LrUM.src r)
/-- FCOS (R117). -/
def execFcos (r : LrU) (s : State) : Host.Outcome State Fault Refusal :=
  s.run (.fcos r) fun c => c.fpSfu r.g 4 r.d .cos { o := ⟨r.a, false, false⟩ }
/-- FCOS with a modifier word (R117). -/
def execFcosModw (r : LrUM) (s : State) : Host.Outcome State Fault Refusal :=
  s.run (.fcosModw r) fun c => c.fpSfu r.g 8 r.d .cos (LrUM.src r)

/-! ### Conversions (R118 to R121) -/

/-- CVT (R118, R119). A packed result of two names has an element of each, and poison goes element by element (R102). -/
def execCvt (r : LrM) (t2 : Ty) (s : State) : Host.Outcome State Fault Refusal :=
  s.run (.cvt r t2) fun c =>
    let t := r.m.t
    let mix := t2.packed && !t.packed
    let a := LrM.srcA r
    let srcs := if mix then [a, LrM.srcB r] else [a]
    let act := c.active r.g
    c.needs act (srcs.flatMap fun x => x.o.vnames) <|
      let rd := srcs.map fun x => (x, x.o.read c)
      let bad := rd.foldl (fun m x => m ||| x.2.bad) 0
      -- the source elements of the result's elements, in order, each with its poison
      let ins : Nat → List ((Int × Nat) × Bool) := fun i =>
        let es := rd.flatMap fun (x, v) => (elems t (v.val i)).map fun y =>
          (((0 : Int), if t.isFp then x.elem c.w t y else y), v.bad.getLsbD i)
        if t.isInt then rd.map fun (_, v) => ((t.toInt (v.val i), 0), v.bad.getLsbD i)
        else if t.packed && !t2.packed then [es.getD (if r.b == 1 then 1 else 0) ((0, 0), false)]
        else es
      let ftz := c.w.ftz
      let conv := fun (x : Int × Nat) =>
        if t.isInt then (fmtOf t2).ofIntVal r.m.rm ftz x.1 else (fmtOf t).convert (fmtOf t2) r.m.rm r.m.sat ftz x.2
      if t2.isInt then
        let val := fun i => match (ins i).head? with
          | some ((v, e), _) =>
            if t.isInt then (t2.result r.m.sat v, (0 : Exc))
            else
              let (z, exc) := toIntTy t2 r.m.rm ((fmtOf t).unpack e)
              (t2.ofInt z, exc)
          | none => (0, 0)
        c.fpRetire (c.vwriteW r.d t2.wide act (fun i => (val i).1) bad) (act &&& ~~~bad) (fun i => (val i).2) 8
      else
        let one := fun i => (ins i).map fun x => (conv x.1, x.2)
        let h := fun (x : Int × Nat) =>
          let cut := if t.isInt then
              let m := x.1.natAbs
              let k := bitLen m - 8
              ((if x.1 < 0 then -1 else 1) * (((m >>> k) <<< k : Nat) : Int), 0)
            else ((0 : Int), (fmtOf t).cut8 x.2)
          ({ fmt := fmtOf t2, h := (fmtOf t2).top7 r.m.rm (conv cut).bits } : Shadow)
        match c.checkElems act one fun i => (ins i).map fun x => h x.1 with
        | none => .mcheck { c with s := { c.s with upset := none } } .shadow
        | some (c, rs) =>
          let clean := fun i => (lookupN rs i).getD []
          c.fpRetire (c.vwriteW r.d t2.wide act (fun i => joinElems t2 ((mergeClean (one i) (clean i)).map (·.bits))) bad) act
            (fun i => excOf (clean i)) 8

/-- PKF8 (R120): four values to four bytes. The shadow check compares the sources rounded to FP32 (R126), and a value that a
soft error has changed there is packed as it then stands. Poison goes element by element (R102). -/
def execPkf8 (r : LrM) (k : F8) (s : State) : Host.Outcome State Fault Refusal :=
  s.run (.pkf8 r k) fun c =>
    let t := r.m.t
    let f := fmtOf t
    let src (n : Name) (sn : Bool) (neg abs : Bool) : FSrc := { o := ⟨n, sn, false⟩, neg, abs }
    let a (n : Name) : FSrc := src n false r.m.na r.m.aa
    let b (n : Name) : FSrc := src n r.bs r.m.nb r.m.ab
    let srcs := if t == .f32 then [a r.a, a (Name.after r.a 1), b r.b, b (Name.after r.b 1)] else [a r.a, b r.b]
    let act := c.active r.g
    c.needs act (srcs.flatMap fun x => x.o.vnames) <|
      let rd := srcs.map fun x => (x, x.o.read c)
      let bad := rd.foldl (fun m x => m ||| x.2.bad) 0
      let ins : Nat → List (Nat × Bool) := fun i =>
        rd.flatMap fun (x, v) => (elems t (v.val i)).map fun y => (x.elem c.w t y, v.bad.getLsbD i)
      let to32 := fun x => f.convert Fmt.f32 .rn false false x
      let one := fun i => (ins i).map fun x => (to32 x.1, x.2)
      match c.checkElems act one fun i => (ins i).map fun x =>
          ({ fmt := Fmt.f32, h := Fmt.f32.top7 .rn (to32 (f.cut8 x.1)).bits } : Shadow) with
      | none => .mcheck { c with s := { c.s with upset := none } } .shadow
      | some (c, rs) =>
        let packed := fun i =>
          ((ins i).zip (mergeClean (one i) ((lookupN rs i).getD []))).map fun (x, y) =>
            if y.bits = (to32 x.1).bits then f8Pack k f r.m.rm r.m.sat x.1 else f8Pack k Fmt.f32 r.m.rm r.m.sat y.bits
        c.fpRetire (c.vwriteW r.d false act
            (fun i => BitVec.ofNat 64 ((packed i).foldr (fun x n => x.bits + 256 * n) 0)) bad) act
          (fun i => excOf (((packed i).zip (ins i)).filterMap fun x => if x.2.2 then none else some x.1)) 8

/-- UPF8 (R121): four bytes to four names at .f32, to two packed names else; it rounds and raises nothing. -/
def execUpf8 (r : LrM) (k : F8) (s : State) : Host.Outcome State Fault Refusal :=
  s.run (.upf8 r k) fun c =>
    let t := r.m.t
    let act := c.active r.g
    c.needs act [r.a] <|
      let ra := Opnd.read c ⟨r.a, false, false⟩
      let byte := fun i j => f8Widen k (fmtOf t) ((ra.val i >>> (8 * j)).toNat % 256)
      let lane := fun (n i : Nat) =>
        if t == .f32 then loWord (joinElems t [byte i n]) else loWord (joinElems t [byte i (2 * n), byte i (2 * n + 1)])
      let c := (List.range (if t == .f32 then 4 else 2)).foldl (fun (c : Ctx) n =>
        c.vwrite (Name.after r.d n) act (lane n) ra.bad) c
      c.done 8

end Sys2Proof.Machine
end

