-- ==== Sys2Proof/Machine/IntAlu.lean ====
section
/-! DEFINITION. The integer lane instructions (R101, R103, R104). -/
namespace Sys2Proof.Machine

/-! ### Exact values (R104) -/

/-- The bits a type reads, as a natural number. -/
def Ty.nat (t : Ty) (x : BitVec 64) : Nat := (x.setWidth t.bits).toNat

/-- A shift amount: b, read as .n32, modulo the width. -/
def shiftBy (t : Ty) (y : BitVec 64) : Nat := (loWord y).toNat % t.bits

/-- SHL. -/
def valShl (t : Ty) (x y : BitVec 64) : BitVec 64 := t.ofInt (t.toInt x * 2 ^ shiftBy t y)
/-- SHR. -/
def valShr (t : Ty) (x y : BitVec 64) : BitVec 64 := t.ofInt ((Ty.nat t x >>> shiftBy t y : Nat) : Int)
/-- SRA. -/
def valSra (t : Ty) (x y : BitVec 64) : BitVec 64 := t.ofInt ((x.setWidth t.bits).toInt >>> shiftBy t y)
/-- ROT. -/
def valRot (t : Ty) (x y : BitVec 64) : BitVec 64 :=
  let k := shiftBy t y
  t.ofInt (((Ty.nat t x <<< k) ||| (Ty.nat t x >>> (t.bits - k)) : Nat) : Int)

/-- The position of a BFE or BFI field word. -/
def fieldPos (y : BitVec 64) : Nat := (y.extractLsb' 0 8).toNat
/-- The length of a BFE or BFI field word. -/
def fieldLen (y : BitVec 64) : Nat := (y.extractLsb' 8 8).toNat

/-- The low `len` bits of a number, extended by signedness. -/
def extendFrom (signed : Bool) (len : Nat) (f : Nat) : Int :=
  let u := f % 2 ^ len
  if signed ∧ 2 ^ (len - 1) ≤ u then (u : Int) - 2 ^ len else u

/-- BFE. -/
def valBfe (t : Ty) (x y : BitVec 64) : BitVec 64 :=
  let len := fieldLen y
  let f : Int := t.toInt x >>> fieldPos y
  if len = 0 then 0
  else if t.bits ≤ len then t.ofInt f
  else t.ofInt (extendFrom t.signed len (f % 2 ^ t.bits).toNat)

/-- BFI. -/
def valBfi (t : Ty) (x y z : BitVec 64) : BitVec 64 :=
  let m := ((2 ^ min (fieldLen z) t.bits - 1) <<< fieldPos z) % 2 ^ t.bits
  let keep := Ty.nat t x - (Ty.nat t x &&& m)
  t.ofInt ((keep ||| ((Ty.nat t y <<< fieldPos z) &&& m) : Nat) : Int)

/-- POPC: the number of one bits. -/
def valPopc (t : Ty) (x : BitVec 64) : BitVec 64 :=
  BitVec.ofNat 64 ((List.range t.bits).filter fun i => x.getLsbD i).length
/-- CLZ: leading zeros, the width for 0. -/
def valClz (t : Ty) (x : BitVec 64) : BitVec 64 :=
  BitVec.ofNat 64 (if Ty.nat t x = 0 then t.bits else t.bits - 1 - (Ty.nat t x).log2)
/-- BREV: bits in reverse order. -/
def valBrev (t : Ty) (x : BitVec 64) : BitVec 64 :=
  (List.range t.bits).foldl (fun r i => if x.getLsbD i then r ||| (1#64 <<< (t.bits - 1 - i)) else r) 0

/-- The integer conditions of R27. -/
def icondHolds (c : ICond) (x y : Int) : Bool :=
  match c with
  | .eq => x == y
  | .ne => x != y
  | .lt => decide (x < y)
  | .le => decide (x ≤ y)
  | .gt => decide (y < x)
  | .ge => decide (y ≤ x)

/-! ### Shapes -/

/-- The v-name source of an instruction. -/
def vsrc (n : Name) (t : Ty) : Opnd := ⟨n, false, t.wide⟩

namespace Ctx

/-- d := f(a, b) without a modifier word. -/
def bin (c : Ctx) (r : LrA) (f : BitVec 64 → BitVec 64 → BitVec 64) : Eff :=
  c.laneOp r.g 4 r.d false [⟨r.a, false, false⟩, ⟨r.b, r.bs, false⟩] fun _ xs => f (arg xs 0) (arg xs 1)

/-- d := f(a, b) with a modifier word; `bw` says whether b is as wide as the type. -/
def binM (c : Ctx) (r : LrM) (bw : Bool) (f : BitVec 64 → BitVec 64 → BitVec 64) : Eff :=
  c.laneOp r.g 8 r.d r.m.t.wide [vsrc r.a r.m.t, ⟨r.b, r.bs, bw && r.m.t.wide⟩] fun _ xs => f (arg xs 0) (arg xs 1)

/-- d := f(a, b, c) with a modifier word. -/
def triM (c : Ctx) (r : LrM) (cw : Bool) (f : BitVec 64 → BitVec 64 → BitVec 64 → BitVec 64) : Eff :=
  c.laneOp r.g 8 r.d r.m.t.wide [vsrc r.a r.m.t, ⟨r.b, r.bs, r.m.t.wide⟩, ⟨r.m.c, r.m.cs, cw && r.m.t.wide⟩]
    fun _ xs => f (arg xs 0) (arg xs 1) (arg xs 2)

/-- d := f(a) without a modifier word. -/
def un (c : Ctx) (r : LrU) (f : BitVec 64 → BitVec 64) : Eff :=
  c.laneOp r.g 4 r.d false [⟨r.a, false, false⟩] fun _ xs => f (arg xs 0)

/-- d := f(a) with a modifier word; `dw` says whether the result is as wide as the type. -/
def unM (c : Ctx) (r : LrUM) (dw : Bool) (f : BitVec 64 → BitVec 64) : Eff :=
  c.laneOp r.g 8 r.d (dw && r.m.t.wide) [vsrc r.a r.m.t] fun _ xs => f (arg xs 0)

/-- d := f(a, imm). -/
def binImm (c : Ctx) (d a : Name) (imm : BitVec 64) (g : Guard) (f : BitVec 64 → BitVec 64 → BitVec 64) : Eff :=
  c.laneOp g 4 d false [⟨a, false, false⟩] fun _ xs => f (arg xs 0) imm

end Ctx

/-- An integer operation on exact values, at a type. -/
def exact2 (t : Ty) (sat : Bool) (f : Int → Int → Int) (x y : BitVec 64) : BitVec 64 :=
  t.result sat (f (t.toInt x) (t.toInt y))
/-- The same of one value. -/
def exact1 (t : Ty) (sat : Bool) (f : Int → Int) (x : BitVec 64) : BitVec 64 := t.result sat (f (t.toInt x))
/-- The high half of a product (R104). -/
def valMulh (t : Ty) (x y : BitVec 64) : BitVec 64 := t.ofInt ((t.toInt x * t.toInt y) >>> t.bits)
/-- imm9 extended to 32 bits (R101). -/
def simm9 (imm : BitVec 9) : BitVec 64 := (imm.signExtend 32).setWidth 64

/-! ### Meanings -/


/-- IADD at .s32 (R104). -/
def execIadd (r : LrA) (s : State) : Host.Outcome State Fault Refusal :=
  s.run (.iadd r) fun c => c.bin r (exact2 (Ty.s32) false (· + ·))

/-- IADD at the type of its modifier word (R104). -/
def execIaddModw (r : LrM) (s : State) : Host.Outcome State Fault Refusal :=
  s.run (.iaddModw r) fun c => c.binM r true (exact2 r.m.t r.m.sat (· + ·))

/-- ISUB at .s32 (R104). -/
def execIsub (r : LrA) (s : State) : Host.Outcome State Fault Refusal :=
  s.run (.isub r) fun c => c.bin r (exact2 (Ty.s32) false (· - ·))

/-- ISUB at the type of its modifier word (R104). -/
def execIsubModw (r : LrM) (s : State) : Host.Outcome State Fault Refusal :=
  s.run (.isubModw r) fun c => c.binM r true (exact2 r.m.t r.m.sat (· - ·))

/-- IMUL at .s32 (R104). -/
def execImul (r : LrA) (s : State) : Host.Outcome State Fault Refusal :=
  s.run (.imul r) fun c => c.bin r (exact2 (Ty.s32) false (· * ·))

/-- IMUL at the type of its modifier word (R104). -/
def execImulModw (r : LrM) (s : State) : Host.Outcome State Fault Refusal :=
  s.run (.imulModw r) fun c => c.binM r true (exact2 r.m.t r.m.sat (· * ·))

/-- IMULH at .s32 (R104). -/
def execImulh (r : LrA) (s : State) : Host.Outcome State Fault Refusal :=
  s.run (.imulh r) fun c => c.bin r (valMulh (Ty.s32))

/-- IMULH at the type of its modifier word (R104). -/
def execImulhModw (r : LrM) (s : State) : Host.Outcome State Fault Refusal :=
  s.run (.imulhModw r) fun c => c.binM r true (valMulh r.m.t)

/-- IMAD (R104). -/
def execImad (r : LrM) (s : State) : Host.Outcome State Fault Refusal :=
  s.run (.imad r) fun c => c.triM r true fun x y z => r.m.t.result r.m.sat (r.m.t.toInt x * r.m.t.toInt y + r.m.t.toInt z)

/-- IMIN at .s32 (R104). -/
def execImin (r : LrA) (s : State) : Host.Outcome State Fault Refusal :=
  s.run (.imin r) fun c => c.bin r (exact2 (Ty.s32) false min)

/-- IMIN at the type of its modifier word (R104). -/
def execIminModw (r : LrM) (s : State) : Host.Outcome State Fault Refusal :=
  s.run (.iminModw r) fun c => c.binM r true (exact2 r.m.t false min)

/-- IMAX at .s32 (R104). -/
def execImax (r : LrA) (s : State) : Host.Outcome State Fault Refusal :=
  s.run (.imax r) fun c => c.bin r (exact2 (Ty.s32) false max)

/-- IMAX at the type of its modifier word (R104). -/
def execImaxModw (r : LrM) (s : State) : Host.Outcome State Fault Refusal :=
  s.run (.imaxModw r) fun c => c.binM r true (exact2 r.m.t false max)

/-- ICMP at .s32 (R104). -/
def execIcmp (k : ICond) (pd : PName) (r : SrcA) (s : State) : Host.Outcome State Fault Refusal :=
  s.run (.icmp k pd r) fun c => c.predOp r.g 4 pd [⟨r.a, false, false⟩, ⟨r.b, r.bs, false⟩] fun _ xs =>
    icondHolds k (Ty.toInt .s32 (arg xs 0)) (Ty.toInt .s32 (arg xs 1))

/-- ICMP at the type of its modifier word (R104). -/
def execIcmpModw (k : ICond) (pd : PName) (r : SrcM) (s : State) : Host.Outcome State Fault Refusal :=
  s.run (.icmpModw k pd r) fun c => c.predOp r.g 8 pd [vsrc r.a r.m.t, ⟨r.b, r.bs, r.m.t.wide⟩] fun _ xs =>
    icondHolds k (r.m.t.toInt (arg xs 0)) (r.m.t.toInt (arg xs 1))

/-- AND at .s32 (R104). -/
def execAndLane (r : LrA) (s : State) : Host.Outcome State Fault Refusal :=
  s.run (.andLane r) fun c => c.bin r ((· &&& ·))

/-- AND at the type of its modifier word (R104). -/
def execAndLaneModw (r : LrM) (s : State) : Host.Outcome State Fault Refusal :=
  s.run (.andLaneModw r) fun c => c.binM r true ((· &&& ·))

/-- OR at .s32 (R104). -/
def execOrLane (r : LrA) (s : State) : Host.Outcome State Fault Refusal :=
  s.run (.orLane r) fun c => c.bin r ((· ||| ·))

/-- OR at the type of its modifier word (R104). -/
def execOrLaneModw (r : LrM) (s : State) : Host.Outcome State Fault Refusal :=
  s.run (.orLaneModw r) fun c => c.binM r true ((· ||| ·))

/-- XOR at .s32 (R104). -/
def execXorLane (r : LrA) (s : State) : Host.Outcome State Fault Refusal :=
  s.run (.xorLane r) fun c => c.bin r ((· ^^^ ·))

/-- XOR at the type of its modifier word (R104). -/
def execXorLaneModw (r : LrM) (s : State) : Host.Outcome State Fault Refusal :=
  s.run (.xorLaneModw r) fun c => c.binM r true ((· ^^^ ·))

/-- SHL at .s32 (R104). -/
def execShl (r : LrA) (s : State) : Host.Outcome State Fault Refusal :=
  s.run (.shl r) fun c => c.bin r (valShl .s32)

/-- SHL at the type of its modifier word (R104). -/
def execShlModw (r : LrM) (s : State) : Host.Outcome State Fault Refusal :=
  s.run (.shlModw r) fun c => c.binM r false (valShl r.m.t)

/-- SHR at .s32 (R104). -/
def execShr (r : LrA) (s : State) : Host.Outcome State Fault Refusal :=
  s.run (.shr r) fun c => c.bin r (valShr .s32)

/-- SHR at the type of its modifier word (R104). -/
def execShrModw (r : LrM) (s : State) : Host.Outcome State Fault Refusal :=
  s.run (.shrModw r) fun c => c.binM r false (valShr r.m.t)

/-- SRA at .s32 (R104). -/
def execSra (r : LrA) (s : State) : Host.Outcome State Fault Refusal :=
  s.run (.sra r) fun c => c.bin r (valSra .s32)

/-- SRA at the type of its modifier word (R104). -/
def execSraModw (r : LrM) (s : State) : Host.Outcome State Fault Refusal :=
  s.run (.sraModw r) fun c => c.binM r false (valSra r.m.t)

/-- ROT at .s32 (R104). -/
def execRot (r : LrA) (s : State) : Host.Outcome State Fault Refusal :=
  s.run (.rot r) fun c => c.bin r (valRot .s32)

/-- ROT at the type of its modifier word (R104). -/
def execRotModw (r : LrM) (s : State) : Host.Outcome State Fault Refusal :=
  s.run (.rotModw r) fun c => c.binM r false (valRot r.m.t)

/-- BFE at .s32 (R104). -/
def execBfe (r : LrA) (s : State) : Host.Outcome State Fault Refusal :=
  s.run (.bfe r) fun c => c.bin r (valBfe .s32)

/-- BFE at the type of its modifier word (R104). -/
def execBfeModw (r : LrM) (s : State) : Host.Outcome State Fault Refusal :=
  s.run (.bfeModw r) fun c => c.binM r false (valBfe r.m.t)

/-- BFI (R104). -/
def execBfi (r : LrM) (s : State) : Host.Outcome State Fault Refusal :=
  s.run (.bfi r) fun c => c.triM r false (valBfi r.m.t)

/-- SEL (R104): the p-name stands in C; a poisoned bit of it in an active lane is consumed (R102). The spec does not say whether a
poisoned source that is not selected marks the result: DESIGN CHOICE, the selected source's poison alone does (log 52). -/
def execSel (r : LrM) (s : State) : Host.Outcome State Fault Refusal :=
  s.run (.sel r) fun c =>
    let pn : PName := r.m.c.setWidth 3
    let os : List Opnd := [vsrc r.a r.m.t, ⟨r.b, r.bs, r.m.t.wide⟩]
    c.needs (c.active r.g) (os.flatMap Opnd.vnames) <|
      if c.w.pbad pn &&& c.active r.g ≠ 0 then .mcheck c .poisonConsumed else
      let ra := Opnd.read c (vsrc r.a r.m.t)
      let rb := Opnd.read c ⟨r.b, r.bs, r.m.t.wide⟩
      let p := c.w.pget pn
      (c.vwriteW r.d r.m.t.wide (c.active r.g) (fun i => if p.getLsbD i then ra.val i else rb.val i)
        ((p &&& ra.bad) ||| (~~~p &&& rb.bad))).done 8

/-- IABS at .s32 (R104). -/
def execIabs (r : LrU) (s : State) : Host.Outcome State Fault Refusal :=
  s.run (.iabs r) fun c => c.un r (exact1 (Ty.s32) false fun x => if x < 0 then -x else x)

/-- IABS at the type of its modifier word (R104). -/
def execIabsModw (r : LrUM) (s : State) : Host.Outcome State Fault Refusal :=
  s.run (.iabsModw r) fun c => c.unM r true (exact1 r.m.t r.m.sat fun x => if x < 0 then -x else x)

/-- INEG at .s32 (R104). -/
def execIneg (r : LrU) (s : State) : Host.Outcome State Fault Refusal :=
  s.run (.ineg r) fun c => c.un r (exact1 (Ty.s32) false fun x => -x)

/-- INEG at the type of its modifier word (R104). -/
def execInegModw (r : LrUM) (s : State) : Host.Outcome State Fault Refusal :=
  s.run (.inegModw r) fun c => c.unM r true (exact1 r.m.t r.m.sat fun x => -x)

/-- POPC at .s32 (R104). -/
def execPopc (r : LrU) (s : State) : Host.Outcome State Fault Refusal :=
  s.run (.popc r) fun c => c.un r (valPopc (Ty.s32))

/-- POPC at the type of its modifier word (R104). -/
def execPopcModw (r : LrUM) (s : State) : Host.Outcome State Fault Refusal :=
  s.run (.popcModw r) fun c => c.unM r false (valPopc r.m.t)

/-- CLZ at .s32 (R104). -/
def execClz (r : LrU) (s : State) : Host.Outcome State Fault Refusal :=
  s.run (.clz r) fun c => c.un r (valClz (Ty.s32))

/-- CLZ at the type of its modifier word (R104). -/
def execClzModw (r : LrUM) (s : State) : Host.Outcome State Fault Refusal :=
  s.run (.clzModw r) fun c => c.unM r false (valClz r.m.t)

/-- BREV at .s32 (R104). -/
def execBrev (r : LrU) (s : State) : Host.Outcome State Fault Refusal :=
  s.run (.brev r) fun c => c.un r (valBrev (Ty.s32))

/-- BREV at the type of its modifier word (R104). -/
def execBrevModw (r : LrUM) (s : State) : Host.Outcome State Fault Refusal :=
  s.run (.brevModw r) fun c => c.unM r true (valBrev r.m.t)

/-- IADD with an immediate (R101). -/
def execIaddImm (d a : Name) (imm : BitVec 9) (g : Guard) (s : State) : Host.Outcome State Fault Refusal :=
  s.run (.iaddImm d a imm g) fun c => c.binImm d a (simm9 imm) g (exact2 .s32 false (· + ·))

/-- AND with an immediate (R101). -/
def execAndImm (d a : Name) (imm : BitVec 9) (g : Guard) (s : State) : Host.Outcome State Fault Refusal :=
  s.run (.andImm d a imm g) fun c => c.binImm d a (simm9 imm) g (· &&& ·)

/-- OR with an immediate (R101). -/
def execOrImm (d a : Name) (imm : BitVec 9) (g : Guard) (s : State) : Host.Outcome State Fault Refusal :=
  s.run (.orImm d a imm g) fun c => c.binImm d a (simm9 imm) g (· ||| ·)

/-- XOR with an immediate (R101). -/
def execXorImm (d a : Name) (imm : BitVec 9) (g : Guard) (s : State) : Host.Outcome State Fault Refusal :=
  s.run (.xorImm d a imm g) fun c => c.binImm d a (simm9 imm) g (· ^^^ ·)

/-- SHL by an immediate amount (R101). -/
def execShlImm (d a : Name) (k : BitVec 5) (g : Guard) (s : State) : Host.Outcome State Fault Refusal :=
  s.run (.shlImm d a k g) fun c => c.binImm d a (k.setWidth 64) g (valShl .s32)

/-- SHR by an immediate amount (R101). -/
def execShrImm (d a : Name) (k : BitVec 5) (g : Guard) (s : State) : Host.Outcome State Fault Refusal :=
  s.run (.shrImm d a k g) fun c => c.binImm d a (k.setWidth 64) g (valShr .s32)

/-- SRA by an immediate amount (R101). -/
def execSraImm (d a : Name) (k : BitVec 5) (g : Guard) (s : State) : Host.Outcome State Fault Refusal :=
  s.run (.sraImm d a k g) fun c => c.binImm d a (k.setWidth 64) g (valSra .s32)

/-- ROT by an immediate amount (R101). -/
def execRotImm (d a : Name) (k : BitVec 5) (g : Guard) (s : State) : Host.Outcome State Fault Refusal :=
  s.run (.rotImm d a k g) fun c => c.binImm d a (k.setWidth 64) g (valRot .s32)

/-- ICMP with an immediate at .s32 (R101). -/
def execIcmpS32Imm (k : ICond) (pd : PName) (a : Name) (imm : BitVec 9) (g : Guard) (s : State) : Host.Outcome State Fault Refusal :=
  s.run (.icmpS32Imm k pd a imm g) fun c => c.predOp g 4 pd [⟨a, false, false⟩] fun _ xs =>
    icondHolds k (Ty.toInt .s32 (arg xs 0)) (Ty.toInt .s32 (simm9 imm))

/-- ICMP with an immediate at .n32 (R101). -/
def execIcmpN32Imm (k : ICond) (pd : PName) (a : Name) (imm : BitVec 9) (g : Guard) (s : State) : Host.Outcome State Fault Refusal :=
  s.run (.icmpN32Imm k pd a imm g) fun c => c.predOp g 4 pd [⟨a, false, false⟩] fun _ xs =>
    icondHolds k (Ty.toInt .n32 (arg xs 0)) (Ty.toInt .n32 (simm9 imm))

end Sys2Proof.Machine
end

