-- ==== Sys2Proof/Machine/ScratchMem.lean ====
section
/-! DEFINITION. Scratchpad accesses of a warp: LD, ST, ATOM (R178 to R181), SPILL and FILL (R182), SLD, SST and SLDK (R125). -/
namespace Sys2Proof.Machine

/-- The active lanes' places, after the poison of addresses and the checks of R156 in order. -/
def Ctx.lanePlaces (c : Ctx) (r : LmA) (n : Nat) (k : List (Nat × ScrLoc) → Eff) : Eff :=
  let act := c.active r.g
  if act = 0 then k [] else
  if c.w.sbad r.s || (c.vbad r.v &&& act) != 0 then .mcheck c .poisonConsumed else
  let bad (p : Nat → Bool) : Option TrapInfo :=
    match lanesOf (maskOf fun i => act.getLsbD i && p i) with
    | i :: t => some { cause := .scratchBounds, info := 0, lanes := some (maskOf fun j => (i :: t).contains j),
                       addr := some ((c.laneAddr r i).setWidth 64) }
    | [] => none
  match bad fun i => (c.laneAddr r i).toNat % n != 0 with
  | some t => .trap c { t with cause := .misaligned }
  | none => match bad fun i => (c.resolve (c.laneAddr r i) n).isNone with
    | some t => .trap c t
    | none => k ((lanesOf act).filterMap fun i => (c.resolve (c.laneAddr r i) n).map fun l => (i, l))

/-- The names of the data group of a size. -/
def dataNames (d : Name) (z : Size) : List Name := (List.range z.names).map (Name.after d)

/-! ### LD and ST (R179) -/

/-- Word `j` of the bytes a lane loads, zero-extended. -/
def loadWord (bs : List Byte) (j : Nat) : Word := BitVec.ofNat 32 (leNat ((bs.drop (4 * j)).take 4))

/-- The load once every line is present. -/
def Ctx.loadLanes (c : Ctx) (r : LmA) (z : Size) (ps : List (Nat × ScrLoc)) : Ctx :=
  let got := ps.map fun (i, l) => (i, c.get l (Size.bytes z))
  let bad := ps.foldl (fun m (i, l) => if c.getBad l (Size.bytes z) then m ||| (1#32 <<< i) else m) (0 : Mask)
  (List.range z.names).foldl (fun (c : Ctx) j =>
    c.vwrite (Name.after r.d j) (c.active r.g) (fun i => loadWord ((lookupN got i).getD []) j) bad) c

/-- An acquire with .rmt waits for what had left the owning cores when it asked them (R209). -/
def Ctx.promoting (c : Ctx) (ps : List (Nat × ScrLoc)) (go : Eff) : Eff :=
  let cores := ps.map fun x => match c.s.block? x.2.blk with | some b => 48 * b.cluster + b.core | none => c.coreIx
  let upto := match c.w.st with | .promote n _ => n | _ => c.s.nextSeq
  if cores.all fun k => c.s.promoted k upto [] then go else .stay c (.promote upto cores.eraseDups)

/-- A load with its semantics (R179, R204, R209). -/
def Ctx.ldOp (c : Ctx) (r : LmA) (z : Size) (len : Nat) (sem : Sem) (scope : Scope) (rmt : Bool) : Eff :=
  c.needs (c.active r.g) [r.v] <| c.lanePlaces r (Size.bytes z) fun ps =>
    if ps.any fun x => !c.present x.2 (Size.bytes z) then .stay c (.absent (ps.flatMap fun x => linesAt x.2 (Size.bytes z)))
    else c.inOrder sem scope (read := true) <|
      let go : Eff := (c.loadLanes r z ps).done len
      if rmt && atDie scope then c.promoting ps go else go

/-- LD (R179). -/
def execLd (r : LmA) (z : Size) (s : State) : Host.Outcome State Fault Refusal :=
  s.run (.ld r z) fun c => c.ldOp r z 4 .rlx .device false
/-- LD with a memory word (R179, R181). -/
def execLdLong (r : LmA) (w : LdWord) (s : State) : Host.Outcome State Fault Refusal :=
  s.run (.ldLong r w) fun c => c.ldOp r w.size 8 w.sem w.scope w.rmt

/-- The low `n` bytes of a lane's data group. -/
def Ctx.storeBytes (c : Ctx) (d : Name) (z : Size) (i : Nat) : List Byte :=
  ((dataNames d z).flatMap fun m => leBytes 4 ((c.vlanes m)[i]?.getD 0).toNat).take (Size.bytes z)

/-- A store with its semantics (R179): ascending lane order, so the highest lane's bytes stand. DESIGN CHOICE: each lane is a
store of its own, and lanes that cover a poisoned granule together do not clean it (log 12). -/
def Ctx.stOp (c : Ctx) (r : LmA) (z : Size) (len : Nat) (sem : Sem) (scope : Scope) : Eff :=
  c.needs (c.active r.g) (dataNames r.d z ++ [r.v]) <| c.lanePlaces r (Size.bytes z) fun ps =>
    c.inOrder sem scope <|
      let bad := (dataNames r.d z).foldl (fun m n => m ||| c.vbad n) 0
      (ps.foldl (fun (c : Ctx) x => c.put x.2 (c.storeBytes r.d z x.1) (bad.getLsbD x.1)) c).done len

/-- ST (R179). -/
def execSt (r : LmA) (z : Size) (s : State) : Host.Outcome State Fault Refusal :=
  s.run (.st r z) fun c => c.stOp r z 4 .rlx .device
/-- ST with a memory word (R179, R181). -/
def execStLong (r : LmA) (w : StWord) (s : State) : Host.Outcome State Fault Refusal :=
  s.run (.stLong r w) fun c => c.stOp r w.size 8 w.sem w.scope

/-! ### ATOM (R180) -/

/-- The floating addition of an atomic: .f32 or .f64 at .rn, subnormals honoured, no exception kept. -/
def atomFadd (w64 : Bool) (x y : BitVec 64) : BitVec 64 :=
  let f := if w64 then Fmt.f64 else Fmt.f32
  BitVec.ofNat 64 (f.add .rn false false x.toNat y.toNat).bits

/-- The new value of an atomic (R180): `x` the operand, `c` the second operand of .cas. -/
def atomNew (op : AtomOp) (w64 : Bool) (old x c : BitVec 64) : BitVec 64 :=
  let t := if w64 then Ty.s64 else Ty.s32
  let u := if w64 then Ty.n64 else Ty.n32
  match op with
  | .add => t.ofInt (t.toInt old + t.toInt x)
  | .minS => exact2 t false min old x
  | .minN => exact2 u false min old x
  | .maxS => exact2 t false max old x
  | .maxN => exact2 u false max old x
  | .and => old &&& x
  | .or => old ||| x
  | .xor => old ^^^ x
  | .exch => x
  | .cas => if old = x then c else old
  | .fadd => atomFadd w64 old x

/-- What the shadow unit has of an atomic addition (R126, R180). -/
def atomShadow (w64 : Bool) (x y : BitVec 64) : Shadow :=
  let f := if w64 then Fmt.f64 else Fmt.f32
  { fmt := f, h := f.top7 .rn (f.add .rn false false (f.cut8 x.toNat) (f.cut8 y.toNat)).bits,
    addends := [(f.unpack x.toNat).expo?, (f.unpack y.toNat).expo?].filterMap id }

/-- The shadow check of one addition (R126, R128): a soft error that waits falls on it, and where it diverges there is no
result. -/
def State.shadowOne (s : State) (sh : Shadow) (good : BitVec 64) : State × Option (BitVec 64) :=
  let m := match s.upset with
    | none => good
    | some bits => BitVec.ofNat 64 (bits.toNat % 2 ^ (1 + sh.fmt.eb + sh.fmt.mb))
  ({ s with upset := none }, if sh.differs m.toNat then none else some m)

/-- One lane of an ATOM: none where the shadow check diverges. -/
def Ctx.atomLane (c : Ctx) (w : AtomWord) (x y : BitVec 64) (bad : Bool) (l : ScrLoc) : Option (Ctx × BitVec 64 × Bool) :=
  let n := if w.w64 then 8 else 4
  let old := BitVec.ofNat 64 (leNat (c.get l n))
  let oldBad := c.getBad l n
  let (s, new) := if w.op == .fadd && !oldBad && !bad then c.s.shadowOne (atomShadow w.w64 old x) (atomFadd w.w64 old x)
    else (c.s, some (atomNew w.op w.w64 old x y))
  new.map fun v => (({ c with s } : Ctx).put l (leBytes n v.toNat) (oldBad || bad), old, oldBad)

/-- ATOM's lanes in ascending order, with the old value of each. -/
def Ctx.atomLanes (w : AtomWord) (rx ry : Read) : Ctx → List (Nat × ScrLoc) → Option (Ctx × List (Nat × BitVec 64 × Bool))
  | c, [] => some (c, [])
  | c, (i, l) :: t =>
    match c.atomLane w (rx.val i) (ry.val i) (rx.bad.getLsbD i || ry.bad.getLsbD i) l with
    | none => none
    | some (c, old, b) => (atomLanes w rx ry c t).map fun (c, os) => (c, (i, old, b) :: os)

/-- ATOM (R180). -/
def execAtom (r : LmA) (w : AtomWord) (s : State) : Host.Outcome State Fault Refusal :=
  s.run (.atom r w) fun c =>
    let ox : Opnd := ⟨r.d, false, w.w64⟩
    let oy : Opnd := ⟨w.c, false, w.w64⟩
    let cas := w.op == .cas
    c.needs (c.active r.g) (ox.vnames ++ [r.v] ++ (if cas then oy.vnames else [])) <|
      c.lanePlaces r (if w.w64 then 8 else 4) fun ps => c.inOrder w.sem w.scope <|
        let ry : Read := if cas then oy.read c else ⟨fun _ => 0, 0⟩
        let go : Eff := match c.atomLanes w (ox.read c) ry ps with
          | none => .mcheck { c with s := { c.s with upset := none } } .shadow
          | some (c, os) =>
            let old := fun i => ((lookupN os i).map (·.1)).getD 0
            let bad := maskOf fun i => ((lookupN os i).map (·.2)).getD false
            (c.vwriteW r.d w.w64 (c.active r.g) old bad).done 8
        if w.rmt && atDie w.scope then c.promoting ps go else go

/-! ### SPILL and FILL (R182) -/

/-- SPILL_BOUNDS (R130, R158). -/
def Ctx.spillTrap (c : Ctx) (k : BitVec 6) : TrapInfo :=
  { cause := .spillBounds, info := k.setWidth 32, addr := some (BitVec.ofNat 64 (c.spillOff k)) }

/-- SPILL (R182): the whole row, each lane with its poison. -/
def execSpill (d : Name) (k : BitVec 6) (s : State) : Host.Outcome State Fault Refusal :=
  s.run (.spill d k) fun c =>
    match c.row? d with
    | none => c.unmapped d
    | some row =>
      if c.b.kern.q ≤ k.toNat then .trap c (c.spillTrap k)
      else c.inOrder .rlx .core <|
        (c.setScr c.b.key ((c.scr c.b.key).putMarked (c.spillOff k) ((List.range 32).flatMap fun i =>
          (leBytes 4 (row.lanes[i]?.getD 0).toNat).map fun b => (b, row.poison.getLsbD i)))).done 4

/-- FILL (R182): a fresh row in every lane, whatever the mask; lanes that never launched are zero in it, as in every row the
warp writes (R52). -/
def execFill (d : Name) (k : BitVec 6) (s : State) : Host.Outcome State Fault Refusal :=
  s.run (.fill d k) fun c =>
    if c.b.kern.q ≤ k.toNat then .trap c (c.spillTrap k)
    else if !c.present ⟨c.b.key, c.spillOff k⟩ 128 then .stay c (.absent (linesAt ⟨c.b.key, c.spillOff k⟩ 128))
    else c.inOrder .rlx .core <|
      let at_ (i : Nat) : ScrLoc := ⟨c.b.key, c.spillOff k + 4 * i⟩
      let lanes := Vector.ofFn fun i : Fin 32 =>
        if c.w.launched.getLsbD i then BitVec.ofNat 32 (leNat (c.get (at_ i.val) 4)) else 0
      let row : Row := ⟨lanes, c.w.launched &&& maskOf fun i => c.getBad (at_ i) 4, 1⟩
      let id := c.b.freshRow
      ({ c with b := (c.b.dropRef (c.w.vmap d)).putRow id row, w := c.w.setVmap d (some id) } : Ctx).done 4

/-! ### SLD, SST and SLDK (R125) -/

/-- SLD (R125). -/
def execSld (d a : Name) (imm : BitVec 13) (s : State) : Host.Outcome State Fault Refusal :=
  s.run (.sld d a imm) fun c =>
    if c.w.sbad a then .mcheck c .poisonConsumed else
    match c.engLoc (c.uniAddr a imm) 4 4 with
    | .error t => .trap c t
    | .ok l =>
      if !c.present l 4 then .stay c (.absent (linesAt l 4))
      else c.inOrder .rlx .core <| (c.sput d (BitVec.ofNat 32 (leNat (c.get l 4))) (c.getBad l 4)).done 4

/-- SST (R125): a poisoned base or datum is consumed (R102). -/
def execSst (d a : Name) (imm : BitVec 13) (s : State) : Host.Outcome State Fault Refusal :=
  s.run (.sst d a imm) fun c =>
    if c.w.sbad a || c.w.sbad d then .mcheck c .poisonConsumed else
    match c.engLoc (c.uniAddr a imm) 4 4 with
    | .error t => .trap c t
    | .ok l => c.inOrder .rlx .core <| (c.put l (leBytes 4 (c.w.sget d).toNat)).done 4

/-- A parameter word: of the submitted record in a kernel, of the record in scratch in a prologue (R125), whose count is the
byte at 0x062 (R290). The spec does not say whether a poisoned granule of the record marks it: DESIGN CHOICE, the word is
clean (log 27). -/
def Ctx.param (c : Ctx) (k : Nat) : Word :=
  match c.b.kind with
  | .kernel => match (c.s.launch? c.b.key.lid).bind (·.rcd) with
    | some r => if k < r.nparams then r.params.getD k 0 else 0
    | none => 0
  | .prologue =>
    if k < leNat (c.b.scr.get 0x062 1) then BitVec.ofNat 32 (leNat (c.b.scr.get (0x080 + 4 * k) 4)) else 0

/-- SLDK (R125). -/
def execSldk (d : Name) (k : BitVec 4) (s : State) : Host.Outcome State Fault Refusal :=
  s.run (.sldk d k) fun c => (c.sput d (c.param k.toNat)).done 4

end Sys2Proof.Machine
end

