-- ==== Sys2Proof/Machine/Memory.lean ====
section
/-! DEFINITION. The base die's path for a request (R163): routing (R153), translation (R166 to R169), the indirection table and
access counters (R170 to R173), granules with their code (R150, R165), and usage meters (R151, R176, R358). -/
namespace Sys2Proof.Machine

/-! ### Addresses (R152, R370) -/

/-- RANK of a memory address. -/
def rankOf (a : DWord) : Nat := (a.extractLsb' 55 9).toNat
/-- STACK of a memory address. -/
def stackOf (a : DWord) : Nat := (a.extractLsb' 52 3).toNat
/-- OFFSET of a memory address. -/
def offsetOf (a : DWord) : Nat := (a.extractLsb' 0 52).toNat
/-- The last whole frame of a stack (R370). -/
def lastFrame : Nat := 732420
/-- The bytes of a stack's DRAM (R370). -/
def dramSize : Nat := 48000000000
/-- A byte of a stack's DRAM as an address of `State.dram`. -/
def dramKey (stack phys : Nat) : Nat := 2 ^ 36 * stack + phys

/-- Whether a rank is another package of the load-store domain, reached through fabric ports (R153). -/
def State.inDomain (s : State) (rank : Nat) : Bool :=
  s.hasTideway && (match s.shape with | some (x, y, z) => decide (rank < x * y * z) | none => false)

/-! ### Translation (R166 to R168) -/

/-- A 64-bit table entry in DRAM. -/
def State.tableEntry (s : State) (stack phys : Nat) : BitVec 64 :=
  BitVec.ofNat 64 (leNat (s.dram.readN (dramKey stack phys) 8))

/-- V of an entry. -/
def pteV (e : BitVec 64) : Bool := e.getLsbD 0
/-- LEAF of an entry. -/
def pteLeaf (e : BitVec 64) : Bool := e.getLsbD 1
/-- W of a leaf. -/
def pteW (e : BitVec 64) : Bool := e.getLsbD 2
/-- DZ of a leaf. -/
def pteDz (e : BitVec 64) : Bool := e.getLsbD 4
/-- MET of a leaf. -/
def pteMet (e : BitVec 64) : Bool := e.getLsbD 5
/-- METER of a leaf. -/
def pteMeter (e : BitVec 64) : Nat := (e.extractLsb' 16 12).toNat
/-- FRAME of a leaf. -/
def pteFrame (e : BitVec 64) : Nat := (e.extractLsb' 28 20).toNat
/-- NEXT of a non-leaf, as a physical address. -/
def pteNext (e : BitVec 64) : Nat := (e.extractLsb' 8 40).toNat * 256

/-- A non-leaf entry's fields are legal, for a table of `size` bytes. -/
def nextOk (e : BitVec 64) (size : Nat) : Bool :=
  !pteLeaf e && e.extractLsb' 2 6 == 0#6 && e.extractLsb' 48 16 == 0#16
    && decide (pteNext e % size = 0 ∧ pteNext e + size ≤ dramSize)

/-- A leaf's fields are legal, for a page of `pages` frames. -/
def leafOk (e : BitVec 64) (pages : Nat) : Bool :=
  pteLeaf e && e.extractLsb' 6 10 == 0#10 && e.extractLsb' 48 16 == 0#16
    && decide (pteFrame e % pages = 0 ∧ pteFrame e + pages - 1 ≤ lastFrame)

/-- How a walk ends (R168). -/
inductive Walk where
  | ok (leaf : BitVec 64) (pages : Nat)
  | fault (kind : Nat)
  | unmapped (dz : Bool)
deriving DecidableEq, Repr

/-- A leaf found: legal, or fault kind 1. -/
def leafWalk (e : BitVec 64) (pages : Nat) : Walk := if leafOk e pages then .ok e pages else .fault 1

/-- Index bits, and the size of the next table, of the levels from 3 down (R166). R168 speaks of DZ = 1 at a leaf, and does not
say whether an entry of level 0 without LEAF is one: DESIGN CHOICE, only an entry with LEAF = 1 is demand-zero (log 25). -/
def walkFrom (s : State) (stack off : Nat) : List (Nat × Nat × Nat) → Nat → Walk
  | [], _ => .fault 1
  | (shift, entries, below) :: t, table =>
    let e := s.tableEntry stack (table + 8 * (off / 2 ^ shift % entries))
    if shift = 16 then
      if pteV e then leafWalk e 1 else .unmapped (pteDz e && pteLeaf e)
    else if !pteV e then .unmapped (shift == 21 && pteLeaf e && pteDz e)
    else if shift = 21 ∧ pteLeaf e then leafWalk e 32
    else if nextOk e below then walkFrom s stack off t (pteNext e)
    else .fault 1

/-- The levels 3, 2, 1 and 0 (R166). -/
def walkLevels : List (Nat × Nat × Nat) := [(39, 8192, 4096), (30, 512, 4096), (21, 512, 256), (16, 32, 0)]

/-- The entries that a walk reads from a table on, as bytes of DRAM. -/
def walkReads (s : State) (stack off : Nat) : List (Nat × Nat × Nat) → Nat → List Nat
  | [], _ => []
  | (shift, entries, below) :: t, table =>
    let at_ := table + 8 * (off / 2 ^ shift % entries)
    let e := s.tableEntry stack at_
    dramKey stack at_ :: (if shift ≠ 16 ∧ pteV e ∧ nextOk e below then walkReads s stack off t (pteNext e) else [])

/-- The walk from the root entry of an identifier (R166, R168); an identifier that is not enabled faults with kind 4. -/
def State.walk (s : State) (stack asid off : Nat) : Walk :=
  match lookupN (s.die stack).root asid with
  | none => .fault 4
  | some r =>
    if !pteV r then .fault 4
    else if nextOk r 65536 then walkFrom s stack off walkLevels (pteNext r)
    else .fault 1

/-- The translation cache's entry for a page, if it holds one (R169). -/
def BaseDie.tlb? (d : BaseDie) (asid page : Nat) : Option TlbEnt :=
  d.tlb.find? fun e => e.asid == asid && decide (e.page ≤ page ∧ page < e.page + e.pages)

/-- The entries of the walk of an identifier's offset. -/
def State.reads (s : State) (stack asid off : Nat) : List Nat :=
  match lookupN (s.die stack).root asid with
  | none => []
  | some r => if pteV r && nextOk r 65536 then walkReads s stack off walkLevels (pteNext r) else []

/-! ### Frames (R170 to R173) -/

/-- A frame at its reset value (R170, R172). -/
def Frame.reset : Frame := ⟨0, 0, 0, false, Vector.replicate 8 0, 0⟩
/-- A frame's entry. -/
def BaseDie.frame (d : BaseDie) (f : Nat) : Frame := (lookupN d.frames f).getD Frame.reset
/-- A frame's entry written. -/
def BaseDie.setFrame (d : BaseDie) (f : Nat) (x : Frame) : BaseDie :=
  { d with frames := if x = Frame.reset then eraseN d.frames f else insertN d.frames f x }

/-- Where a frame's bytes are served from: its home, or in MOVED and COPY_BACK its peer (R171). -/
def Frame.source (x : Frame) (home f : Nat) : Nat × Nat :=
  if x.state = 2 ∨ x.state = 3 then (x.loc, x.pframe) else (home, f)
/-- The destination of a copy in progress (R171). -/
def Frame.dest? (x : Frame) (home f : Nat) : Option (Nat × Nat) :=
  if x.state = 1 then some (x.loc, x.pframe) else if x.state = 3 then some (home, f) else none

/-- A notification posted, or dropped when the queue is full (R173, R175). -/
def BaseDie.post (d : BaseDie) (f q ctr time : Nat) (big : Bool) : BaseDie :=
  if d.mqTail = d.mqHead ^^^ 0x40#7 then { d with mqOvf := min (d.mqOvf + 1) 0xFFFFFFFF }
  else
    let word : Word := BitVec.ofNat 32 (f + 2 ^ 20 * q + if big then 2 ^ 23 else 0)
    let d := { d with mq := insertN d.mq (d.mqTail.toNat % 64) ⟨word, ctr, time⟩, mqTail := d.mqTail + 1 }
    d.setFrame f { d.frame f with queued := true }

/-- A counted request of a core on stack `q`: one for each 64-byte segment it touches (R172, R173). -/
def BaseDie.count (d : BaseDie) (home f q segs time : Nat) (big : Bool) : BaseDie :=
  let x := d.frame f
  let old := x.ctr[q]?.getD 0
  let new := min (old + segs) 0xFFFF
  let d := d.setFrame f { x with ctr := x.ctr.setIfInBounds q new }
  if d.mqThresh ≠ 0 ∧ d.mqThresh ≤ new ∧ q ≠ (x.source home f).1 ∧ !x.queued then
    d.post f q new time big
  else d

/-! ### Granules (R150, R165) -/

/-- Bytes of DRAM with their poison. -/
def State.dramRead (s : State) (key n : Nat) : List (Byte × Bool) :=
  (List.range n).map fun i => (s.dram.read (key + i), s.poison.contains ((key + i) / 32))

/-- The granules a range touches. -/
def granulesOf (key n : Nat) : List Nat := Scratch.granules key n

/-- Single symbol errors in some granules corrected and counted (R165). -/
def State.correct (s : State) (gs : List Nat) : State :=
  gs.foldl (fun (s : State) g =>
    if (lookupN s.symErr g).isSome then
      let st := g * 32 / 2 ^ 36
      let d := s.die st
      { (s.setDie st { d with corrected := d.corrected + 1 }) with symErr := eraseN s.symErr g }
    else s) s

/-- The translation of an offset: from the cache, else by a walk that fills it (R169). The walk's reads are read as every
read is (R165); where an entry is uncorrectable the request faults with kind 1 (log 51). -/
def State.translate (s : State) (stack asid off : Nat) : State × Walk :=
  let page := off / 65536
  match (s.die stack).tlb? asid page with
  | some e => (s, .ok e.leaf e.pages)
  | none =>
    let gs := (s.reads stack asid off).map (· / 32)
    let w := s.walk stack asid off
    let s := s.correct gs
    if gs.any fun g => s.poison.contains g then (s, .fault 1) else
    match w with
    | .ok leaf pages =>
      let d := s.die stack
      (s.setDie stack { d with tlb := (⟨asid, page / pages * pages, pages, leaf⟩ :: d.tlb).take 8192 }, .ok leaf pages)
    | w => (s, w)

/-- One granule of a write at a place (R150): whether each byte of the write is enabled. -/
def State.writeGranule (s : State) (key : Nat) (data : List Byte) (en : Nat → Bool) (g : Nat) : State × Bool :=
  let here := (List.range data.length).filter fun i => (key + i) / 32 == g && en i
  if here.isEmpty then (s, false)
  else
    let put (s : State) : State :=
      { s with dram := here.foldl (fun m i => m.write (key + i) (data.getD i 0)) s.dram }
    if here.length = 32 then
      ({ (put s) with poison := removeN s.poison g, symErr := eraseN s.symErr g }, false)
    else if s.poison.contains g then (s, true)
    else (put (s.correct [g]), false)

/-- A write of enabled bytes at a place, and whether a granule of it was uncorrectable (R150). -/
def State.dramWrite (s : State) (key : Nat) (data : List Byte) (en : Nat → Bool) : State × Bool :=
  (granulesOf key data.length).foldl (fun (x : State × Bool) g =>
    let (s, bad) := x.1.writeGranule key data en g
    (s, x.2 || bad)) (s, false)

/-- Granules marked poisoned in place. -/
def State.taintDram (s : State) (gs : List Nat) : State := { s with poison := gs.foldl addN s.poison }

/-! ### A request at its base die (R163) -/

/-- What a write leaves in the record of writing cores (R209): a write of device scope or wider clears the record of each
granule it replaces, a release of narrower scope enters its core, and any other narrow access leaves the record. -/
inductive Record where
  | wide
  | core (k : Nat)
  | keep
deriving DecidableEq, Repr

/-- Who asks, and under what (R153, R166, R172): the partition whose stacks it may name, its identifier, and the stack whose
counter it raises (none for link dies and ports); what it leaves in the record of R209; and whether its reply carries no
bytes, as that of a VALID (R273). -/
structure Asker where
  part   : Nat
  asid   : Option Nat
  stack  : Option Nat
  record : Record := .wide
  silent : Bool := false
deriving DecidableEq, Repr

/-- A request that no core's counter counts and that is no narrow write. -/
def asker (part : Nat) (asid : Option Nat) : Asker := { part, asid, stack := none }

/-- What a base die does with a request. -/
inductive Serve where
  /-- it performs, and its reply leaves: the reply's bytes with their poison, and a fault kind where there is one -/
  | reply (s : State) (bytes : List (Byte × Bool)) (fault : Option Nat)
  /-- it performs, and its reply is held for a meter's allowance (R358) -/
  | held (s : State) (bytes : List (Byte × Bool)) (fault : Option Nat) (bound : Bound)
  /-- it waits, for firmware to map a page or to switch a frame -/
  | hold (s : State)

/-- A stack is in a partition of the device. -/
def State.stackIn (s : State) (part stack : Nat) : Bool :=
  decide (stack < s.stackCount) && (match s.part? part with | some p => p.hasStack stack | none => false)

/-- Zeros, the reply of fault kinds 1 and 4. -/
def zeros (n : Nat) : List (Byte × Bool) := List.replicate n (0, false)

/-- A page firmware has been told of. -/
def State.pageFault? (s : State) (stack asid page : Nat) : Option PageFault :=
  s.faults.find? fun f => f.stack == stack && f.asid == asid && f.page == page

/-- Firmware is told of a page that is not mapped (R168). -/
def State.report (s : State) (stack asid page : Nat) : State :=
  match s.pageFault? stack asid page with
  | some _ => s
  | none => { s with faults := s.faults ++ [⟨stack, asid, page, false⟩] }

/-- The bytes of a reply counted at a meter, where its allowance permits it (R151, R176, R358). -/
def BaseDie.chargeMeter (d : BaseDie) (m n : Nat) : Option BaseDie :=
  let p := (lookupN d.partials m).getD 0 + n
  if (lookupN d.allow m).getD 0 < p then none else some { d with partials := insertN d.partials m p }

/-- The meter a leaf binds its page to. -/
def leafMeter (leaf : BitVec 64) : Option Nat := if pteMet leaf then some (pteMeter leaf) else none

/-- The meter a reply counts at when it leaves (R177): that of its page now. Where the page is mapped no more, the spec does not
say which: DESIGN CHOICE, the meter it had when the request performed (log 28). -/
def State.meterNow (s : State) (b : Bound) : Option Nat :=
  match (s.translate (stackOf b.addr) b.asid (offsetOf b.addr)).2 with
  | .ok leaf _ => leafMeter leaf
  | _ => b.meter

/-- A reply of `n` bytes leaves its base die: they are counted at its page's meter, where the allowance permits (R151, R358). -/
def State.replyLeaves (s : State) (n : Nat) (b : Bound) : Option State :=
  match s.meterNow b with
  | none => some s
  | some m => if n = 0 then some s else ((s.die (stackOf b.addr)).chargeMeter m n).map (s.setDie (stackOf b.addr))

/-- The bytes a kind of request replies with; the read of a reduction's destination returns nothing (R176). -/
def replySize (k : ReqKind) (n : Nat) : Nat :=
  match k with
  | .write _ _ | .reduce .. => 0
  | .read => n
  | .atom _ w64 _ _ => if w64 then 8 else 4

/-! ### Reductions (R190) -/

/-- The format of a floating reduction type. -/
def redFmt (ty : Nat) : Fmt := if ty = 0 then Fmt.bf16 else Fmt.f32

/-- The bytes of an element of a reduction type: BF16, FP32, INT32. -/
def redSize (ty : Nat) : Nat := if ty = 0 then 2 else 4

/-- A reduction of a destination element by a source element (R190): add, min, max; the destination is the first operand. -/
def redNew (op ty : Nat) (dst src : Nat) : Nat :=
  let f := redFmt ty
  if ty = 2 then
    let x := BitVec.ofNat 64 dst
    let y := BitVec.ofNat 64 src
    (match op with
      | 1 => exact2 .s32 false (· + ·) x y
      | 2 => exact2 .s32 false min x y
      | _ => exact2 .s32 false max x y).toNat
  else match op with
    | 1 => (f.add .rn false false dst src).bits
    | 2 => (f.minmax false dst src).bits
    | _ => (f.minmax true dst src).bits

/-- What the shadow unit has of a floating reduction. -/
def redShadow (op ty : Nat) (x y : Nat) : Shadow :=
  let f := redFmt ty
  { fmt := f, h := f.top7 .rn (redNew op ty (f.cut8 x) (f.cut8 y)),
    addends := if op = 1 then [(f.unpack x).expo?, (f.unpack y).expo?].filterMap id else [] }

/-- The reduced element, none where the shadow check of a floating reduction diverges (R190). -/
def State.reduceOne (s : State) (op ty : Nat) (dst src : Nat) : State × Option Nat :=
  if ty ≠ 2 then
    let (s, r) := s.shadowOne (redShadow op ty dst src) (BitVec.ofNat 64 (redNew op ty dst src))
    (s, r.map (·.toNat))
  else (s, some (redNew op ty dst src))

/-- Elements of a reduction type in bytes. -/
def redElems (ty : Nat) : Nat → List Byte → List Nat
  | 0, _ => []
  | n + 1, bs => leNat (bs.take (redSize ty)) :: redElems ty n (bs.drop (redSize ty))

/-- A run of elements reduced in place, each indivisibly (R190, R340): an element whose check diverges, or whose granule
is poisoned, stays as it was with fault kind 2. -/
def State.dramReduce (op ty : Nat) : List Nat → Nat → State → State × Option Nat
  | [], _, s => (s, none)
  | x :: t, key, s =>
    let n := redSize ty
    let old := s.dramRead key n
    let (s, f) : State × Option Nat :=
      if old.any (·.2) then (s, some 2)
      else match (s.correct (granulesOf key n)).reduceOne op ty (leNat (old.map (·.1))) x with
        | (s, none) => (s, some 2)
        | (s, some v) => ((s.dramWrite key (leBytes n v) fun _ => true).1, none)
    let (s, f') := dramReduce op ty t (key + n) s
    (s, f.or f')

/-- The access at the frame's location (R163, step 4), with the mirror of R171, and its reply. -/
def State.perform (s : State) (k : ReqKind) (n key : Nat) (mirror : Option Nat) : State × List (Byte × Bool) × Option Nat :=
  match k with
  | .read =>
    let bs := s.dramRead key n
    (s.correct (granulesOf key n), bs, if bs.any (·.2) then some 2 else none)
  | .write data mask =>
    let en (i : Nat) : Bool := mask.getLsbD i
    let (s, bad) := s.dramWrite key data en
    let s := match mirror with | some m => (s.dramWrite m data en).1 | none => s
    (s, [], if bad then some 2 else none)
  | .reduce op ty data =>
    let (s, f) := s.dramReduce op ty (redElems ty (data.length / redSize ty) data) key
    let s := match mirror with
      | some m => { s with dram := s.dram.writeN m (s.dram.readN key data.length) }
      | none => s
    (s, [], f)
  | .atom op w64 x c =>
    let n := if w64 then 8 else 4
    let bs := s.dramRead key n
    let old := BitVec.ofNat 64 (leNat (bs.map (·.1)))
    if bs.any (·.2) then (s, bs, some 2)
    else
      let (s, new) := if op == .fadd then (s.correct (granulesOf key n)).shadowOne (atomShadow w64 old x) (atomFadd w64 old x)
        else (s.correct (granulesOf key n), some (atomNew op w64 old x c))
      match new with
      | none => (s, bs.map fun b => (b.1, true), some 2)
      | some v =>
        let data := leBytes n v.toNat
        let s := (s.dramWrite key data fun _ => true).1
        let s := match mirror with | some m => (s.dramWrite m data fun _ => true).1 | none => s
        (s, bs, none)

/-- Whether a kind of request needs W = 1 (R168). -/
def ReqKind.writes : ReqKind → Bool
  | .read => false
  | _ => true

/-- The bytes of a reply, whoever asks. -/
def Asker.reply (a : Asker) (k : ReqKind) (n : Nat) : Nat := if a.silent then 0 else replySize k n

/-- Where a request reaches DRAM: its first byte there, the mirror of it that a copy in progress has passed (R171), its
first byte at home, and the leaf that maps it. -/
structure Spot where
  stack  : Nat
  key    : Nat
  mirror : Option Nat
  home   : Nat
  leaf   : BitVec 64

/-- Where a request of one page goes (R153, R163, steps 1 to 3): it faults, it waits, or it reaches bytes of DRAM. -/
inductive Locate where
  | fault (s : State) (kind : Nat)
  | hold (s : State)
  | at (s : State) (p : Spot)

/-- A frame whose copy has ended and whose state is still to switch: the base die holds new requests to it (R171, step 3). A
request that the hold buffer's 64 entries do not take is re-issued after the switch and seen by no warp, so it waits
alike (log 53). -/
def Frame.switching (x : Frame) : Bool := (x.state == 1 || x.state == 3) && decide (2048 ≤ x.copied)

/-- A request located on the package's own rank, and counted in its frame. -/
def State.locate (s : State) (a : Asker) (addr : DWord) (n : Nat) (writes : Bool) : Locate :=
  let stack := stackOf addr
  let off := offsetOf addr
  match a.asid with
  | none => .fault s 4
  | some asid =>
    if rankOf addr ≠ s.rank ∨ !s.stackIn a.part stack then .fault s 4 else
    let (s, w) := s.translate stack asid off
    match w with
    | .fault kind => .fault s kind
    | .unmapped _ =>
      match s.pageFault? stack asid (off / 65536) with
      | some f => if f.refused then .fault s 1 else .hold s
      | none => .hold (s.report stack asid (off / 65536))
    | .ok leaf pages =>
      if writes && !pteW leaf then .fault s 4
      else if pteMet leaf && s.retiring then .fault s 4
      else
        let f := pteFrame leaf + off / 65536 % pages
        let d := s.die stack
        let x := d.frame f
        if x.switching then .hold s else
        let d := match a.stack with
          | some q => d.count stack f q ((off % 65536 + n - 1) / 64 - off % 65536 / 64 + 1) s.now (decide (pages = 32))
          | none => d
        let s := s.setDie stack d
        let (st, fr) := x.source stack f
        let mirror := (x.dest? stack f).bind fun (ds, df) =>
          if off % 65536 / 32 < x.copied then some (dramKey ds (65536 * df + off % 65536)) else none
        .at s ⟨stack, dramKey st (65536 * fr + off % 65536), mirror, dramKey stack (65536 * f + off % 65536), leaf⟩

/-- The granules that an access writes whole. -/
def wholeGranules (k : ReqKind) (home n : Nat) : List Nat :=
  match k with
  | .write _ mask => (granulesOf home n).filter fun g => (List.range 32).all fun i =>
      decide (home ≤ 32 * g + i ∧ 32 * g + i < home + n) && mask.getLsbD (32 * g + i - home)
  | _ => []

/-- The granules that a write touches: those of which its mask enables a byte (R150). -/
def touched (k : ReqKind) (home n : Nat) : List Nat :=
  match k with
  | .write _ mask => (granulesOf home n).filter fun g => (List.range n).any fun i => (home + i) / 32 == g && mask.getLsbD i
  | _ => granulesOf home n

/-- The record of writing cores after an access (R209). -/
def State.recordWrite (s : State) (a : Asker) (k : ReqKind) (home n : Nat) : State :=
  match a.record with
  | .wide => { s with writers := (wholeGranules k home n).foldl eraseN s.writers }
  | .core c => if k.writes then { s with writers := (touched k home n).foldl (fun l g => insertN l g c) s.writers } else s
  | .keep => s

/-- The access at a spot, with the record it leaves. -/
def State.access (s : State) (a : Asker) (k : ReqKind) (n : Nat) (p : Spot) : State × List (Byte × Bool) × Option Nat :=
  (s.recordWrite a k p.home n).perform k n p.key p.mirror

/-- What another package of the domain does with a request, no part of this machine (R153): the kind of fault, the bytes, and the
granules that are uncorrectable, are free values (log 29). -/
def State.serveRemote (s : State) (a : Asker) (addr : DWord) (k : ReqKind) (n : Nat) : Serve :=
  let m := a.reply k n
  let kind := Config.remoteFault s.fresh
  .reply { s with fresh := s.fresh + m + 1 }
    (match kind with
      | some 1 | some 4 => zeros m
      | _ => (List.range m).map fun i => (Config.freeByte (s.fresh + i),
          kind == some 2 && Config.remoteBad (s.fresh + (addr.toNat % 32 + i) / 32))) kind

/-- A request for bytes of one page, from routing to reply (R153, R163). Where the meter's allowance does not permit its
reply, the reply is held (R358). -/
def State.serve (s : State) (a : Asker) (addr : DWord) (n : Nat) (k : ReqKind) : Serve :=
  if rankOf addr ≠ s.rank ∧ s.inDomain (rankOf addr) ∧ a.asid.isSome then s.serveRemote a addr k n else
  match s.locate a addr n k.writes with
  | .fault s kind => .reply s (zeros (a.reply k n)) (some kind)
  | .hold s => .hold s
  | .at s p =>
    let (s, bs, fault) := s.access a k n p
    let b : Bound := ⟨a.asid.getD 0, addr, leafMeter p.leaf⟩
    match s.replyLeaves (a.reply k n) b with
    | some s => .reply s bs fault
    | none => .held s bs fault b

/-! ### Transfers of several requests (R163) -/

/-- The requests of a transfer, each an offset and a size: split at every 64 KiB boundary, and into 64 bytes at most. -/
def requestsOf (addr : DWord) : Nat → Nat → Nat → List (Nat × Nat)
  | 0, _, _ => []
  | fuel + 1, at_, n =>
    if n = 0 then [] else
    let m := min n (min 64 (65536 - (offsetOf addr + at_) % 65536))
    (at_, m) :: requestsOf addr fuel (at_ + m) (n - m)

/-- One part of a transfer, an offset and a size, unless it has been answered already: its request, or a held reply of it that
may leave now. -/
def State.moveOne (one : State → Nat → Nat → Serve) (x : State × Move) (r : Nat × Nat) : State × Move :=
  let (s, m) := x
  match lookupN m.got r.1 with
  | some ⟨bs, f, some b⟩ => match s.replyLeaves bs.length b with
    | some s => (s, { m with got := insertN m.got r.1 ⟨bs, f, none⟩ })
    | none => (s, m)
  | some ⟨_, _, none⟩ => (s, m)
  | none => match one s r.1 r.2 with
    | .hold s => (s, m)
    | .held s bs f b => (s, { m with got := insertN m.got r.1 ⟨bs, f, some b⟩ })
    | .reply s bs f => (s, { m with got := insertN m.got r.1 ⟨bs, f, none⟩ })

/-- Every part of a transfer has been answered, and no reply is held. -/
def Move.whole (m : Move) (parts : Nat) : Bool := m.got.length == parts && m.got.all fun g => g.2.held.isNone

/-- A transfer in parts, each performed or faulted on its own (R163); `none` while one of them waits, and the others' answers
are kept for it. `who` tells transfers apart. The fault is the first part's that has one, with its address. -/
def State.transferParts (s : State) (who : List Nat) (addr : DWord) (n : Nat) (data : Option (List Byte)) (rs : List (Nat × Nat))
    (one : State → Nat → Nat → Serve) : State × Option (List (Byte × Bool) × Option (Nat × DWord)) :=
  let same (m : Move) : Bool := m.who == who && m.addr == addr && m.size == n && m.data == data
  let m0 : Move := (s.moves.find? same).getD ⟨who, addr, n, data, []⟩
  let s := { s with moves := s.moves.filter fun m => !same m }
  let (s, m) := rs.foldl (State.moveOne one) (s, m0)
  if !m.whole rs.length then (if m.got.isEmpty then s else { s with moves := s.moves ++ [m] }, none)
  else (s, some (m.got.flatMap (fun g => g.2.bytes), m.got.findSome? fun g => g.2.fault.map fun k => (k, addr + BitVec.ofNat 64 g.1)))

/-- What one request of a transfer does. -/
def moveKind (data : Option (List Byte)) (off n : Nat) : ReqKind :=
  match data with
  | some d => .write ((d.drop off).take n) (BitVec.allOnes 64)
  | none => .read

/-- A transfer of any length: a read, or a write of some bytes, each of its requests translated, performed or faulted on its
own (R163). -/
def State.transfer (s : State) (who : List Nat) (a : Asker) (addr : DWord) (n : Nat) (write : Option (List Byte)) :
    State × Option (List (Byte × Bool) × Option (Nat × DWord)) :=
  s.transferParts who addr n write (requestsOf addr (n + 1) 0 n) fun s off m =>
    s.serve a (addr + BitVec.ofNat 64 off) m (moveKind write off m)

/-- A read that has been answered, kept while what follows it waits. -/
def State.keepRead (s : State) (who : List Nat) (addr : DWord) (bs : List Byte) : State :=
  let n := bs.length
  { s with moves := s.moves ++ [⟨who, addr, n, none, (requestsOf addr (n + 1) 0 n).map fun r =>
      (r.1, ⟨((bs.drop r.1).take r.2).map fun b => (b, false), none, none⟩)⟩] }

/-- Transfers given up. -/
def State.dropMoves (s : State) (p : List Nat → Bool) : State := { s with moves := s.moves.filter fun m => !p m.who }

end Sys2Proof.Machine
end

