-- ==== Sys2Proof/Machine/Packets.lean ====
section
/-! DEFINITION. Tagged packets: PKRD, PKWR, PKATOM and PKWAIT (R147 to R150, R183 to R185), and the events of their requests and
replies. -/
namespace Sys2Proof.Machine

/-- Bytes of a packet size (R41). -/
def PkSize.bytes : PkSize → Nat
  | .b64 => 8 | .b128 => 16 | .b256 => 32 | .b512 => 64

/-- The memory address of an s-name pair. -/
def Ctx.pairAddr (c : Ctx) (s : Name) : DWord := dword (c.w.sget (Name.after s 1)) (c.w.sget s)

/-- A pair that is poisoned as an address. -/
def Ctx.pairBad (c : Ctx) (s : Name) : Bool := c.w.sbad s || c.w.sbad (Name.after s 1)

/-- What a packet instruction names, its operands checked (R184). -/
structure PkPlace where
  addr : DWord
  loc  : ScrLoc
  sig  : Option ScrLoc

/-- The checks of R184 in order: poison, memory alignment to `width`, scratchpad alignment to `n`, ranges. -/
def Ctx.pkCheck (c : Ctx) (f s : Name) (sig : Bool) (width n : Nat) : Except Eff PkPlace :=
  let g := Name.after f 1
  if c.w.sbad f || c.pairBad s || (sig && c.w.sbad g) then .error (.mcheck c .poisonConsumed) else
  let addr := c.pairAddr s
  let fa := c.w.sget f
  let ga := c.w.sget g
  let mis (a : DWord) : Except Eff PkPlace := .error (.trap c { cause := .misaligned, info := 0, addr := some a })
  let oob (a : Word) : Except Eff PkPlace := .error (.trap c { cause := .scratchBounds, info := 0, addr := some (a.setWidth 64) })
  if addr.toNat % width ≠ 0 then mis addr
  else if fa.toNat % n ≠ 0 then mis (fa.setWidth 64)
  else if sig ∧ ga.toNat % 16 ≠ 0 then mis (ga.setWidth 64)
  else match c.resolve fa n with
    | none => oob fa
    | some loc =>
      if sig then match c.resolve ga 16 with
        | none => oob ga
        | some l => .ok ⟨addr, loc, some l⟩
      else .ok ⟨addr, loc, none⟩

/-- A packet waits at hand-over: its tag is busy, PKT stands at its limit, or it is strong and an older strong packet holds
it back (R147, R198, R205). `read` says that it is a PKRD. DESIGN CHOICE: two offsets mapped to one frame do not count as common
bytes here (log 19). -/
def Ctx.pkBlocked (c : Ctx) (tag : BitVec 3) (sem : Sem) (scope : Scope) (read : Bool) (addr : DWord) (n : Nat) : Bool :=
  c.w.tagBusy tag || decide (64 ≤ c.w.count .pkt)
    || c.strongPending sem scope read fun r => !r.meets c.b.asid addr n

/-- The stack a core's requests come from (R172); a front-end scalar core counts at none. -/
def Ctx.ownStack (c : Ctx) : Nat := match c.b.kind with | .kernel => stackOfCluster c.b.cluster | .prologue => 8

/-- A packet handed over: it is busy in its tag and on its way, after the warp's older acquires (R147, R184, R204). -/
def Ctx.sendReq (c : Ctx) (tag : BitVec 3) (p : PkPlace) (n : Nat) (kind : ReqKind) (sem : Sem) (scope : Scope)
    (rmt : Bool) (dest : Option ScrLoc) : Ctx :=
  let wait := c.acquires
  let (c, seq) := c.handOver .pkt tag (match p.sig with | some l => [l] | none => [])
  let r : Req := { seq, wid := c.wid, chan := c.coreIx, reqStack := c.ownStack, asid := c.b.asid, part := c.b.part,
                   addr := p.addr, size := n, kind, sem, scope, rmt, waitFor := wait, promote := [], dest, sig := p.sig,
                   st := .sent, dead := false }
  { c with s := { c.s with reqs := c.s.reqs ++ [r] } }

/-- PKRD (R184). -/
def Ctx.pkrdOp (c : Ctx) (r : PkOp) : Eff :=
  let n := PkSize.bytes r.size
  match c.pkCheck r.f r.s r.sig n n with
  | .error e => e
  | .ok p =>
    let ls := linesAt p.loc n
    if c.pkBlocked r.tag r.sem r.scope true p.addr n || !c.canPend ls then .stay c .handOver
    else ((c.pendAll ls).sendReq r.tag p n .read r.sem r.scope r.x (some p.loc)).done 4

/-- The byte mask of PKWR.m (R150). The spec does not list a mask among what consumes poison: DESIGN CHOICE, a poisoned mask
name gives its bits and consumes nothing (log 27). -/
def Ctx.pkMask (c : Ctx) (r : PkOp) : BitVec 64 :=
  if r.x then c.pairAddr (Name.after r.s 2) else BitVec.allOnes 64

/-- PKWR (R184): a poisoned source is consumed and nothing is sent. -/
def Ctx.pkwrOp (c : Ctx) (r : PkOp) : Eff :=
  let n := PkSize.bytes r.size
  match c.pkCheck r.f r.s r.sig n n with
  | .error e => e
  | .ok p =>
    if c.pkBlocked r.tag r.sem r.scope false p.addr n || !c.present p.loc n then .stay c .handOver
    else if c.getBad p.loc n then .mcheck c .poisonConsumed
    else (c.sendReq r.tag p n (.write (c.get p.loc n) (c.pkMask r)) r.sem r.scope false none).done 4

/-- PKATOM (R184): the operand block holds x and c; the reply overwrites x. -/
def Ctx.pkatomOp (c : Ctx) (r : PkAtomOp) : Eff :=
  let n := if r.w64 then 8 else 4
  match c.pkCheck r.f r.s false n (2 * n) with
  | .error e => e
  | .ok p =>
    let ls := linesAt p.loc n
    if c.pkBlocked r.tag r.sem r.scope false p.addr n || !c.present p.loc (2 * n) || !c.canPend ls then .stay c .handOver
    else if c.getBad p.loc (2 * n) then .mcheck c .poisonConsumed
    else
      let x := BitVec.ofNat 64 (leNat (c.get p.loc n))
      let y := BitVec.ofNat 64 (leNat (c.get { p.loc with off := p.loc.off + n } n))
      ((c.pendAll ls).sendReq r.tag p n (.atom r.op r.w64 x y) r.sem r.scope false (some p.loc)).done 4

/-- PKRD (R184). -/
def execPkrd (r : PkOp) (s : State) : Host.Outcome State Fault Refusal := s.run (.pkrd r) fun c => c.pkrdOp r
/-- PKWR (R184). -/
def execPkwr (r : PkOp) (s : State) : Host.Outcome State Fault Refusal := s.run (.pkwr r) fun c => c.pkwrOp r
/-- PKATOM (R184). -/
def execPkatom (r : PkAtomOp) (s : State) : Host.Outcome State Fault Refusal := s.run (.pkatom r) fun c => c.pkatomOp r

/-- PKWAIT (R185): parks while a masked tag's packet is in flight, then delivers the oldest fault a masked tag holds. -/
def execPkwait (mask : Byte) (s : State) : Host.Outcome State Fault Refusal :=
  s.run (.pkwait mask) fun c =>
    let named (o : EngOp) : Bool := o.cls == .pkt && mask.getLsbD o.tag.toNat
    if c.w.ops.any fun o => named o && o.st == .pending then .stay c .pkwait
    else c.deliver named (c.done 4)

/-! ### The request at its base die (R163, R206, R209) -/

/-- A request by its number. -/
def State.req? (s : State) (seq : Nat) : Option Req := s.reqs.find? fun r => r.seq == seq
/-- A request written in its place. -/
def State.setReq (s : State) (r : Req) : State :=
  { s with reqs := s.reqs.map fun x => if x.seq == r.seq then r else x }

/-- The asker of a packet: a release of narrower scope than device enters its core, another narrow access leaves the
record (R209). -/
def Req.asker (r : Req) : Asker :=
  { part := r.part, asid := r.asid, stack := if r.reqStack < 8 then some r.reqStack else none
    record := match r.scope with
      | .core | .cluster => if Sem.releases r.sem then .core r.chan else .keep
      | _ => .wide }

/-- The byte of its home stack that an address of an identifier stands for, where its page is mapped. -/
def State.homeAt (s : State) (asid : Option Nat) (addr : DWord) : Option Nat :=
  asid.bind fun asid => match (s.translate (stackOf addr) asid (offsetOf addr)).2 with
    | .ok leaf pages =>
      some (dramKey (stackOf addr) (65536 * (pteFrame leaf + offsetOf addr / 65536 % pages) + offsetOf addr % 65536))
    | _ => none

/-- The first byte of its home stack that a request covers, where its page is mapped. -/
def State.reqHome (s : State) (r : Req) : Option Nat := s.homeAt r.asid r.addr

/-- The 32-byte granules of its home stack a request covers (R209). -/
def State.reqGranules (s : State) (r : Req) : List Nat :=
  match s.reqHome r with
  | some k => granulesOf k r.size
  | none => []

/-- Two requests cover a common byte: of one address, or of one frame that two pages map (R149, R203). -/
def State.common (s : State) (r o : Req) : Bool :=
  o.meets r.asid r.addr r.size || (match s.reqHome r, s.reqHome o with
    | some k, some j => decide (k < j + o.size ∧ j < k + r.size)
    | _, _ => false)

/-- A request performs after another: an older acquire of its warp (R204), or an earlier packet of its core's channel that
covers a common byte (R149, R206). -/
def State.follows (s : State) (r o : Req) : Bool :=
  r.waitFor.contains o.seq || (o.chan == r.chan && decide (o.seq < r.seq) && s.common r o)

/-- A request goes first where no other it must follow is still on its way. -/
def State.inTurn (s : State) (r : Req) : Bool := s.reqs.all fun o => !(o.unperformed && s.follows r o)

/-- A request on its way waits for another: it follows it, or has asked its core for a promotion that takes it in (R209). -/
def State.waitsFor (s : State) (r o : Req) : Bool :=
  r.unperformed && (s.follows r o || r.promote.any fun x => x.1 == o.chan && decide (o.seq < x.2))

/-- The requests that wait for some, directly or through others. -/
def State.dependants (s : State) : Nat → List Nat → List Nat
  | 0, seqs => seqs
  | n + 1, seqs =>
    s.dependants n (seqs ++ ((s.reqs.filter fun r => !seqs.contains r.seq
      && s.reqs.any fun o => seqs.contains o.seq && s.waitsFor r o).map (·.seq)))

/-- The core whose promotion an .rmt read needs (R209): one recorded with a granule it reads. -/
def State.owners (s : State) (r : Req) : List Nat :=
  if r.kind == .read && r.rmt && atDie r.scope then (s.reqGranules r).filterMap (lookupN s.writers) else []

/-- The record of the granules whose promotion has completed is cleared (R209). -/
def State.promote (s : State) (r : Req) : State :=
  if (s.owners r).isEmpty then s else { s with writers := (s.reqGranules r).foldl eraseN s.writers }

/-- A request has performed: its reply or acknowledgement is on its way. Where an uncorrectable granule is a later one of the
packet, the spec does not say which address its fault reports: DESIGN CHOICE, the packet's own (log 27). -/
def State.performed (s : State) (r : Req) (bs : List (Byte × Bool)) (kind : Option Nat) (bound : Option Bound) : State :=
  s.setReq { r with st := .performed bs (kind.map fun k => ⟨k, r.addr, 0⟩) bound }

/-- A packet's request at its base die: it performs, and its reply counts at its page's meter when it leaves (R163, R358). -/
def State.request (s : State) (r : Req) : State :=
  match s.locate r.asker r.addr r.size r.kind.writes with
  | .fault s k => s.performed r (zeros (replySize r.kind r.size)) (some k) none
  | .hold s => s
  | .at s p =>
    let (s, bs, f) := s.access r.asker r.kind r.size p
    s.performed r bs f (r.asid.map fun asid => ⟨asid, r.addr, leafMeter p.leaf⟩)

/-- The 32-byte granule of a packet, from 0, that a byte of it lies in. -/
def Req.granuleOf (r : Req) (i : Nat) : Nat := (r.addr.toNat % 32 + i) / 32

/-- MEMORY_REQUEST (R163): a request performs at its base die. An .rmt read that finds a core recorded with its granule first
asks that core, and performs once what had left it then has performed, but for packets that wait for the read itself (R209). A
request to another rank of the domain is served by that package, which answers with `kind`, 0 for no fault, and with `remote`: the
packet's bytes, and after them, where the kind is 2, a byte for each of its granules, 0 for one that is uncorrectable (R131,
R153, log 29). -/
def execMemoryRequest (seq : Nat) (remote : List Byte) (kind : Nat) (s : State) : Host.Outcome State Fault Refusal :=
  match s.req? seq with
  | none => .next s
  | some r =>
    if !(r.unperformed && s.inTurn r) then .next s
    else if rankOf r.addr ≠ s.rank ∧ s.inDomain (rankOf r.addr) then
      let n := replySize r.kind r.size
      let k := if kind = 0 then none else some kind
      .next (s.performed r (if kind = 1 ∨ kind = 4 then zeros n
        else (List.range n).map fun i => (remote.getD i 0, kind == 2 && remote.getD (n + r.granuleOf i) 0 == 0)) k none)
    else
      let ks := (s.owners r).eraseDups
      match ks.filter fun k => !r.promote.any fun x => x.1 == k with
      | [] =>
        let but := s.dependants s.reqs.length [seq]
        if r.promote.all fun x => !ks.contains x.1 || s.promoted x.1 x.2 but then .next ((s.promote r).request r) else .next s
      | new => .next (s.setReq { r with promote := r.promote ++ new.map fun k => (k, s.nextSeq) })

/-! ### Replies (R148, R184) -/

/-- A packet completes at its warp: bytes to the destination, lines present, the barrier signalled, the operation done or
holding its fault. What a killed gang's packets bring is discarded (R307, R352). -/
def State.completeReq (s : State) (r : Req) (bs : List (Byte × Bool)) (f : Option OpFault) : State :=
  let s := { s with reqs := s.reqs.filter fun (x : Req) => x.seq != r.seq }
  if r.dead then s else
  let s := match r.dest with
    | some l => (s.putScr l bs).unpendAll (linesAt l (replySize r.kind r.size))
    | none => s
  let s := match r.sig with
    | some l => s.barEvent l 0 r.size 0 f.isSome
    | none => s
  s.completeOp r.wid r.seq f

/-- A packet's reply leaves its base die, where its allowance permits; a reply of zeros for fault kinds 1 and 4 counts nothing
(R151). -/
def State.packetLeaves (s : State) (bs : List (Byte × Bool)) : Option Bound → Option State
  | none => some s
  | some b => s.replyLeaves bs.length b

/-- PACKET_REPLY (R148, R184): the reply of a read or an atomic leaves its base die and reaches the warp. -/
def execPacketReply (seq : Nat) (s : State) : Host.Outcome State Fault Refusal :=
  match s.req? seq with
  | none => .next s
  | some r => match r.kind, r.st with
    | .write _ _, _ | _, .sent => .next s
    | _, .performed bs f b => match s.packetLeaves bs b with
      | some s => .next (s.completeReq r bs f)
      | none => .next s

/-- PACKET_ACKNOWLEDGEMENT (R148): the acknowledgement of a write reaches the warp. -/
def execPacketAcknowledgement (seq : Nat) (s : State) : Host.Outcome State Fault Refusal :=
  match s.req? seq with
  | none => .next s
  | some r => match r.kind, r.st with
    | .write _ _, .performed bs f _ => .next (s.completeReq r bs f)
    | _, _ => .next s

end Sys2Proof.Machine
end

