-- ==== Sys2Proof/Machine/Copies.lean ====
section
/-! DEFINITION. COPY and its command chains (R186 to R194): the chain read and checked at hand-over, then element writes, SIGNALs
and the completion as events of the copy engine. -/
namespace Sys2Proof.Machine

/-! ### The chain (R187, R188, R191 to R193) -/

/-- A signed little-endian word. -/
def sfield (bs : List Byte) (off : Nat) : Int := (BitVec.ofNat 32 (fieldAt bs off 4)).toInt

/-- DIR names memory as its source. -/
def Shape.srcMem (r : Shape) : Bool := r.dir == 0 || r.dir == 3
/-- DIR names memory as its destination. -/
def Shape.dstMem (r : Shape) : Bool := r.dir == 1 || r.dir == 3
/-- The element size in bytes. -/
def Shape.e (r : Shape) : Nat := 2 ^ r.esz
/-- An extent, 1 beyond the dimensions (R189). -/
def Shape.extent (r : Shape) (k : Nat) : Nat := max 1 (r.ext.getD k 0)
/-- Elements of a pass. -/
def Shape.elems (r : Shape) : Nat := r.extent 0 * r.extent 1 * r.extent 2 * r.extent 3
/-- The set bits of REPL, ascending. -/
def Shape.replBits (r : Shape) : List Nat := (List.range 16).filter fun i => r.repl.getLsbD i
/-- Targets of an element: one when REPL is zero (R189). -/
def Shape.targets (r : Shape) : Nat := if r.repl = 0 then 1 else r.replBits.length

/-- A shape record from its 64 bytes, its index table apart (R188). -/
def parseShape (bs : List Byte) : Shape :=
  let g := fieldAt bs 0x38 4
  { gather := fieldAt bs 0 1 == 2, dir := fieldAt bs 1 1, esz := fieldAt bs 2 1, rot := fieldAt bs 3 1 % 8,
    ndim := fieldAt bs 3 1 / 16 % 4 + 1, redop := fieldAt bs 4 1 % 4, redty := fieldAt bs 4 1 / 4 % 4,
    axis := fieldAt bs 5 1, repl := BitVec.ofNat 16 (fieldAt bs 6 2),
    src := BitVec.ofNat 64 (fieldAt bs 8 8), dst := BitVec.ofNat 64 (fieldAt bs 0x10 8),
    ext := (List.range 4).map fun k => fieldAt bs (0x18 + 2 * k) 2,
    sstr := (List.range 3).map fun k => sfield bs (0x20 + 4 * k),
    dstr := (List.range 3).map fun k => sfield bs (0x2C + 4 * k),
    x0 := g % 512, y0 := g / 512 % 512, z0 := g / 2 ^ 18 % 512, index := [] }

/-- The reserved fields, codes and limits of a shape record hold (R188). -/
def shapeOk (bs : List Byte) (r : Shape) : Bool :=
  let b3 := fieldAt bs 3 1
  let b4 := fieldAt bs 4 1
  let grid := fieldAt bs 0x38 4
  let mult (x : Int) : Bool := x % (r.e : Int) == 0
  decide (r.dir ≤ 3) && decide (r.esz ≤ 4) && b3 / 8 % 2 == 0 && b3 / 64 == 0
    && b4 / 16 == 0 && decide (r.redty ≤ 2) && (r.redop != 0 || r.redty == 0) && decide (r.axis ≤ 2)
    && (r.repl == 0 || r.dstMem) && (r.repl != 0 || grid == 0) && decide (grid < 2 ^ 27)
    && (r.srcMem || decide (r.src.toNat < 2 ^ 32)) && (r.dstMem || decide (r.dst.toNat < 2 ^ 32))
    && r.ext.zipIdx.all (fun (x, k) => decide (k < r.ndim) == (x != 0))
    && (r.sstr.zipIdx ++ r.dstr.zipIdx).all (fun (x, k) => decide (k + 1 < r.ndim) || x == 0)
    && mult r.src.toNat && mult r.dst.toNat && (r.sstr ++ r.dstr).all mult
    && (r.redop == 0 || r.e == redSize r.redty)
    && (r.gather || fieldAt bs 0x3C 4 == 0)

/-- A shape record needs a unit that a part without fabric ports lacks (R187). -/
def State.shapeAbsent (s : State) (r : Shape) : Bool :=
  !s.hasTideway && (r.repl != 0 || (r.srcMem && rankOf r.src != s.rank) || (r.dstMem && rankOf r.dst != s.rank))

/-- A LOOP's body holds no LOOP and lies inside none (R192). -/
def loopFits (before : List ChainEnt) (target : Nat) : Bool :=
  decide (target < before.length) && (before.drop target).all fun e => match e with | .loop .. => false | _ => true

/-- How reading a chain ends. -/
inductive ChainRead where
  | ok (chain : List ChainEnt)
  | park (lines : List ScrLoc)
  | bad (e : Eff)

/-- The next entry's bytes, once they are known to lie below V: absent lines park, poison is consumed. -/
def Ctx.chainBytes (c : Ctx) (off n : Nat) (k : List Byte → ChainRead) : ChainRead :=
  let l : ScrLoc := ⟨c.b.key, off⟩
  if !c.present l n then .park (linesAt l n)
  else if c.getBad l n then .bad (.mcheck c .poisonConsumed)
  else k (c.get l n)

/-- The index table of a GATHER (R191). -/
def Ctx.gatherTable (c : Ctx) (bs : List Byte) (r : Shape) (illegal : ChainRead) (k : Shape → ChainRead) : ChainRead :=
  if !r.gather then k r
  else
    let idx := fieldAt bs 0x3C 4
    let n := r.ext.getD 1 0
    if idx % 4 ≠ 0 ∨ c.b.kern.v < idx + 4 * n then illegal
    else c.chainBytes idx (4 * n) fun tb => k { r with index := (List.range n).map fun i => fieldAt tb (4 * i) 4 }

/-- The chain read and checked entry by entry, up to and including END (R186, R187). -/
def Ctx.readChain (c : Ctx) (start word : Word) : Nat → Nat → List ChainEnt → ChainRead
  | 0, _, _ => .bad (.trap c { cause := .illegalOpcode, info := word })
  | fuel + 1, off, acc =>
    let bounds : ChainRead := .bad (.trap c { cause := .scratchBounds, info := 0, addr := some (start.setWidth 64) })
    let illegal : ChainRead := .bad (.trap c { cause := .illegalOpcode, info := word })
    let v := c.b.kern.v
    if v < off + 16 then bounds else
    c.chainBytes off 16 fun hd =>
      match fieldAt hd 0 1 with
      | 0 => if hd.all (· == 0) then .ok acc else illegal
      | 1 | 2 =>
        if v < off + 64 then bounds else
        c.chainBytes off 64 fun bs =>
          let r := parseShape bs
          if !shapeOk bs r then illegal
          else c.gatherTable bs r illegal fun r =>
            if c.s.shapeAbsent r then .bad (.trap c { cause := .unitAbsent, info := word })
            else c.readChain start word fuel (off + 64) (acc ++ [.shape r])
      | 3 =>
        let target := fieldAt hd 1 1
        if fieldAt hd 12 4 ≠ 0 ∨ !loopFits acc target then illegal
        else c.readChain start word fuel (off + 16) (acc ++ [.loop target (fieldAt hd 2 2) (sfield hd 4) (sfield hd 8)])
      | 4 =>
        if 1 < fieldAt hd 1 1 ∨ fieldAt hd 2 2 ≠ 0 ∨ fieldAt hd 8 8 ≠ 0 then illegal
        else
          let bar : Word := BitVec.ofNat 32 (fieldAt hd 4 4)
          match c.engLoc bar 16 16 with
          | .error t => .bad (.trap c t)
          | .ok _ => c.readChain start word fuel (off + 16) (acc ++ [.signal (fieldAt hd 1 1 == 1) bar])
      | _ => illegal

/-! ### Order within a chain (R189, R192) -/

/-- The LOOP whose body holds an entry: its target, count and increments. -/
def loopOf (ch : List ChainEnt) (e : Nat) : Option (Nat × Nat × Int × Int) :=
  ch.zipIdx.findSome? fun (x, i) => match x with
    | .loop t n si di => if t ≤ e ∧ e < i then some (t, n, si, di) else none
    | _ => none

/-- The passes of an entry. -/
def passesOf (ch : List ChainEnt) (e : Nat) : Nat := match loopOf ch e with | some (_, n, _, _) => n + 1 | none => 1

/-- Where an entry's group stands: its LOOP's body as a whole, or itself. -/
def groupOf (ch : List ChainEnt) (e : Nat) : Nat := match loopOf ch e with | some (t, _, _, _) => t | none => e

/-- A pass of an entry comes before a pass of another in chain order. -/
def before (ch : List ChainEnt) (e p e' p' : Nat) : Bool :=
  let g := groupOf ch e
  let g' := groupOf ch e'
  decide (g < g' ∨ (g = g' ∧ (p < p' ∨ (p = p' ∧ e < e'))))

/-- How many passes of entry `e` come before pass `p'` of entry `e'`. -/
def passesBefore (ch : List ChainEnt) (e e' p' : Nat) : Nat :=
  let g := groupOf ch e
  let g' := groupOf ch e'
  if g < g' then passesOf ch e else if g = g' then p' + (if e < e' then 1 else 0) else 0

/-- The shape of an entry. -/
def shapeAt (ch : List ChainEnt) (e : Nat) : Option Shape := match ch[e]? with | some (.shape r) => some r | _ => none

/-- Element writes before a place in chain order. -/
def writesBefore (ch : List ChainEnt) (e p : Nat) : Nat :=
  (List.range ch.length).foldl (fun n i => match shapeAt ch i with
    | some r => n + passesBefore ch i e p * r.elems * r.targets
    | none => n) 0

/-- Bytes that element writes before a place carry. -/
def bytesBefore (ch : List ChainEnt) (e p : Nat) : Nat :=
  (List.range ch.length).foldl (fun n i => match shapeAt ch i with
    | some r => n + passesBefore ch i e p * r.elems * r.targets * r.e
    | none => n) 0

/-- Every SIGNAL of the chain, each pass apart. -/
def signalsOf (ch : List ChainEnt) : List (Nat × Nat) :=
  (List.range ch.length).flatMap fun i => match ch[i]? with
    | some (ChainEnt.signal _ _) => (List.range (passesOf ch i)).map fun p => (i, p)
    | _ => []

/-- The bytes of the latest SIGNAL before a place, 0 for the chain's start (R193). -/
def bytesSignalled (ch : List ChainEnt) (e p : Nat) : Nat :=
  ((signalsOf ch).filter fun x => before ch x.1 x.2 e p).foldl (fun n x => max n (bytesBefore ch x.1 x.2)) 0

/-- Every element write of the chain. -/
def totalWrites (ch : List ChainEnt) : Nat := writesBefore ch ch.length 0

/-! ### Elements (R189, R160) -/

/-- An element's tuple. -/
def Shape.tuple (r : Shape) (n : Nat) : Nat × Nat × Nat × Nat :=
  (n % r.extent 0, n / r.extent 0 % r.extent 1, n / (r.extent 0 * r.extent 1) % r.extent 2,
   n / (r.extent 0 * r.extent 1 * r.extent 2) % r.extent 3)

/-- Source and destination of an element in a pass: exact before the modulo of R189. -/
def Shape.places (r : Shape) (ch : List ChainEnt) (entry pass elem : Nat) : DWord × DWord :=
  let (i0, i1, i2, i3) := r.tuple elem
  let row := i1 + r.extent 1 * (i2 + r.extent 2 * i3)
  let (si, di) := match loopOf ch entry with | some (_, _, a, b) => ((pass : Int) * a, (pass : Int) * b) | none => (0, 0)
  let st (l : List Int) (k : Nat) : Int := l.getD k 0
  let first : Int := if r.gather then r.index.getD i1 0 else i1
  let s : Int := r.src.toNat + si + i0 * r.e + first * st r.sstr 0 + i2 * st r.sstr 1 + i3 * st r.sstr 2
  let d : Int := r.dst.toNat + di + i0 * r.e + i1 * st r.dstr 0 + i2 * st r.dstr 1 + i3 * st r.dstr 2
  let scr (x : Int) : DWord := (rotate r.rot row (BitVec.ofInt 32 x)).setWidth 64
  (if r.srcMem then BitVec.ofInt 64 s else scr s, if r.dstMem then BitVec.ofInt 64 d else scr d)

/-- The rank of a target, none where its coordinates lie outside the domain's shape (R189). -/
def State.targetRank (s : State) (r : Shape) (targ : Nat) : Option Nat :=
  let j := r.replBits.getD targ 0
  let x := r.x0 + if r.axis = 0 then j else 0
  let y := r.y0 + if r.axis = 1 then j else 0
  let z := r.z0 + if r.axis = 2 then j else 0
  match s.shape with
  | some (a, b, c) => if x < a ∧ y < b ∧ z < c then some (x + a * (y + b * z)) else none
  | none => none

/-- An address with its RANK replaced. -/
def withRank (a : DWord) (rank : Nat) : DWord := (BitVec.ofNat 9 rank) ++ a.extractLsb' 0 55

/-! ### COPY -/

/-- The scratchpad destination lines of a copy, each with the entry and pass of its last write (R193). -/
def Ctx.copyLines (c : Ctx) (ch : List ChainEnt) : List (ScrLoc × Nat × Nat) :=
  (List.range ch.length).foldl (fun acc e => match shapeAt ch e with
    | some r =>
      if r.dstMem then acc else
      (List.range (passesOf ch e)).foldl (fun acc p =>
        (List.range r.elems).foldl (fun acc n =>
          match c.resolve (loWord (r.places ch e p n).2) r.e with
          | none => acc
          | some l =>
            let k : ScrLoc := ⟨l.blk, l.off / 64 * 64⟩
            match acc.find? fun x => x.1 == k with
            | none => acc ++ [(k, e, p)]
            | some x => if before ch x.2.1 x.2.2 e p then acc.map (fun y => if y.1 == k then (k, e, p) else y) else acc) acc) acc
    | none => acc) []

/-- The barrier objects a chain signals. -/
def Ctx.copySigs (c : Ctx) (ch : List ChainEnt) : List ScrLoc :=
  ch.filterMap fun e => match e with
    | .signal _ bar => c.resolve bar 16
    | _ => none

/-- COPY (R186). -/
def Ctx.copyOp (c : Ctx) (f : Name) : Eff :=
  let start := c.w.sget f
  let word := (Instr.copy f).firstWord
  if c.w.sbad f then .mcheck c .poisonConsumed
  else if start.toNat % 16 ≠ 0 then .trap c { cause := .misaligned, info := 0, addr := some (start.setWidth 64) }
  else if start.msb then .trap c { cause := .scratchBounds, info := 0, addr := some (start.setWidth 64) }
  else if 16 ≤ c.w.count .cpy ∨ c.acqPending then .stay c .handOver
  else match c.readChain start word 64 start.toNat [] with
    | .bad e => e
    | .park ls => .stay c (.absent ls)
    | .ok ch =>
      let ls := c.copyLines ch
      if !c.canPend (ls.map (·.1)) then .stay c .handOver
      else
        let c := c.pendAll (ls.map (·.1))
        let (c, seq) := c.handOver .cpy 0 (c.copySigs ch)
        let x : Copy := ⟨seq, c.wid, c.coreIx, c.b.asid, c.b.part, ch, [], [], ls, none, false⟩
        ({ c with s := { c.s with copies := c.s.copies ++ [x] } } : Ctx).done 4

/-- COPY (R186). -/
def execCopy (f : Name) (s : State) : Host.Outcome State Fault Refusal := s.run (.copy f) fun c => c.copyOp f

/-! ### The copy engine -/

/-- A copy by its number. -/
def State.copy? (s : State) (seq : Nat) : Option Copy := s.copies.find? fun c => c.seq == seq
/-- A copy written in its place. -/
def State.setCopy (s : State) (x : Copy) : State :=
  { s with copies := s.copies.map fun y => if y.seq == x.seq then x else y }

/-- A warp with its block, wherever it stands. -/
def State.ctxOf (s : State) (w : WarpId) : Option Ctx :=
  (s.block? w.blk).bind fun b => (b.warp? w.warp).map fun x => ⟨s, b, x⟩

/-- A machine check that an engine raises on a warp (R138, R139). -/
def State.asyncMCheck (s : State) (w : WarpId) (m : MCheck) : State :=
  match s.ctxOf w with
  | some c => if c.w.ended then s else c.takeMCheck m
  | none => s

/-- The stack of a copy's core, whose counter its requests raise (R172). -/
def Copy.stack (x : Copy) : Nat := stackOfCluster (x.chan / 48)

/-- What a copy asks with. -/
def Copy.asker (x : Copy) : Asker := { part := x.part, asid := x.asid, stack := some x.stack }

/-- A Strandline event of a copy whose gang has been killed. -/
def State.logCopy (s : State) (x : Copy) (code cause : Nat) : State :=
  let k := x.chan / 48
  s.logEvent (s.dieOfCluster k) ⟨s.now, code, x.stack, k, x.chan % 48, 0xFF, cause, 0, x.wid.blk.lid, 0, 0⟩

/-- Credit a Tideway engine's link has for a peer (R347). -/
def TwEngine.creditOf (e : TwEngine) (rank : Nat) : Nat := (lookupN e.credit rank).getD 0

/-- Credit taken for a chunk or an element that leaves for another rank; none where there is not enough. Copies and Tideway
share it (R351). -/
def State.takeCredit (s : State) (die rank units : Nat) : Option State :=
  let e := s.engine die
  if e.creditOf rank < units then none
  else some (s.setEngine die { e with credit := insertN e.credit rank (e.creditOf rank - units) })

/-- The credit an element needs: the spec does not say how much, DESIGN CHOICE, one unit for each read of another rank and
each write there (log 29). -/
def State.copyCredit (s : State) (x : Copy) (mem : Bool) (a : DWord) : Option State :=
  if mem ∧ rankOf a ≠ s.rank ∧ s.inDomain (rankOf a) then s.takeCredit (s.dieOfCluster (x.chan / 48)) (rankOf a) 1 else some s

/-- An element's place in scratchpad, none where it fails the checks of R156: its alignment to the element size, and its
bounds. -/
def Ctx.elemLoc (c : Ctx) (a : Word) (n : Nat) : Option ScrLoc := if a.toNat % n ≠ 0 then none else c.resolve a n

/-- What tells the read of an element from other transfers. -/
def Copy.who (x : Copy) (ix : ElemIx) : List Nat := [16, x.seq, ix.entry, ix.pass, ix.elem, ix.targ]

/-- An element read from memory; none while the request waits or its reply is held, and then it is not made again. A read of
another rank takes its credit once. -/
def State.copyFetch (s : State) (x : Copy) (ix : ElemIx) (a : DWord) (n : Nat) (remote : List Byte) (kind : Nat) :
    State × Option (List (Byte × Bool) × Option Nat) :=
  let (s, r) := s.transferParts (x.who ix) a n none [(0, n)] fun s _ _ =>
    if rankOf a ≠ s.rank ∧ s.inDomain (rankOf a) then match s.copyCredit x true a with
      | none => .hold s
      | some s => .reply s (if kind = 1 ∨ kind = 4 then zeros n else (List.range n).map fun i => (remote.getD i 0, kind == 2))
          (if kind = 0 then none else some kind)
    else s.serve x.asker a n .read
  (s, r.map fun y => (y.1, y.2.map (·.1)))

/-- An element read: its bytes with their poison, and a fault kind; none while it waits. -/
def State.copyRead (s : State) (x : Copy) (r : Shape) (ix : ElemIx) (a : DWord) (remote : List Byte) (kind : Nat) :
    State × Option (List (Byte × Bool) × Option Nat) :=
  if r.srcMem then s.copyFetch x ix a r.e remote kind
  else match (s.ctxOf x.wid).bind fun c => (c.elemLoc (loWord a) r.e).map fun l => (c.get l r.e, c.getBad l r.e) with
    | some (bs, bad) => (s, some (bs.map fun b => (b, bad), none))
    | none => (s, some (zeros r.e, some 3))

/-- A read's fault after which nothing is written (R131): kind 3, and with a destination in memory kinds 1 and 4. -/
def Shape.unwritten (r : Shape) (fault : Option Nat) : Bool :=
  match fault with
  | none => false
  | some k => k == 3 || (r.dstMem && (k == 1 || k == 4))

/-- An element written to scratchpad, or reduced there (R190); none where it fails the checks of R156. -/
def State.copyToScr (s : State) (x : Copy) (r : Shape) (a : DWord) (bs : List (Byte × Bool)) : State × Option Nat :=
  match (s.ctxOf x.wid).bind fun c => (c.elemLoc (loWord a) r.e).map fun l => (l, c.get l r.e, c.getBad l r.e) with
  | none => (s, some 3)
  | some (l, old, oldBad) =>
    if r.redop = 0 then (s.putScr l bs, none)
    else
      let bad := oldBad || bs.any (·.2)
      if bad then (s.putScr l (bs.map fun b => (b.1, true)), none)
      else match s.reduceOne r.redop r.redty (leNat old) (leNat (bs.map (·.1))) with
        | (s, none) => (s, some 2)
        | (s, some v) => (s.putScr l ((leBytes r.e v).map fun b => (b, false)), none)

/-- An element written to memory, or reduced there. -/
def State.copyToMem (s : State) (x : Copy) (r : Shape) (a : DWord) (bs : List Byte) (kind : Nat) : Serve :=
  if rankOf a ≠ s.rank ∧ s.inDomain (rankOf a) then .reply s [] (if kind = 0 then none else some kind)
  else
    let k : ReqKind := if r.redop = 0 then .write bs (BitVec.allOnes 64) else .reduce r.redop r.redty bs
    s.serve x.asker a r.e k

/-- One element write comes before another in chain order. -/
def elemBefore (ch : List ChainEnt) (a b : ElemIx) : Bool :=
  before ch a.entry a.pass b.entry b.pass
    || (a.entry == b.entry && a.pass == b.pass && decide (a.elem < b.elem ∨ (a.elem = b.elem ∧ a.targ < b.targ)))

/-- The copy's fault after one more: the first in chain order (R194). -/
def Copy.noteFault (x : Copy) (ix : ElemIx) (a : DWord) (k : Option Nat) : Copy :=
  match k with
  | none => x
  | some k =>
    let f : OpFault := ⟨k, a, bytesBefore x.chain ix.entry ix.pass⟩
    match x.fault with
    | some (jx, _) => if elemBefore x.chain ix jx then { x with fault := some (ix, f) } else x
    | none => { x with fault := some (ix, f) }

/-- Where an element write goes: the destination with its RANK replaced (R189); none for a target outside the domain. -/
def State.elemDest (s : State) (x : Copy) (r : Shape) (ix : ElemIx) : Option DWord :=
  let d := (r.places x.chain ix.entry ix.pass ix.elem).2
  if r.dstMem ∧ r.repl ≠ 0 then (s.targetRank r ix.targ).map (withRank d) else some d

/-- Two element writes of a copy have one destination element, whatever addresses name it. -/
def State.sameElem (s : State) (x : Copy) (r r' : Shape) (ix jx : ElemIx) : Bool :=
  match s.elemDest x r ix, s.elemDest x r' jx with
  | some a, some b =>
    if r.dstMem ≠ r'.dstMem then false
    else if r.dstMem then a == b || (match s.homeAt x.asid a, s.homeAt x.asid b with
      | some k, some j => rankOf a == rankOf b && k == j
      | _, _ => false)
    else match s.ctxOf x.wid with
      | some c => (match c.elemLoc (loWord a) r.e, c.elemLoc (loWord b) r'.e with
        | some l, some l' => l == l'
        | _, _ => false)
      | none => false
  | _, _ => false

/-- One element write comes before another in the order of R190: entry, then pass, then tuple. -/
def reducedBefore (a b : ElemIx) : Bool :=
  decide (a.entry < b.entry ∨ (a.entry = b.entry ∧ (a.pass < b.pass ∨ (a.pass = b.pass
    ∧ (a.elem < b.elem ∨ (a.elem = b.elem ∧ a.targ < b.targ))))))

/-- Reductions of one chain onto one element apply in the order of R190: none before this one on its destination is
still to come. -/
def State.reduceReady (s : State) (x : Copy) (r : Shape) (ix : ElemIx) : Bool :=
  r.redop == 0 ||
    (List.range x.chain.length).all fun e => match shapeAt x.chain e with
      | none => true
      | some r' => r'.redop == 0 || (List.range (passesOf x.chain e)).all fun p =>
          (List.range r'.elems).all fun n => (List.range r'.targets).all fun t =>
            let jx : ElemIx := ⟨e, p, n, t⟩
            !reducedBefore jx ix || x.done.contains jx || !s.sameElem x r r' ix jx

/-- An element that has been read written to its destination. -/
def State.copyWrite (s : State) (x : Copy) (r : Shape) (ix : ElemIx) (bs : List (Byte × Bool)) (wkind : Nat) : Serve :=
  match s.elemDest x r ix with
  | none => .reply s [] (some 4)
  | some da =>
    if r.dstMem then match s.copyCredit x true da with
      | none => .hold s
      | some s => s.copyToMem x r da (bs.map (·.1)) wkind
    else
      let (s, f) := s.copyToScr x r da bs
      .reply s [] f

/-- COPY_ELEMENT_WRITE (R189): element `elem` of a pass of an entry is read and written to a target, in any order the
chain's reductions allow. `remote` and `rkind` answer a read of another rank, `wkind` a write there (R153). Where the read fails,
zeros or poisoned data reach scratchpad and nothing reaches memory (R131, R194, log 16). Of a killed gang's copy, scratchpad is
neither read nor written, and poison reaches no memory: the machine check is recorded, and there is no gang left to kill (R307,
R352, log 16); its reads of memory count as every read does (R151). -/
def execCopyElementWrite (seq entry pass elem targ : Nat) (remote : List Byte) (rkind wkind : Nat) (s : State) :
    Host.Outcome State Fault Refusal :=
  match s.copy? seq with
  | none => .next s
  | some x =>
    let ix : ElemIx := ⟨entry, pass, elem, targ⟩
    match shapeAt x.chain entry with
    | none => .next s
    | some r =>
      if x.done.contains ix ∨ passesOf x.chain entry ≤ pass ∨ r.elems ≤ elem ∨ r.targets ≤ targ ∨ !s.reduceReady x r ix then .next s
      else
        let (sa, da) := r.places x.chain entry pass elem
        let y := { x with done := ix :: x.done }
        if x.dead && !r.srcMem then .next (s.setCopy y) else
        match s.copyRead x r ix sa remote rkind with
        | (s, none) => .next s
        | (s, some (bs, fr)) =>
          let y := y.noteFault ix sa fr
          if r.unwritten fr || (x.dead && !r.dstMem) then .next (s.setCopy y)
          else if r.dstMem && bs.any (·.2) then
            .next (if x.dead then (s.setCopy y).logCopy x 0x02 MCheck.poisonConsumed.code
              else (s.setCopy y).asyncMCheck x.wid .poisonConsumed)
          else match s.copyWrite x r ix bs wkind with
            | .hold s => .next (if r.srcMem then s.keepRead (x.who ix) sa (bs.map (·.1)) else s)
            | .reply s _ fw | .held s _ fw _ => .next (s.setCopy (y.noteFault ix ((s.elemDest x r ix).getD da) fw))

/-- COPY_SIGNAL (R193, R194): a SIGNAL performs once every element write before it has; it adds its bytes, with FLT where one
of them failed, then with ARV its arrival, each an event of its own (R196), and the lines whose last write it is the first SIGNAL after become present. -/
def execCopySignal (seq entry pass : Nat) (s : State) : Host.Outcome State Fault Refusal :=
  match s.copy? seq with
  | none => .next s
  | some x => match x.chain[entry]? with
    | some (.signal arv bar) =>
      let early := x.done.filter fun i => before x.chain i.entry i.pass entry pass
      if x.sigs.contains (entry, pass) ∨ passesOf x.chain entry ≤ pass
          ∨ early.length ≠ writesBefore x.chain entry pass then .next s
      else
        let first (l : ScrLoc × Nat × Nat) : Bool :=
          before x.chain l.2.1 l.2.2 entry pass && !((signalsOf x.chain).any fun g =>
            before x.chain l.2.1 l.2.2 g.1 g.2 && before x.chain g.1 g.2 entry pass)
        let n := bytesBefore x.chain entry pass - bytesSignalled x.chain entry pass
        let s := s.setCopy { x with sigs := (entry, pass) :: x.sigs, lines := x.lines.filter fun l => !first l }
        let s := s.unpendAll ((x.lines.filter first).map (·.1))
        match (s.ctxOf x.wid).bind fun c => c.resolve bar 16 with
        | some l =>
          let flt := x.fault.any fun f => before x.chain f.1.entry f.1.pass entry pass
          let bytes := s.barEvent l 0 n 0 flt
          .next (if x.dead then s else if arv then bytes.barEvent l 1 0 0 flt else bytes)
        | none => .next s
    | _ => .next s

/-- COPY_COMPLETION (R193, R194): every entry and SIGNAL has performed. -/
def execCopyCompletion (seq : Nat) (s : State) : Host.Outcome State Fault Refusal :=
  match s.copy? seq with
  | none => .next s
  | some x =>
    if x.done.length ≠ totalWrites x.chain ∨ x.sigs.length ≠ (signalsOf x.chain).length then .next s
    else
      let s := { s with copies := s.copies.filter fun (y : Copy) => y.seq != seq }
      let s := s.unpendAll (x.lines.map (·.1))
      .next (if x.dead then s else s.completeOp x.wid seq (x.fault.map (·.2)))

end Sys2Proof.Machine
end

