-- ==== Sys2Proof/Machine/Rings.lean ====
section
/-! DEFINITION. Rings, the Estuary merge unit (R276 to R282), and the ends of launches and jobs that packets and instructions share
(R74, R75, R285, R369). -/
namespace Sys2Proof.Machine

/-! ### Accesses of the front end (R276) -/

/-- The front end of a partition, under its firmware identifier (R276). -/
def State.fwAsker (s : State) (part : Nat) : Asker := asker part ((s.part? part).map (·.fwAsid))

/-- A read by the front end, known by `who`; none while one of its requests waits. A faulted read gives what the reply
holds. -/
def State.fwRead (s : State) (who : List Nat) (part : Nat) (a : DWord) (n : Nat) : State × Option (List Byte) :=
  let (s, r) := s.transfer who (s.fwAsker part) a n none
  (s, r.map fun x => x.1.map (·.1))

/-- A write by the front end with its fault kind; none while one of its requests waits. -/
def State.fwWrite (s : State) (who : List Nat) (part : Nat) (a : DWord) (bs : List Byte) : State × Option (Option Nat) :=
  let (s, r) := s.transfer who (s.fwAsker part) a bs.length (some bs)
  (s, r.map fun x => x.2.map (·.1))

/-! ### Packets (R284) -/

/-- TYPE. -/
def pkType (bs : List Byte) : Nat := fieldAt bs 0 1
/-- PRI. -/
def pkPri (bs : List Byte) : Nat := fieldAt bs 1 1 % 4
/-- IRQ. -/
def pkIrq (bs : List Byte) : Bool := fieldAt bs 1 1 / 4 % 2 == 1
/-- LEN. -/
def pkLen (bs : List Byte) : Nat := fieldAt bs 2 2
/-- TAG. -/
def pkTag (bs : List Byte) : Word := BitVec.ofNat 32 (fieldAt bs 4 4)
/-- TS. -/
def pkTs (bs : List Byte) : Nat := fieldAt bs 8 8
/-- COMPL. -/
def pkCompl (bs : List Byte) : DWord := BitVec.ofNat 64 (fieldAt bs 0x10 8)
/-- ARG. -/
def pkArg (bs : List Byte) : Nat := fieldAt bs 0x18 8
/-- A field of the body. -/
def pkBody (bs : List Byte) (off n : Nat) : Nat := fieldAt bs (0x20 + off) n

/-! ### Rings (R277, R279) -/

/-- The code of a ring state. -/
def RingSt.code : RingSt → Nat
  | .unregistered => 0 | .running => 1 | .waiting => 2 | .halted => 3 | .paused => 4

namespace Ring

/-- Occupied units (R277). -/
def occ (r : Ring) : Nat := (r.wptr - r.rptr).toNat
/-- The address of a unit. -/
def unit (r : Ring) (u : Word) : DWord := r.body + BitVec.ofNat 64 (32 * (u.toNat % 2 ^ r.k))
/-- What Estuary writes of the header, from RPTR on. -/
def header (r : Ring) : List Byte :=
  leBytes 4 r.rptr.toNat ++ leBytes 4 (r.st.code + 256 * r.err) ++ leBytes 4 r.errptr.toNat ++ leBytes 8 r.lastTs.toNat
/-- The checks of R281 on a head header, in order: an error code, 0 for none. -/
def check (r : Ring) (h : List Byte) : Nat :=
  if 2 ^ r.k < r.occ then 4
  else if pkLen h = 0 ∨ 2 ^ r.k < pkLen h ∨ 2 ^ r.k < r.rptr.toNat % 2 ^ r.k + pkLen h then 1
  else if pkType h = 0 ∨ 7 < pkType h then 2
  else if fieldAt h 1 1 / 8 ≠ 0 ∨ (pkCompl h).toNat % 32 ≠ 0 then 3
  else 0

/-- The ring enters a state: a paused ring enters it once the takeover completes, and a halted one stays halted (R279). -/
def enter (r : Ring) (st : RingSt) : Ring :=
  match r.st with
  | .halted => r
  | .paused => if r.held = .halted then r else { r with held := st }
  | _ => { r with st := st }

end Ring

/-- A ring's header written where a write of it is due; the write stays due while its page waits (R168). -/
def State.sayRing (s : State) (n : Nat) : State :=
  match s.ring? n with
  | none => s
  | some r =>
    if !r.unsaid then s else
    match s.fwWrite [1, n] r.part (r.hdr + 4) r.header with
    | (s, some _) => s.setRing { r with unsaid := false }
    | (s, none) => s

/-- Every header whose write is due. -/
def State.sayRings (s : State) : State := s.rings.foldl (fun (s : State) r => s.sayRing r.num) s

/-- A ring changed, and its header with it. -/
def State.putRing (s : State) (r : Ring) : State := (s.setRing { r with unsaid := true }).sayRing r.num

/-- Estuary reads a ring's WPTR (R278). -/
def State.readWptr (s : State) (r : Ring) : State :=
  match s.fwRead [2, r.num] r.part r.hdr 4 with
  | (s, some bs) => s.setRing { r with wptr := BitVec.ofNat 32 (leNat bs) }
  | (s, none) => s

/-- The head header of a ring read, if a unit is occupied; none while the read waits. -/
def State.headHeader (s : State) (r : Ring) : State × Option (List Byte) :=
  if r.occ = 0 then (s, none) else s.fwRead [3, r.num, r.rptr.toNat] r.part (r.unit r.rptr) 32

/-- The bytes of the head packet, of which no packet type uses more than 7 units, once every unit is written. -/
def State.headPacket (s : State) (r : Ring) : State × Option (List Byte) :=
  match s.headHeader r with
  | (s, none) => (s, none)
  | (s, some h) => if r.check h ≠ 0 ∨ r.occ < pkLen h then (s, none)
    else s.fwRead [4, r.num, r.rptr.toNat] r.part (r.unit r.rptr) (32 * min 7 (pkLen h))

/-! ### WAITCNT (R285) -/

/-- A WAITCNT packet that keeps to the table (log 24). -/
def waitcntOk (bs : List Byte) : Bool := pkLen bs == 2 && decide (pkBody bs 0 4 ≤ 1) && pkBody bs 0x18 8 == 0

/-- The packet a ring and tag name (R285). -/
def State.taken? (s : State) (ring : Nat) (tag : Word) : Option Taken := s.taken.find? fun t => t.ring == ring && t.tag == tag

/-- Whether a WAITCNT's condition holds. -/
def State.waitHolds (s : State) (part : Nat) (bs : List Byte) : Bool :=
  if pkBody bs 0 4 = 0 then
    decide (pkArg bs ≤ ((s.job? part (BitVec.ofNat 32 (pkBody bs 4 4))).map (·.counter.toNat)).getD 0)
  else match s.taken? (pkBody bs 8 8 / 2 ^ 32 % 4096) (BitVec.ofNat 32 (pkBody bs 8 8)) with
    | some t => t.ended
    | none => false

/-- Whether a WAITCNT's timeout has passed since it first stood at the head. -/
def State.waitTimedOut (s : State) (headAt : Nat) (bs : List Byte) : Bool :=
  pkBody bs 0x10 8 != 0 && decide (headAt + pkBody bs 0x10 8 ≤ s.now)

/-- A WAITCNT at the head whose timeout has passed before its condition held (R285). -/
def State.watch (s : State) (part : Nat) (h : HeadWait) : HeadWait :=
  { h with late := h.late || (s.waitTimedOut h.since h.packet && !s.waitHolds part h.packet) }

/-- The WAITCNTs at the heads of rings, before an event that may make a condition hold. -/
def State.watchWaits (s : State) : State :=
  { s with rings := s.rings.map fun (r : Ring) => { r with head := r.head.map (s.watch r.part) } }

/-! ### The head of a ring -/

/-- A ring halted with an error code (R281). -/
def State.failRing (s : State) (r : Ring) (err : Nat) : State :=
  (s.putRing { r with st := .halted, err, errptr := r.rptr }).logFront r.part 0x0A 0 0 (BitVec.ofNat 32 r.num)

/-- A WAITCNT that comes to stand at the head of a ring in a repetition: its timeout begins (R285). -/
def State.noteHead (s : State) (r : Ring) : State :=
  match s.headPacket r with
  | (s, none) => s
  | (s, some bs) =>
    if pkType bs = 3 ∧ waitcntOk bs then s.setRing { r with head := some (s.watch r.part (r.head.getD ⟨s.now, bs, false⟩)) } else s

/-- A ring looks at its head (R279, R281, R285): a bad header halts it, a WAITCNT that does not hold makes it wait, one
that holds or has timed out lets it run. -/
def State.examine (s : State) (r : Ring) : State :=
  if !(r.st == .running || r.st == .waiting) then s
  else if r.rep.isSome then s.noteHead r
  else if 2 ^ r.k < r.occ then s.failRing r 4
  else match s.headHeader r with
  | (s, none) => s
  | (s, some h) =>
    if r.check h ≠ 0 then s.failRing r (r.check h)
    else match s.headPacket r with
      | (s, none) => s
      | (s, some bs) =>
        if pkType bs = 3 ∧ waitcntOk bs then
          let w := s.watch r.part (r.head.getD ⟨s.now, bs, false⟩)
          let st : RingSt := if s.waitHolds r.part bs || w.late then .running else .waiting
          let r : Ring := { r with head := some w }
          if st = r.st then s.setRing r else s.putRing { r with st := st }
        else s

/-- A ring, if it is still there, looks at its head. -/
def State.examineRing (s : State) (n : Nat) : State :=
  match s.ring? n with
  | some r => s.examine r
  | none => s

/-- Every ring of a group looks at its head. -/
def State.examineGroup (s : State) (group : Nat) : State :=
  (s.rings.filter fun r => r.group == group).foldl (fun (s : State) r => s.examineRing r.num) s

/-- DOORBELL (R278): Estuary reads the ring's WPTR again. -/
def execDoorbell (ring : Nat) (s : State) : Host.Outcome State Fault Refusal :=
  match s.ring? ring with
  | none => .next s
  | some r => .next ((s.readWptr r).examineRing ring)

/-- WPTR_REREAD (R278): the WPTR of every running ring, and of one waiting at a WAITCNT. Headers whose write had to wait are
written. -/
def execWptrReread (s : State) : Host.Outcome State Fault Refusal :=
  .next (s.rings.foldl (fun (s : State) r =>
    if r.st == .running || r.st == .waiting then
      match s.ring? r.num with
      | some r => (s.readWptr r).examineRing r.num
      | none => s
    else s) s.sayRings)

/-- SKIP (R280): a SKIP at the head is consumed; it enters no merge and has no record. -/
def execSkipPacket (ring : Nat) (s : State) : Host.Outcome State Fault Refusal :=
  match s.ring? ring with
  | none => .next s
  | some r =>
    if r.st ≠ .running then .next s else
    match s.headHeader r with
    | (s, none) => .next s
    | (s, some h) =>
      if pkType h = 7 ∧ r.check h = 0 ∧ pkLen h ≤ r.occ then
        .next ((s.putRing { r with rptr := r.rptr + BitVec.ofNat 32 (pkLen h), head := none }).examineRing ring)
      else .next s

/-! ### The merge (R280, R282) -/

/-- One packet is taken before another: priority, then timestamp, then ring number (R280). -/
def takenBefore (a b : Ring × List Byte) : Bool :=
  decide (pkPri b.2 < pkPri a.2) || (pkPri a.2 == pkPri b.2 &&
    (decide (pkTs a.2 < pkTs b.2) || (pkTs a.2 == pkTs b.2 && decide (a.1.num < b.1.num))))

/-- The first of some candidates. -/
def firstTaken : List (Ring × List Byte) → Option (Ring × List Byte)
  | [] => none
  | x :: t => match firstTaken t with
    | none => some x
    | some y => if takenBefore y x then some y else some x

/-- The eligible head packets of a group (R280), whose bytes `examineGroup` has read. -/
def State.eligible (s : State) (g : Group) : List (Ring × List Byte) :=
  s.rings.filterMap fun r =>
    if r.group == g.num && r.st == .running && r.rep.isNone then
      match (s.headPacket r).2 with
      | some bs => if pkType bs ≠ 7 ∧ pkTs bs + g.hold ≤ s.now then some (r, bs) else none
      | none => none
    else none

/-- A LAUNCH packet taken: its first pass has its identifier before any check (R285, R288). -/
def State.openLaunch (s : State) (r : Ring) (bs : List Byte) : State :=
  let lid := s.nextLid
  let job := r.job.bind fun id => s.job? r.part id
  let l : Launch := {
    lid, origin := .ring (some r.num), tag := pkTag bs, compl := pkCompl bs, irq := pkIrq bs, vec := r.vec, pass := 0,
    part := r.part,
    job := job.map (·.id), packet := bs, rcd := none, kern := none, asid := job.map (·.asid), wrap := none, budget := 0,
    repeats := false, st := .prologue, counter := 0, work := 0, used := 0, ebbAt := none, cancelled := false,
    gangFailed := false, overBudget := false, flags := [], dbgCauses := [], next := 0, w0 := none, gangs := [],
    status := none }
  { s with
    nextLid := lid + 1
    launches := s.launches ++ [l]
    taken := ⟨r.num, pkTag bs, lid, false⟩ :: s.taken.filter (fun (t : Taken) => !(t.ring == r.num && t.tag == pkTag bs)) }

/-- A packet taken: Estuary has copied it, RPTR passes it, and the ring looks at its next head (R278, R281). -/
def State.take (s : State) (g : Group) (r : Ring) (bs : List Byte) : State :=
  let late := (r.head.map (·.late)).getD false
  let lid := if pkType bs = 1 then some s.nextLid else none
  let s := s.putRing { r with rptr := r.rptr + BitVec.ofNat 32 (pkLen bs), lastTs := BitVec.ofNat 64 (pkTs bs), head := none }
  let s := if pkType bs = 1 then s.openLaunch r bs else s
  (s.setGroup { g with busy := some ⟨some r.num, r.part, r.vec, bs, lid, late⟩ }).examineRing r.num

/-- MERGE_TAKE (R280 to R282): the group's rings look at their heads, and a group whose previous packet is finished takes
the first eligible one. -/
def execMergeTake (group : Nat) (s : State) : Host.Outcome State Fault Refusal :=
  let s := s.sayRings.watchWaits.examineGroup group
  match s.group? group with
  | none => .next s
  | some g =>
    if g.busy.isSome then .next s else
    match firstTaken (s.eligible g) with
    | none => .next s
    | some (r, bs) => .next (s.take g r bs)

/-! ### Jobs and cancels (R74, R75, R285, R369) -/

/-- A job is open while a ring names it or a LAUNCH packet of it has not ended (R369). -/
def State.jobOpen (s : State) (j : Job) : Bool :=
  (s.rings.any fun r => r.part == j.part && r.job == some j.id)
    || s.launches.any fun l => l.part == j.part && l.job == some j.id
      && (match l.origin with | .ring _ => true | .reduce .. => false)
      && (l.st != .complete || s.rings.any fun r => match r.rep with | some p => p.lid == l.lid | none => false)

/-- Jobs that have closed are discarded. -/
def State.closeJobs (s : State) : State := { s with jobs := s.jobs.filter fun j => s.jobOpen j }

/-- The repetition a launch is the pass of ends, and its ring goes on and looks at its head (R279, R285, R292). -/
def State.endRepetition (s : State) (lid : Nat) : State :=
  match s.rings.find? fun r => match r.rep with | some p => p.lid == lid | none => false with
  | some r => (s.putRing ({ r with rep := none : Ring }.enter .running)).examineRing r.num
  | none => s

/-- A packet has ended: its last pass is over (R285). -/
def State.endTaken (s : State) (lid : Nat) : State :=
  { s.watchWaits with taken := s.taken.map fun (t : Taken) => if t.lid == lid then { t with ended := true } else t }

/-- A launch is cancelled (R74, R285): in its prologue its pass ends at once; admitted, by R307. A cancel that comes after
another, or after the counter has reached zero, leaves the launch as it is (R76, R324); one by a packet or of a job ends its
repetition even then (R285). -/
def State.cancelLaunch (s : State) (lid : Nat) (packet : Bool) : State :=
  match s.launch? lid with
  | none => s
  | some l =>
    let stop : State := s.setLaunch { l with repeats := false }
    match l.st with
    | .prologue => stop.endPass lid .cancelled 0
    | .complete => ((stop.endTaken lid).endRepetition lid).closeJobs
    | _ => (if packet || (l.ebbAt.isNone && l.status.isNone && l.counter != 0) then stop else s).recordEbb lid true

/-- A job is cancelled (R75, R285): every launch of it that has not ended. -/
def State.cancelJob (s : State) (part : Nat) (id : Word) : State :=
  let s := match s.job? part id with
    | some j => s.setJob { j with cancelled := true }
    | none => s
  (s.launches.filter fun l => l.part == part && l.job == some id).foldl (fun (s : State) l => s.cancelLaunch l.lid true) s

/-! ### Requests about rings (R276, R279, R280) -/

/-- An address in the package's memory. -/
def State.deviceMemory (s : State) (a : DWord) : Bool := rankOf a == s.rank && decide (stackOf a < s.stackCount)

/-- RING_REGISTRATION (R276): refused unless every value is within its limits and the number is free. The spec does not say how
many vectors the host port has: DESIGN CHOICE, any number is one (log 54). -/
def execRingRegistration (ring : Nat) (hdr body : DWord) (k group part vec : Nat) (s : State) :
    Host.Outcome State Fault Refusal :=
  if s.boot = 5 ∧ !s.bootErr ∧ ring < 4096 ∧ (s.ring? ring).isNone ∧ s.deviceMemory hdr ∧ hdr.toNat % 64 = 0 ∧ 7 ≤ k ∧ k ≤ 19
      ∧ s.deviceMemory body ∧ body.toNat % (32 * 2 ^ k) = 0 ∧ group < 256 ∧ (s.part? part).isSome
      ∧ (s.rings.all fun r => r.group != group || r.part == part) then
    let r : Ring := ⟨ring, hdr, body, k, group, part, vec, .running, .running, 0, 0, 0, 0, 0, none, none, none, false⟩
    let s' : State := { s with
      rings := s.rings ++ [r]
      timeSet := true
      groups := if (s.group? group).isSome then s.groups else s.groups ++ [⟨group, 0, none⟩] }
    match s'.fwWrite [1, ring] part hdr (zeroBytes 4 ++ r.header) with
    | (s, some _) => .next s
    | (s', none) => .next { s with faults := s'.faults }
  else .next s
where
  /-- Zero bytes. -/
  zeroBytes (n : Nat) : List Byte := List.replicate n 0

/-- A transfer of a ring's header or packets. -/
def ofRing (who : List Nat) (n : Nat) : Bool :=
  match who with
  | k :: r :: _ => decide (k < 5) && r == n
  | _ => false

/-- A ring's repetition goes no further: between two passes none is to come, so its packet has ended (R285); the pass that runs is
its last. -/
def State.endRep (s : State) (r : Ring) : State :=
  match r.rep with
  | some p => if p.ready then s.endTaken p.lid else s
  | none => s

/-- What is left of a deregistered ring: its packet in hand and its launches go on without it (R282, R286). -/
def State.forgetRing (s : State) (r : Ring) : State :=
  let s := s.endRep r
  { s with
    rings := s.rings.filter fun x => x.num != r.num
    groups := s.groups.map fun (g : Group) =>
      let busy := g.busy.map fun t => if t.ring == some r.num then { t with ring := none } else t
      { g with busy, hold := if g.num == r.group && !(s.rings.any fun x => x.num != r.num && x.group == r.group) then 0 else g.hold }
    launches := s.launches.map fun (l : Launch) => if l.origin == .ring (some r.num) then { l with origin := .ring none } else l
    moves := s.moves.filter fun m => !ofRing m.who r.num }

/-- RING_DEREGISTRATION (R279): HOLD returns to 0 with the group's last ring (R280), and jobs it kept open may close
(R369). While the page of its header waits, the ring stays registered (log 36). -/
def execRingDeregistration (ring : Nat) (s : State) : Host.Outcome State Fault Refusal :=
  match s.ring? ring with
  | none => .next s
  | some r =>
    match s.watchWaits.fwWrite [1, ring] r.part (r.hdr + 4) ({ r with st := .unregistered, rep := none } : Ring).header with
    | (s, none) => .next s
    | (s, some _) => .next (s.forgetRing r).closeJobs

/-- RING_RESET (R279): a halted ring runs again from a given RPTR, and looks at its head; in a repetition it waits for its end
(R292; DESIGN CHOICE, log 26). -/
def execRingReset (ring : Nat) (rptr : Word) (s : State) : Host.Outcome State Fault Refusal :=
  match s.ring? ring with
  | none => .next s
  | some r =>
    if r.st = .halted then
      .next (((s.dropMoves fun w => ofRing w ring).putRing { r with
        st := if r.rep.isSome then .waiting else .running, err := 0, rptr, head := none }).examineRing ring)
    else .next s

/-- HOLD_REQUEST (R280): refused for another partition's group or a value beyond 65,535. -/
def execHoldRequest (group ns part : Nat) (s : State) : Host.Outcome State Fault Refusal :=
  match s.group? group with
  | none => .next s
  | some g =>
    if ns ≤ 65535 ∧ (s.rings.any fun r => r.group == group && r.part == part) then .next (s.setGroup { g with hold := ns })
    else .next s

end Sys2Proof.Machine
end

