-- ==== Sys2Proof/Machine/Submit.lean ====
section
/-! DEFINITION. A submitted launch record (R290, R291), admission (R297 to R299), and what starts: a warp (R52, R290), a block's
first rows, a prologue pass (R292). -/
namespace Sys2Proof.Machine

/-! ### The record (R290) -/

/-- The launch record in 192 bytes. -/
def parseRecord (bs : List Byte) : LaunchRec :=
  { code := BitVec.ofNat 64 (fieldAt bs 0 8), kernel := fieldAt bs 8 2, prologue := fieldAt bs 0x0A 2,
    flags := BitVec.ofNat 32 (fieldAt bs 0x0C 4), hash := BitVec.ofNat 256 (fieldAt bs 0x10 32),
    x := fieldAt bs 0x30 4, y := fieldAt bs 0x34 4, z := fieldAt bs 0x38 4, g := fieldAt bs 0x3C 1,
    lanes := fieldAt bs 0x3E 2, deadline := fieldAt bs 0x40 8, cost := fieldAt bs 0x48 4, wrap := fieldAt bs 0x4C 4,
    budget := fieldAt bs 0x50 4, work := fieldAt bs 0x54 4, flagAddr := BitVec.ofNat 64 (fieldAt bs 0x58 8),
    nflags := fieldAt bs 0x60 2, nparams := fieldAt bs 0x62 1,
    params := (List.range 16).map fun i => BitVec.ofNat 32 (fieldAt bs (0x80 + 4 * i) 4),
    reserved := fieldAt bs 0x3D 1 != 0 || fieldAt bs 0x63 29 != 0 || fieldAt bs 0x0C 4 / 16 != 0 }

/-- The value of a wrap-up field that gives no entry. -/
def noEntry : Nat := 0xFFFFFFFF

/-- The effective wrap-up entry. -/
def LaunchRec.entry (r : LaunchRec) (k : Kernel) : Option Nat := if r.wrap = noEntry then k.wrap else some r.wrap
/-- The wrap-up budget B. -/
def LaunchRec.ebbBudget (r : LaunchRec) (k : Kernel) : Nat := if r.budget ≠ 0 then r.budget else k.budget

/-- The wrap-up fields keep to their rule. -/
def LaunchRec.wrapOk (r : LaunchRec) (k : Kernel) : Bool :=
  (r.wrap == noEntry || (r.wrap % 4 == 0 && decide (r.wrap < k.codeSize)))
    && ((r.entry k).isNone || r.ebbBudget k != 0)

/-- Every field within its limit, for a code object and the kernel named (R52, R290). -/
def LaunchRec.limitsOk (r : LaunchRec) (co : CodeObj) (k : Kernel) : Bool :=
  !r.reserved && decide (r.prologue < co.prologues.length)
    && decide (1 ≤ r.x ∧ r.x ≤ 65536 ∧ 1 ≤ r.y ∧ r.y ≤ 65536 ∧ 1 ≤ r.z ∧ r.z ≤ 256)
    && r.g == k.g && (r.lanes == 0 || decide (32 * (k.w - 1) + 1 ≤ r.lanes ∧ r.lanes ≤ 32 * k.w))
    && r.flagAddr.toNat % 4 == 0 && decide (r.nflags ≤ 1024) && decide (r.nparams ≤ 16)
    && decide (r.gangs * r.g ≤ 2 ^ 31) && r.wrapOk k

/-- The full allocation of a block (R158), with the undo reserve in debug mode (R143). -/
def Kernel.alloc (k : Kernel) (debug : Bool) : Nat :=
  (k.v + 127) / 128 * 128 + k.w * k.q * 128 + if debug then k.w * 0x2000 else 0

/-- The scratchpad of a core (R3). -/
def coreScratch : Nat := 524288

/-! ### The verdict (R290, R291, R299) -/

/-- What submission decides. -/
inductive Verdict where
  | malformed
  | rejected (reason : Nat)
  | admitted (k : Kernel)
deriving DecidableEq, Repr

/-- The checks of R291 after the first, in its order. -/
def State.resources (s : State) (l : Launch) (r : LaunchRec) (k : Kernel) : Verdict :=
  match l.job.bind fun id => s.job? l.part id, s.part? l.part with
  | some j, some p =>
    let metered := j.tenancy != 0
    if metered && !j.allow.contains r.hash then .rejected 2
    else if metered && r.debug then .rejected 4
    else if 48 < r.g ∨ coreScratch < k.alloc r.debug then .rejected 5
    else if p.shareOf r.pri = 0 ∨ s.slack p r.pri r.deadline r.cost < 0 then .rejected 1
    else .admitted k
  | _, _ => .rejected 6

/-- The checks of a submitted record, in order; the first failure decides. -/
def State.judge (s : State) (l : Launch) (r : LaunchRec) : Verdict :=
  match s.code? l.part r.code with
  | none => .rejected 3
  | some co =>
    if co.hash ≠ r.hash then .rejected 3 else
    match co.kernels[r.kernel]? with
    | none => .malformed
    | some k => if r.limitsOk co k then s.resources l r k else .malformed

/-- A launch rejected (R145, R291). -/
def State.reject (s : State) (l : Launch) (reason : Nat) : State :=
  (s.logFront l.part 0x08 0 l.lid (BitVec.ofNat 32 reason)).endPass l.lid .rejected reason

/-- The validity-flag area zeroed at admission under the job's identifier (R276, R286); false while the write waits. -/
def State.zeroFlags (s : State) (l : Launch) (r : LaunchRec) : State × Bool :=
  let n := 4 * ((r.nflags + 31) / 32)
  match s.transfer [5, l.lid] (asker l.part l.asid) r.flagAddr n (some (List.replicate n 0)) with
  | (s, some _) => (s, true)
  | (s, none) => (s, false)

/-- A launch as admission leaves it. -/
def Launch.admitted (l : Launch) (r : LaunchRec) (k : Kernel) (repeats : Bool) : Launch :=
  { l with
    rcd := some r, kern := some k, wrap := r.entry k, budget := r.ebbBudget k, repeats := repeats, st := .queued,
    counter := r.gangs * r.g, work := 0, used := 0, next := 0, w0 := none }

/-- The ring of a launch's packet, if it is still registered. -/
def State.ringOf (s : State) (l : Launch) : Option Ring := match l.origin with | .ring n => n.bind s.ring? | .reduce .. => none

/-- A ring enters or goes on with a repetition (R279, R292); one that a bad header behind the LAUNCH has halted stays halted
meanwhile (R281; DESIGN CHOICE, log 26). -/
def State.beginRepetition (s : State) (l : Launch) (scratch : List (Nat × Byte)) : State :=
  match s.ringOf l with
  | some r => s.putRing ({ r with rep := some ⟨l.lid, l.pass + 1, scratch, false⟩ : Ring }.enter .waiting)
  | none => s

/-- A record submitted by LGO, or by LREPEAT with the scratch bytes it carries on (R290 to R292, R299): the pass is over
and its launch MALFORMED, REJECTED or admitted; false while the zeroing of its flags waits. -/
def State.submit (s : State) (lid : Nat) (bytes : List Byte) (again : Option (List (Nat × Byte))) : State × Bool :=
  match s.launch? lid with
  | none => (s, true)
  | some l =>
    let r := parseRecord bytes
    match s.judge l r with
    | .malformed => (s.endPass lid .malformed 0, true)
    | .rejected n => (s.reject l n, true)
    | .admitted k =>
      match s.zeroFlags l r with
      | (s, false) => (s, false)
      | (s, true) =>
        let s := (s.closePass lid).setLaunch (l.admitted r k again.isSome)
        let s := s.logFront l.part 0x08 0 lid 0
        (match again with
         | some sc => s.beginRepetition l sc
         | none => s.endRepetition lid, true)

/-! ### What starts -/

/-- A warp as it starts (R52, R62, R78, R105): its launched lanes, its s-names, and every other register at zero. -/
def Warp.start (num slot : Nat) (launched : Mask) (x : Nat → Word) : Warp :=
  { num, slot, pc := 0, s := Vector.ofFn fun i => x i.val, sPoison := 0, v := Vector.replicate 64 none,
    p := Vector.replicate 8 0, pPoison := Vector.replicate 8 0, acc := Vector.replicate 16 ⟨none, false⟩,
    launched, exited := ~~~launched, m := 0xFFFFFFFF#32, stack := [], flg := 0, tpc := 0, tcause := 0, tlanes := 0,
    taddr := 0, taddrh := 0, tinfo := 0, saved := Vector.replicate 8 none, ebbpc := 0, inWrap := false, ops := [],
    ctr := 0, ctrPc := 0, wdog := 0, st := .ready, ended := false, undo := [], halted := false, stepOne := false,
    mtxOps := [], late := [] }

/-- The lanes of warp `w` that launch in a block of `n` lanes (R52). -/
def launchedMask (n w : Nat) : Mask := BitVec.ofNat 32 (2 ^ min 32 (n - 32 * w) - 1)

/-- The s-names of a kernel's warp (R290): parameter words up to the kernel's count, 0 beyond the record's. -/
def paramWord (k : Kernel) (nparams : Nat) (params : List Word) (i : Nat) : Word :=
  if i < k.params ∧ i < nparams then params.getD i 0 else 0

/-- A fresh block in which no warp stands yet (R157, R237). -/
def Block.start (key : BlockId) (kind : BlockKind) (code : DWord) (part : Nat) (kern : Kernel) (asid : Option Nat)
    (lanes : Nat) (debug : Bool) (cluster core size : Nat) : Block :=
  { key, kind, code, part, kern, asid, gsize := kern.g, lanes, debug, st := .resident, boundary := false, cluster, core,
    rows := [], slots := Vector.replicate 16 none, scr := Scratch.fresh size, holder := none, tiles := [],
    ob := OpBuf.fresh, snap := OpBuf.fresh, steps := [], xfers := [], warps := [], area := none }

/-- The names of .rows mapped to zero rows of their own (R11, R289). -/
def Block.startRows (b : Block) (w : Warp) : Block :=
  let (b, w) := (List.range 64).foldl (fun (x : Block × Warp) i =>
    if b.kern.rows.getLsbD i then
      let (b, id) := x.1.addRow (Vector.replicate 32 0) 0
      (b, x.2.setVmap (BitVec.ofNat 6 i) (some id))
    else x) (b, w)
  { b with warps := b.warps ++ [w] }

/-! ### A prologue pass (R292) -/

/-- The body a prologue runs as a block of one warp: 4 KiB of scratch, no handler. -/
def Prologue.body (p : Prologue) : Kernel := ⟨p.codeOff, p.codeSize, 1, 1, false, false, 0x1000, 0, 0, none, none, 0, 0, []⟩

/-- The s-names at the start of a pass. -/
def passWord (l : Launch) (r : LaunchRec) (i : Nat) : Word :=
  if i < 16 then r.params.getD i 0
  else if i = 16 then BitVec.ofNat 32 l.lid
  else if i = 17 then BitVec.ofNat 32 (l.lid / 2 ^ 32)
  else if i = 18 then BitVec.ofNat 32 l.pass
  else 0

/-- The scratch area at the start of a pass: the packet's record, and what earlier passes left above it. -/
def passScratch (l : Launch) (kept : List (Nat × Byte)) : Scratch :=
  let m := kept.foldl (fun (m : Memory) (x : Nat × Byte) => m.write x.1 x.2) Memory.empty
  ⟨0x1000, m.writeN 0 ((l.packet.drop 0x20).take 0xC0), [], []⟩

/-- The block of a pass. -/
def passBlock (l : Launch) (r : LaunchRec) (p : Prologue) (kept : List (Nat × Byte)) : Block :=
  { Block.start ⟨l.lid, 0, 0⟩ .prologue r.code l.part p.body l.asid 32 false 0 0 0x1000 with
    scr := passScratch l kept
    warps := [Warp.start 0 0 0xFFFFFFFF#32 (passWord l r)] }

/-- The lowest-numbered free scalar core of a link die (R282). -/
def State.freeCore (s : State) (die : Nat) : Option Nat :=
  (List.range 16).find? fun i => !(s.passes.any fun p => p.die == die && p.fcore == i)

/-- The prologue a launch's packet names, where its record matches a registered object (R290). -/
def State.prologueOf (s : State) (l : Launch) : Option (LaunchRec × Prologue) :=
  let r := parseRecord (l.packet.drop 0x20)
  match s.code? l.part r.code with
  | none => none
  | some co => if co.hash = r.hash then (co.prologues[r.prologue]?).map fun p => (r, p) else none

/-- A pass starts on a scalar core. -/
def State.startPass (s : State) (l : Launch) (r : LaunchRec) (p : Prologue) (fcore : Nat) (kept : List (Nat × Byte)) : State :=
  { s with
    passes := s.passes ++ [⟨l.lid, s.dieOfPart l.part, fcore, none⟩]
    blocks := s.blocks ++ [passBlock l r p kept] }

end Sys2Proof.Machine
end

