-- ==== Sys2Proof/Machine/FrontEnd.lean ====
section
/-! DEFINITION. What the front end does with the packet a merge group has taken (R285), the passes of a prologue (R292),
completion records (R286), and the signed records of the security processor (R356, R359). -/
namespace Sys2Proof.Machine

/-! ### The packet in hand -/

/-- The packet a merge group has taken. -/
def State.inHand (s : State) (group : Nat) : Option Taking := (s.group? group).bind (·.busy)

/-- A merge group is ready for its next packet (R282). -/
def State.release (s : State) (group : Nat) : State :=
  { s with groups := s.groups.map fun (g : Group) => if g.num == group then { g with busy := none } else g }

/-- What a packet's completion record will carry (R286). -/
def dueOf (t : Taking) (st : Status) (reason : Nat) : Due :=
  ⟨pkCompl t.packet, pkIrq t.packet, t.part, t.vec, st, reason, 0, pkTag t.packet, 0, 0, none, none⟩

/-- A packet ends: its record is due, and its group goes on. -/
def State.finish (s : State) (group : Nat) (t : Taking) (st : Status) (reason : Nat) : State :=
  { (s.release group) with dues := s.dues ++ [dueOf t st reason] }

/-- A packet ends and changes nothing else. -/
def State.answer (s : State) (group : Nat) (t : Taking) (st : Status) (reason : Nat) : Host.Outcome State Fault Refusal :=
  .next (s.finish group t st reason)

/-- Bits of a number. -/
def bitsOf (x lo n : Nat) : Nat := x / 2 ^ lo % 2 ^ n

/-! ### LAUNCH and its passes (R285, R288, R290, R292) -/

/-- A LAUNCH packet that keeps to the table. -/
def launchOk (bs : List Byte) : Bool := pkLen bs == 7 && pkArg bs == 0

/-- LAUNCH (R75, R285, R290, R292): the packet is checked, and its first pass starts once a scalar core is free. -/
def execLaunchPacket (group : Nat) (s : State) : Host.Outcome State Fault Refusal :=
  match s.inHand group with
  | none => .next s
  | some t => match t.lid.bind s.launch? with
    | none => .next s
    | some l =>
      if (s.pass? l.lid).isSome ∨ l.status.isSome then .next s
      else if !launchOk t.packet then .next (s.endPass l.lid .malformed 0)
      else if ((l.job.bind fun id => s.job? l.part id).map (·.cancelled)).getD false then .next (s.endPass l.lid .cancelled 0)
      else match s.prologueOf l with
        | none => .next (s.reject l 3)
        | some (r, p) => match s.freeCore (s.dieOfPart l.part) with
          | none => .next s
          | some k => .next (s.startPass l r p k [])

/-- PROLOGUE_TIMEOUT (R292): 10 µs have passed since the pass's first instruction. -/
def execPrologueTimeout (lid : Nat) (s : State) : Host.Outcome State Fault Refusal :=
  match (s.pass? lid).bind (·.start) with
  | some t => if t + 10000 ≤ s.now then .next (s.endPass lid .prologueTimeout 0) else .next s
  | none => .next s

/-- REPETITION_PASS (R292): after the record of the last pass, a new pass starts with a new identifier. -/
def execRepetitionPass (ring : Nat) (s : State) : Host.Outcome State Fault Refusal :=
  match (s.ring? ring).bind fun r => r.rep.map fun p => (r, p) with
  | none => .next s
  | some (r, p) =>
    if !p.ready then .next s else
    match s.launch? p.lid with
    | none => .next s
    | some old =>
      let lid := s.nextLid
      let l : Launch := { old with
        lid, pass := p.pass, rcd := none, kern := none, wrap := none, budget := 0, repeats := false, st := .prologue,
        counter := 0, work := 0, used := 0, ebbAt := none, cancelled := false, gangFailed := false, overBudget := false,
        flags := [], next := 0, w0 := none, gangs := [], status := none }
      match s.prologueOf l, s.freeCore (s.dieOfPart l.part) with
      | some (rc, pr), some k =>
        let s : State := { s with
          nextLid := lid + 1
          launches := s.launches ++ [l]
          taken := s.taken.map fun (t : Taken) => if t.lid == old.lid then { t with lid } else t }
        let s := s.setRing { r with rep := some { p with lid, ready := false } }
        .next (s.startPass l rc pr k p.scratch)
      | _, _ => .next s

/-! ### Completion records (R286) -/

/-- The 32 bytes of a record. -/
def Due.bytes (d : Due) (now : Nat) : List Byte :=
  leBytes 1 d.status.code ++ leBytes 1 d.reason ++ leBytes 2 d.pass ++ leBytes 4 d.tag.toNat ++ leBytes 8 d.ident
    ++ leBytes 8 now ++ leBytes 4 d.flags ++ leBytes 4 0

/-- A write of the front end that may be skipped: address 0 stands for none; false while it waits. -/
def State.fwWriteAt (s : State) (who : List Nat) (part : Nat) (a : DWord) (bs : List Byte) : State × Bool :=
  if a = 0 then (s, true) else
  match s.fwWrite who part a bs with
  | (s, some _) => (s, true)
  | (s, none) => (s, false)

/-- A pass of a job has ended: the job's counter rises (R73). -/
def State.countJob (s : State) (l : Launch) : State :=
  match l.job.bind fun id => s.job? l.part id with
  | none => s
  | some j => s.watchWaits.setJob { j with counter := j.counter + 1 }

/-- A due record of which a mirror write is left, to an address. -/
def Due.mirrors (a : DWord) (d : Due) : Bool :=
  match d.mirror with
  | some m => m.1 == a
  | none => false

/-- A counter's value is written to its mirror (R285), after the mirror writes to that address that wait already; false while it
waits (log 33). -/
def State.writeMirror (s : State) (part : Nat) (before : List Due) (a v : DWord) : State × Bool :=
  if before.any (Due.mirrors a) then (s, false) else s.fwWriteAt [7] part a (leBytes 8 v.toNat)

/-- The mirror of a job's counter is written (R285), or stays due. -/
def State.mirrorJob (s : State) (d : Due) (l : Launch) : State :=
  match l.job.bind fun id => s.job? l.part id with
  | none => s
  | some j => match s.writeMirror l.part s.dues j.jcnt j.counter with
    | (s, true) => s
    | (s, false) => { s with dues := s.dues ++ [{ d with mirror := some (j.jcnt, j.counter) }] }

/-- What the end of a pass settles (R145, R285, R292, R369): the launch is COMPLETE, and a repetition goes on to its next
pass or ends. -/
def State.completeLaunch (s : State) (l : Launch) (st : Status) : State :=
  let s := s.logComplete l st
  let rep := s.rings.find? fun r => match r.rep with | some p => p.lid == l.lid | none => false
  match rep with
  | some r =>
    if l.repeats && !l.cancelled then s.setRing { r with rep := r.rep.map fun p => { p with ready := true } }
    else ((s.endTaken l.lid).endRepetition l.lid).closeJobs
  | none => (s.endTaken l.lid).closeJobs

/-- A due record settled, and its vector sent. -/
def State.clearDue (s : State) (ix : Nat) (d : Due) : State :=
  { s with dues := s.dues.eraseIdx ix, irqs := if d.irq then s.irqs ++ [d.vec] else s.irqs }

/-- COMPLETION_RECORD (R73, R285, R286): the `ix`-th due record is written, or its moment comes; the vector is sent, the job's
counter rises, and a launch's pass is over. While a page of the record waits, all of it waits; while a page of the counter's mirror
waits, that write alone stays due (log 33). -/
def execCompletionRecord (ix : Nat) (s : State) : Host.Outcome State Fault Refusal :=
  match s.dues[ix]? with
  | none => .next s
  | some d =>
    match d.mirror with
    | some (a, v) => match s.writeMirror d.part (s.dues.take ix) a v with
      | (s, false) => .next s
      | (s, true) => .next { s with dues := s.dues.eraseIdx ix }
    | none => match s.fwWriteAt [6] d.part d.compl (d.bytes s.now) with
      | (s, false) => .next s
      | (s, true) => match d.lid.bind s.launch? with
        | none => .next (s.clearDue ix d)
        | some l => .next ((((s.clearDue ix d).countJob l).mirrorJob d l).completeLaunch l d.status)

/-! ### WAITCNT (R285) -/

/-- WAITCNT (R285): the condition held when the packet was taken. -/
def execWaitcnt (group : Nat) (s : State) : Host.Outcome State Fault Refusal :=
  match s.inHand group with
  | none => .next s
  | some t =>
    if pkType t.packet ≠ 3 then .next s
    else if !waitcntOk t.packet then s.answer group t .malformed 0
    else if t.late then .next s
    else s.answer group t .completed 0

/-- WAITCNT_TIMEOUT (R285): the timeout had passed first. -/
def execWaitcntTimeout (group : Nat) (s : State) : Host.Outcome State Fault Refusal :=
  match s.inHand group with
  | none => .next s
  | some t =>
    if pkType t.packet = 3 ∧ waitcntOk t.packet ∧ t.late then s.answer group t .timeout 0 else .next s

/-! ### SIGNAL (R285) -/

/-- A SIGNAL's kind. -/
def signalKind (bs : List Byte) : Nat := pkBody bs 0 8

/-- A SIGNAL that keeps to the table (log 24). -/
def signalOk (bs : List Byte) : Bool :=
  pkLen bs == 2 && pkBody bs 0x18 8 == 0 &&
    (match signalKind bs with
     | 0 => pkBody bs 8 8 % 8 == 0 && pkBody bs 0x10 8 == 0
     | 1 => pkArg bs == 0 && decide (pkBody bs 8 8 < 2 ^ 17)
     | _ => false)

/-- SIGNAL_WRITE (R285): ARG is written to ADDR; a fault completes REJECTED with reason 8. -/
def execSignalWrite (group : Nat) (s : State) : Host.Outcome State Fault Refusal :=
  match s.inHand group with
  | none => .next s
  | some t =>
    if pkType t.packet ≠ 4 ∨ signalKind t.packet = 1 then .next s
    else if !signalOk t.packet then s.answer group t .malformed 0
    else match s.fwWrite [8, group] t.part (BitVec.ofNat 64 (pkBody t.packet 8 8)) (leBytes 8 (pkArg t.packet)) with
      | (s, none) => .next s
      | (s, some none) => s.answer group t .completed 0
      | (s, some (some _)) => s.answer group t .rejected 8

/-- SIGNAL_START (R285, R348): the start enters the engine's queue, and its record is due when it leaves it. -/
def execSignalStart (group : Nat) (s : State) : Host.Outcome State Fault Refusal :=
  match s.inHand group with
  | none => .next s
  | some t =>
    if pkType t.packet ≠ 4 ∨ signalKind t.packet ≠ 1 then .next s
    else if !signalOk t.packet then s.answer group t .malformed 0
    else
      let die := bitsOf (pkBody t.packet 8 8) 16 1
      let num := bitsOf (pkBody t.packet 8 8) 0 16
      if !s.hasTideway then s.answer group t .absent 0
      else
        let e := s.engine die
        if e.scheds.any fun y => y.num == num && y.part == t.part then
          let ib : DWord := BitVec.ofNat 64 (pkBody t.packet 0x10 8)
          .next ((s.release group).setEngine die
            { e with queue := e.queue ++ [⟨num, ib, none, some (dueOf t .completed 0)⟩] })
        else s.answer group t .malformed 0

/-! ### CANCEL (R285) -/

/-- A CANCEL that keeps to the table (log 24). -/
def cancelOk (bs : List Byte) : Bool :=
  pkLen bs == 1 && (match bitsOf (pkArg bs) 62 2 with
    | 0 => bitsOf (pkArg bs) 44 18 == 0
    | 1 => bitsOf (pkArg bs) 32 30 == 0
    | _ => false)

/-- CANCEL_LAUNCH (R74, R285). -/
def execCancelLaunch (group : Nat) (s : State) : Host.Outcome State Fault Refusal :=
  match s.inHand group with
  | none => .next s
  | some t =>
    let a := pkArg t.packet
    if pkType t.packet ≠ 5 ∨ bitsOf a 62 2 = 1 then .next s
    else if !cancelOk t.packet then s.answer group t .malformed 0
    else match s.taken? (bitsOf a 32 12) (BitVec.ofNat 32 a) with
      | some k => if k.ended then s.answer group t .completed 1 else (s.cancelLaunch k.lid true).answer group t .completed 0
      | none => s.answer group t .completed 1

/-- CANCEL_JOB_PACKET (R75, R285). -/
def execCancelJobPacket (group : Nat) (s : State) : Host.Outcome State Fault Refusal :=
  match s.inHand group with
  | none => .next s
  | some t =>
    let a := pkArg t.packet
    if pkType t.packet ≠ 5 ∨ bitsOf a 62 2 ≠ 1 then .next s
    else if !cancelOk t.packet then s.answer group t .malformed 0
    else match s.job? t.part (BitVec.ofNat 32 a) with
      | some j => (s.cancelJob t.part j.id).answer group t .completed 0
      | none => s.answer group t .completed 1

/-! ### JOB (R285, R367 to R369) -/

/-- Whether an identifier is enabled in a partition (R166): its root entry is valid in every stack of it. -/
def State.asidEnabled (s : State) (part asid : Nat) : Bool :=
  match s.part? part with
  | none => false
  | some p => (List.range p.n).all fun i => match lookupN (s.die (p.first + i)).root asid with
    | some e => pteV e
    | none => false

/-- A tenancy of a partition. -/
def State.tenancy? (s : State) (part num : Nat) : Option Tenancy := s.tenancies.find? fun t => t.part == part && t.num == num

/-- The bytes of a signature (R356). -/
def sigSize : Nat := 7856

/-- A signature over a message by the licensor key with a registered digest holds (R367). Where the security processor has the key
itself from, the spec does not say (log 11). -/
def signedBy (digest : BitVec 256) (msg sig : List Byte) : Bool :=
  let key := Config.licensor digest
  key.length == 32 && Sha.hash key == digest && Slh.verify (key.take 16) (key.drop 16) msg sig

/-- The entries of an allow-list, none where the security processor rejects it (R367). -/
def checkAllow (key : BitVec 256) (tenancy : Nat) (bs : List Byte) : Option (List (BitVec 256)) :=
  let n := fieldAt bs 0x0C 4
  let len := 0x50 + 32 * n
  if fieldAt bs 0 4 = 0x10 ∧ fieldAt bs 4 4 = len + sigSize ∧ fieldAt bs 8 2 = tenancy ∧ fieldAt bs 0x0A 2 = 0
      ∧ 1 ≤ n ∧ n ≤ 4096 ∧ BitVec.ofNat 256 (fieldAt bs 0x10 32) = key ∧ fieldAt bs 0x30 32 = 0
      ∧ signedBy key (bs.take len) ((bs.drop len).take sigSize) then
    some ((List.range n).map fun i => BitVec.ofNat 256 (fieldAt bs (0x50 + 32 * i) 32))
  else none

/-- The allow-list of a new job: read and checked (R367), empty for an unmetered job; none while the read waits. -/
def State.readAllow (s : State) (group part : Nat) (key : Option (BitVec 256)) (tenancy : Nat) (a : DWord) :
    State × Option (Option (List (BitVec 256))) :=
  match key with
  | none => (s, some (some []))
  | some key => match s.fwRead [9, group] part a 0x50 with
    | (s, none) => (s, none)
    | (s, some hd) =>
      let n := fieldAt hd 0x0C 4
      if 4096 < n then (s, some none) else
      match s.fwRead [10, group] part (a + 0x50) (32 * n + sigSize) with
      | (s, none) => (s.keepRead [9, group] a hd, none)
      | (s, some rest) => (s, some (checkAllow key tenancy (hd ++ rest)))

/-- A JOB that keeps to the table: its fields, its identifier enabled, its tenancy known, and the values of an open job of
the same JOBID (R285). -/
def State.jobOk (s : State) (part : Nat) (bs : List Byte) : Bool :=
  let a := pkArg bs
  let tenancy := bitsOf a 48 16
  let asid := bitsOf a 32 12
  pkLen bs == 2 && bitsOf a 44 4 == 0 && pkBody bs 0x10 16 == 0 && pkBody bs 8 8 % 8 == 0
    && (tenancy != 0 || pkBody bs 0 8 == 0) && s.asidEnabled part asid
    && (tenancy == 0 || (s.tenancy? part tenancy).isSome)
    && (match s.job? part (BitVec.ofNat 32 a) with
        | some j => j.asid == asid && j.tenancy == tenancy
        | none => true)

/-- A job becomes the current one of a packet's ring, if that is still registered. A ring deregistered meanwhile names no job,
which may then close at once (R369). -/
def State.makeCurrent (s : State) (t : Taking) (j : Job) : State :=
  let s := s.setJob j
  (match t.ring.bind s.ring? with
    | some r => s.setRing { r with job := some j.id }
    | none => s).closeJobs

/-- JOB (R285, R361, R367, R369). DESIGN CHOICE: JCNT of a later JOB of an open job replaces its mirror address, unless 0 (log 33). -/
def execJobPacket (group : Nat) (s : State) : Host.Outcome State Fault Refusal :=
  match s.inHand group with
  | none => .next s
  | some t =>
    let a := pkArg t.packet
    let id : Word := BitVec.ofNat 32 a
    let tenancy := bitsOf a 48 16
    let jcnt : DWord := BitVec.ofNat 64 (pkBody t.packet 8 8)
    if pkType t.packet ≠ 2 then .next s
    else if !s.jobOk t.part t.packet then s.answer group t .malformed 0
    else if tenancy ≠ 0 ∧ s.retired then s.answer group t .rejected 2
    else match s.job? t.part id with
      | some j => (s.makeCurrent t (if jcnt = 0 then j else { j with jcnt })).answer group t .completed 0
      | none =>
        match s.readAllow group t.part ((s.tenancy? t.part tenancy).map (·.key)) tenancy (BitVec.ofNat 64 (pkBody t.packet 0 8)) with
        | (s, none) => .next s
        | (s, some none) => s.answer group t .rejected 2
        | (s, some (some allow)) =>
          let j : Job := ⟨t.part, id, bitsOf a 32 12, tenancy, 0, false, allow, jcnt⟩
          ((State.makeCurrent { s.watchWaits with jobs := s.jobs ++ [j] } t j)).answer group t .completed 0

/-! ### Signed records (R356, R359, R360) -/

/-- The stacks whose partials count for a meter (R176): those of the partition it is allotted to, which hold every byte it has
counted, or every stack where it is allotted to none. -/
def State.meterStacks (s : State) (m : Nat) : List Nat :=
  match (s.allots.find? fun a => a.meter == m).bind fun a => s.part? a.part with
  | some p => (List.range p.n).map (p.first + ·)
  | none => List.range 8

/-- The value of a meter: the sum of its partials (R357), or once the chip is retired its final value (R361). -/
def State.meterValue (s : State) (m : Nat) : Nat :=
  if s.retired then (lookupN s.finals m).getD 0
  else ((s.meterStacks m).map fun i => (lookupN (s.die i).partials m).getD 0).sum

/-- The next sequence number, its block reserved in the journal (R359). -/
def State.nextNumber (s : State) : State :=
  { s with
    seqNum := s.seqNum + 1
    seqBound := if s.seqBound < s.seqNum + 1 then s.seqBound + 2 ^ 20 else s.seqBound }

/-- A signed record: the common header, a body, the signature (R356). -/
def State.signed (s : State) (type seq : Nat) (body : List Byte) : List Byte :=
  let msg := leBytes 4 type ++ leBytes 4 (0x40 + body.length + sigSize) ++ leBytes 32 s.identity.toNat
    ++ leBytes 8 seq ++ leBytes 8 s.now ++ leBytes 1 (s.tstat.toNat % 4) ++ List.replicate 7 0 ++ body
  let sig := s.signature msg
  msg ++ (List.range sigSize).map fun i => sig.getD i 0

/-- The tenancy a meter is allotted to, 0 for none. -/
def State.meterTenancy (s : State) (m : Nat) : Nat :=
  ((s.allots.find? fun a => a.meter == m).map (·.tenancy)).getD 0

/-- The body of a meter snapshot (R360). -/
def State.snapBody (s : State) (m : Nat) : List Byte :=
  leBytes 2 m ++ leBytes 2 (s.meterTenancy m) ++ leBytes 4 0 ++ leBytes 8 (s.meterValue m)

/-- A METERSNAP that keeps to the table. -/
def metersnapOk (bs : List Byte) : Bool :=
  pkLen bs == 2 && decide (pkArg bs < 4096) && pkBody bs 0 8 % 32 == 0 && pkBody bs 8 24 == 0

/-- A packet may snapshot a meter (R176, R285): one of its partition, and of the tenancy of its ring's current job if that is
metered. -/
def State.mayRead (s : State) (t : Taking) (m : Nat) : Bool :=
  let job := ((t.ring.bind s.ring?).bind (·.job)).bind fun id => s.job? t.part id
  let tenancy := (job.map (·.tenancy)).getD 0
  s.allots.any fun a => a.meter == m && a.part == t.part && (tenancy == 0 || a.tenancy == tenancy)

/-- The security processor serves the oldest signing request (R360): it samples the meter, signs, writes the snapshot, and the
completion record follows. While the page of the snapshot waits, the request stays. -/
def State.serveSign (s : State) : State :=
  match s.signQ with
  | [] => s
  | q :: rest =>
    let (s, bs) := match q.record with
      | some bs => (s, bs)
      | none => let s := s.nextNumber
        (s, s.signed 1 s.seqNum (s.snapBody q.meter))
    match s.fwWrite [11] q.part q.dest bs with
    | (s, none) => { s with signQ := { q with record := some bs } :: rest }
    | (s, some _) => { s with signQ := rest, dues := s.dues ++ [q.due] }

/-- METERSNAP (R285, R360): a packet in hand is checked and enters the queue of at most 64 signing requests; where it finds the
queue full it waits in hand. Otherwise, and while it waits, the security processor serves the queue. -/
def execMetersnap (group : Nat) (s : State) : Host.Outcome State Fault Refusal :=
  match s.inHand group with
  | none => .next s.serveSign
  | some t =>
    let m := pkArg t.packet
    if pkType t.packet ≠ 6 then .next s.serveSign
    else if !metersnapOk t.packet then s.answer group t .malformed 0
    else if !s.mayRead t m then s.answer group t .rejected 7
    else if 64 ≤ s.signQ.length then .next s.serveSign
    else
      let q : SignReq := ⟨m, t.part, BitVec.ofNat 64 (pkBody t.packet 0 8), dueOf t .completed 0, none⟩
      .next { (s.release group) with signQ := s.signQ ++ [q] }

end Sys2Proof.Machine
end

