-- ==== Sys2Proof/Machine/Paging.lean ====
section
/-! DEFINITION. What firmware does at a base die: pages resolved (R168) and invalidated (R169, R177), identifiers enabled and
disabled (R166), frames moved (R170, R171), notifications acknowledged (R173), memory scrubbed (R165). -/
namespace Sys2Proof.Machine

/-! ### Tables (R166 to R169) -/

/-- Table entries firmware writes in a stack's DRAM, each at a physical address. -/
def State.writeEntries (s : State) (stack : Nat) (l : List (Nat × BitVec 64)) : State :=
  { s with dram := l.foldl (fun (m : Memory) (x : Nat × BitVec 64) => m.writeN (dramKey stack x.1) (leBytes 8 x.2.toNat)) s.dram }

/-- Bytes of DRAM zeroed, their granules good again. -/
def State.zeroDram (s : State) (key n : Nat) : State :=
  let out (a : Nat) : Bool := !decide (key ≤ a ∧ a < key + n)
  { s with
    dram := ⟨s.dram.cells.filter fun c => out c.1⟩
    poison := s.poison.filter fun g => out (32 * g)
    symErr := s.symErr.filter fun g => out (32 * g.1) }

/-- Translation-cache entries that meet a range of pages are dropped. -/
def BaseDie.dropTlb (d : BaseDie) (asid page n : Nat) : BaseDie :=
  { d with tlb := d.tlb.filter fun e => !(e.asid == asid && decide (e.page < page + n ∧ page < e.page + e.pages)) }

/-- The places of a table that hold something: entries of zeros are not valid. -/
def State.tablePlaces (s : State) (stack table entries : Nat) : List Nat :=
  let lo := dramKey stack table
  ((s.dram.cells.filter fun c => decide (lo ≤ c.1 ∧ c.1 < lo + 8 * entries)).map fun c => (c.1 - lo) / 8).eraseDups

/-- A valid entry that the walks of an identifier reach: its physical address, the identifier, and the pages below it. -/
structure LiveEntry where
  place : Nat
  asid  : Nat
  page  : Nat
  pages : Nat
deriving DecidableEq, Repr

/-- The valid entries at and below a table that maps the pages from `page` on. -/
def State.liveUnder (s : State) (stack asid : Nat) : List (Nat × Nat × Nat) → Nat → Nat → List LiveEntry
  | [], _, _ => []
  | (shift, entries, below) :: t, table, page =>
    (s.tablePlaces stack table entries).flatMap fun i =>
      let at_ := table + 8 * i
      let e := s.tableEntry stack at_
      let n := 2 ^ (shift - 16)
      if !pteV e then []
      else ⟨at_, asid, page + i * n, n⟩ ::
        (if shift ≠ 16 ∧ nextOk e below then s.liveUnder stack asid t (pteNext e) (page + i * n) else [])

/-- The valid entries of a stack's tables. -/
def State.live (s : State) (stack : Nat) : List LiveEntry :=
  (s.die stack).root.flatMap fun r =>
    if pteV r.2 && nextOk r.2 65536 then s.liveUnder stack r.1 walkLevels (pteNext r.2) 0 else []

/-- The legal leaves of a stack's tables. -/
def State.leaves (s : State) (stack : Nat) : List (BitVec 64 × Nat) :=
  (s.live stack).filterMap fun x =>
    let e := s.tableEntry stack x.place
    if (x.pages = 1 ∨ x.pages = 32) ∧ leafOk e x.pages then some (e, x.pages) else none

/-- A leaf binds no meter, or one allotted to the partition of its stack (R368). -/
def State.meterOk (s : State) (stack : Nat) (leaf : BitVec 64) : Bool :=
  !pteMet leaf || s.allots.any fun a => a.meter == pteMeter leaf
    && (match s.part? a.part with | some p => p.hasStack stack | none => false)

/-- No page of a stack is bound to a meter that is not its partition's (R368). -/
def State.metersOk (s : State) (stack : Nat) : Bool := (s.leaves stack).all fun x => s.meterOk stack x.1

/-- The bytes of the tables that entries mapping some pages point to (R166). -/
def tableSize (pages : Nat) : Nat := if pages = 32 then 256 else 4096

/-- The frames in which the page tables of a stack stand. -/
def State.tableFrames (s : State) (stack : Nat) : List Nat :=
  ((s.die stack).root.filterMap fun r => if pteV r.2 && nextOk r.2 65536 then some (pteNext r.2 / 65536) else none)
    ++ (s.live stack).filterMap fun x =>
      let e := s.tableEntry stack x.place
      if x.pages ≠ 1 ∧ nextOk e (tableSize x.pages) then some (pteNext e / 65536) else none

/-- The frames of a stack that hold frames of its peers, or are reserved for them (R170). -/
def State.reservedFrames (s : State) (stack : Nat) : List Nat :=
  s.dies.toList.flatMap fun d => d.frames.filterMap fun x => if x.2.state ≠ 0 ∧ x.2.loc = stack then some x.2.pframe else none

/-- A leaf's page covers a frame. -/
def covers (e : BitVec 64) (pages frame : Nat) : Bool := decide (pteFrame e ≤ frame ∧ frame < pteFrame e + pages)

/-- The tables of a stack are firmware's alone: no page of it covers a frame of a table (R167) or one reserved for a peer's frame,
no table stands in such a frame (R170), and no page is bound to another partition's meter (R368). -/
def State.tablesOk (s : State) (stack : Nat) : Bool :=
  let tables := s.tableFrames stack
  let kept := s.reservedFrames stack
  (s.leaves stack).all (fun x => !(tables ++ kept).any (covers x.1 x.2)) && tables.all (fun f => !kept.contains f) && s.metersOk stack

/-- Entries that firmware writes lie in tables of the stack that they make. -/
def State.placesOk (s : State) (stack : Nat) (l : List (Nat × BitVec 64)) : Bool :=
  l.all fun x => x.1 % 8 == 0 && decide (x.1 < dramSize) && (s.tableFrames stack).contains (x.1 / 65536)

/-- Firmware may write entries: every valid entry keeps its value but for those whose pages all lie in an invalidated range
(R169), and the tables keep to R167, R170 and R368. -/
def State.mayWrite (s t : State) (stack : Nat) (inv : Option (Nat × Nat × Nat)) : Bool :=
  ((s.live stack).all fun x => t.tableEntry stack x.place == s.tableEntry stack x.place
      || (match inv with
          | some (asid, page, n) => x.asid == asid && decide (page ≤ x.page ∧ x.page + x.pages ≤ page + n)
          | none => false))
    && t.tablesOk stack

/-- The fault record of a page taken away, or marked refused. -/
def State.settleFault (s : State) (f : PageFault) (refused : Bool) : State :=
  let same (x : PageFault) : Bool := x.stack == f.stack && x.asid == f.asid && x.page == f.page
  { s with faults := if refused then s.faults.map fun (x : PageFault) => if same x then { x with refused := true } else x
                     else s.faults.filter fun x => !same x }

/-- A frame that firmware takes is zeroed: where its bytes are served from, and where a copy of it in progress puts them
(R168, R171). -/
def State.zeroFrame (s : State) (stack f : Nat) : State :=
  let x := (s.die stack).frame f
  let zero (s : State) (p : Nat × Nat) : State := s.zeroDram (dramKey p.1 (65536 * p.2)) 65536
  let s := zero s (x.source stack f)
  match x.dest? stack f with
  | some p => zero s p
  | none => s

/-- FAULT_RESOLUTION (R168): firmware maps a page it has been told of, taking and zeroing `frame` for a demand-zero leaf, or
where the entries give no legal mapping refuses it. A demand-zero page is never refused, and no valid entry changes (R169).
Headers of rings whose write had to wait are written. -/
def execFaultResolution (stack asid page : Nat) (entries : List (Nat × BitVec 64)) (frame : Option Nat) (s : State) :
    Host.Outcome State Fault Refusal :=
  match s.pageFault? stack asid page with
  | none => .next s
  | some f =>
    let dz := match s.walk stack asid (65536 * page) with | .unmapped d => d | _ => false
    let t := s.writeEntries stack entries
    match t.walk stack asid (65536 * page) with
    | .ok leaf pages =>
      if s.mayWrite t stack none && t.placesOk stack entries && (!dz || frame == some (pteFrame leaf)) then
        let t := if dz then (List.range pages).foldl (fun (t : State) i => t.zeroFrame stack (pteFrame leaf + i)) t else t
        .next (t.settleFault f false).sayRings
      else if dz then .next s else .next (s.settleFault f true).sayRings
    | _ => if dz then .next s else .next (s.settleFault f true).sayRings

/-- TRANSLATION_INVALIDATION (R169, R177): firmware rewrites entries of the range, and every later request to it walks the new
tables. It binds no meter that is not the partition's. -/
def execTranslationInvalidation (stack asid page n : Nat) (entries : List (Nat × BitVec 64)) (s : State) :
    Host.Outcome State Fault Refusal :=
  let t := s.writeEntries stack entries
  if !(s.mayWrite t stack (some (asid, page, n)) && t.placesOk stack entries) then .next s else
  let t := t.setDie stack ((t.die stack).dropTlb asid page n)
  .next { t with faults := t.faults.filter fun f =>
    !(f.stack == stack && f.asid == asid && f.refused && decide (page ≤ f.page ∧ f.page < page + n)) }

/-! ### Identifiers (R166) -/

/-- A root entry of an identifier that is valid in a stack. -/
def BaseDie.rootValid (d : BaseDie) (asid : Nat) : Bool := match lookupN d.root asid with | some e => pteV e | none => false

/-- Root entries written in the stacks of a partition, one for each. -/
def State.writeRoots (s : State) (p : Partition) (asid : Nat) (roots : List (BitVec 64)) : State :=
  roots.zipIdx.foldl (fun (s : State) (e, i) =>
    let d := s.die (p.first + i)
    s.setDie (p.first + i) { d with root := insertN d.root asid e }) s

/-- Root entries firmware may write: valid, legal, one for each stack. -/
def rootsOk (n : Nat) (roots : List (BitVec 64)) : Bool :=
  roots.length == n && roots.all fun e => pteV e && nextOk e 65536

/-- ASID_ENABLE (R166): refused when the identifier is enabled in another partition, or when its tables would map a table or a
reserved frame (R167, R170) or bind a page to a meter that is not this partition's (R368). -/
def execAsidEnable (part asid : Nat) (roots : List (BitVec 64)) (s : State) : Host.Outcome State Fault Refusal :=
  match s.part? part with
  | none => .next s
  | some p =>
    let taken := (List.range 8).any fun i => (s.die i).rootValid asid
    let t := s.writeRoots p asid roots
    if asid < 4096 ∧ rootsOk p.n roots ∧ !taken ∧ (List.range p.n).all (fun i => t.tablesOk (p.first + i)) then .next t
    else .next s

/-- ASID_DISABLE (R166, R169): refused while an open job or a loaded schedule names the identifier, and for the
partition's own firmware identifier. -/
def execAsidDisable (part asid : Nat) (s : State) : Host.Outcome State Fault Refusal :=
  match s.part? part with
  | none => .next s
  | some p =>
    let used := asid == p.fwAsid || (s.jobs.any fun j => j.part == part && j.asid == asid)
      || s.engines.toList.any fun e => e.scheds.any fun c => c.part == part && c.asid == asid
    if used then .next s else
    .next ((List.range p.n).foldl (fun (s : State) i =>
      let d := s.die (p.first + i)
      s.setDie (p.first + i) { d with root := eraseN d.root asid, tlb := d.tlb.filter fun e => e.asid != asid }) s)

/-! ### Migration (R170, R171, R173) -/

/-- A frame's entry changed. -/
def State.updFrame (s : State) (stack frame : Nat) (f : Frame → Frame) : State :=
  let d := s.die stack
  s.setDie stack (d.setFrame frame (f (d.frame frame)))

/-- Firmware of a stack can reserve a frame of it for another's (R170): no page table maps it or stands in it, no translation
in its cache leads to it, and no other moved frame occupies it. -/
def State.reservable (s : State) (stack frame : Nat) : Bool :=
  !((s.leaves stack).any fun x => covers x.1 x.2 frame) && !(s.tableFrames stack).contains frame
    && !((s.die stack).tlb.any fun e => covers e.leaf e.pages frame) && !(s.reservedFrames stack).contains frame

/-- COPY_OUT (R170, R171): a frame at home starts to move to a peer of its partition, into a frame reserved there. -/
def execCopyOut (stack frame loc pframe : Nat) (s : State) : Host.Outcome State Fault Refusal :=
  let peer := s.parts.any fun p => p.hasStack stack && p.hasStack loc
  if peer ∧ stack ≠ loc ∧ frame ≤ lastFrame ∧ pframe ≤ lastFrame ∧ ((s.die stack).frame frame).state = 0
      ∧ s.reservable loc pframe then
    .next (s.updFrame stack frame fun x => { x with state := 1, loc, pframe, copied := 0 })
  else .next s

/-- COPY_BACK (R171): a moved frame starts to return to its home. -/
def execCopyBack (stack frame : Nat) (s : State) : Host.Outcome State Fault Refusal :=
  if ((s.die stack).frame frame).state = 2 then
    .next (s.updFrame stack frame fun x => { x with state := 3, copied := 0 })
  else .next s

/-- One granule copied with its poison (R171). -/
def State.copyGranule (s : State) (src dst : Nat) : State :=
  let s := s.correct [src / 32]
  { s with
    dram := s.dram.writeN dst (s.dram.readN src 32)
    poison := if s.poison.contains (src / 32) then addN s.poison (dst / 32) else removeN s.poison (dst / 32)
    symErr := eraseN s.symErr (dst / 32) }

/-- MIGRATION_GRANULE_COPY (R171): the next of the frame's 2,048 granules, in ascending order. -/
def execMigrationGranuleCopy (stack frame : Nat) (s : State) : Host.Outcome State Fault Refusal :=
  let x := (s.die stack).frame frame
  match x.dest? stack frame with
  | none => .next s
  | some (ds, df) =>
    if 2048 ≤ x.copied then .next s else
    let (ss, sf) := x.source stack frame
    let at_ := 32 * x.copied
    .next ((s.copyGranule (dramKey ss (65536 * sf + at_)) (dramKey ds (65536 * df + at_))).updFrame stack frame fun x =>
      { x with copied := x.copied + 1 })

/-- MIGRATION_SWITCH (R171): the last granule is copied, and later requests are served at the new location. -/
def execMigrationSwitch (stack frame : Nat) (s : State) : Host.Outcome State Fault Refusal :=
  let x := (s.die stack).frame frame
  if x.copied ≠ 2048 then .next s
  else if x.state = 1 then .next (s.updFrame stack frame fun x => { x with state := 2, copied := 0 })
  else if x.state = 3 then .next (s.updFrame stack frame fun x => { x with state := 0, copied := 0 })
  else .next s

/-- MQ_ACK (R173): QUEUED is cleared and the eight counters zeroed. -/
def execMqAck (stack frame : Nat) (s : State) : Host.Outcome State Fault Refusal :=
  .next (s.updFrame stack frame fun x => { x with queued := false, ctr := Vector.replicate 8 0 })

/-- SCRUB (R165): a granule is read, corrected and written back, and no counter or meter sees it. -/
def execScrub (stack granule : Nat) (s : State) : Host.Outcome State Fault Refusal :=
  .next { s with symErr := eraseN s.symErr (2 ^ 31 * stack + granule) }

end Sys2Proof.Machine
end

