-- ==== Sys2Proof/Machine/Tideway.lean ====
section
/-! DEFINITION. The Tideway engine (R330 to R350): schedules loaded and unloaded, instances, the operations that fire, the chunks
that arrive, and the ends of an instance. -/
namespace Sys2Proof.Machine

/-! ### Parts of an engine -/

namespace TwEngine

/-- A loaded schedule. -/
def sched? (e : TwEngine) (num : Nat) : Option Sched := e.scheds.find? fun c => c.num == num
/-- An instance. -/
def inst? (e : TwEngine) (num inst : Nat) : Option TwInst := e.insts.find? fun i => i.sched == num && i.inst == inst
/-- An instance written in its place. -/
def setInst (e : TwEngine) (i : TwInst) : TwEngine :=
  { e with insts := e.insts.map fun x => if x.sched == i.sched && x.inst == i.inst then i else x }

end TwEngine

/-- An operation that has not fired. -/
def TwOpSt.idle : TwOpSt := ⟨false, false, none, false, none, 0⟩

/-- The code of an instance's state (R350). -/
def TwSt.code : TwSt → Nat
  | .running => 1 | .recovery => 2 | .complete => 3 | .failed => 4

namespace TwInst

/-- Where an operation stands. -/
def opSt (i : TwInst) (n : Nat) : TwOpSt := i.ops[n]?.getD TwOpSt.idle
/-- Where an operation stands, changed. -/
def updOp (i : TwInst) (n : Nat) (f : TwOpSt → TwOpSt) : TwInst :=
  { i with ops := i.ops.zipIdx.map fun (x, k) => if k == n then f x else x }
/-- Operations that have produced tokens (R349). -/
def tokens (i : TwInst) : Nat := (i.ops.filter (·.token)).length
/-- The instance runs or recovers. -/
def live (i : TwInst) : Bool := i.st == .running || i.st == .recovery
/-- A chunk of a running instance waits for credit, for its peer's window or behind another (R333, R347). -/
def stalls (i : TwInst) : Bool :=
  i.st == .running && i.ops.any fun o => match o.flight with | some f => f.stalled && !f.memory | none => false
/-- Time that a stall takes counts against no timeout (R333): when it ends, the last progress moves on by as much. -/
def stamp (i : TwInst) (now : Nat) : TwInst :=
  match i.stallAt, i.stalls with
  | none, true => { i with stallAt := some now }
  | some t, false => { i with stallAt := none, last := i.last + (now - max t i.last) }
  | _, _ => i

end TwInst

namespace Sched

/-- The destination position of an operation's chunk (R338). -/
def dest (c : Sched) (o : TwOp) : Nat := if o.abs then o.peer else (c.p + o.peer) % c.g
/-- The rank of a position. -/
def rankAt (c : Sched) (pos : Nat) : Nat := c.ranks.getD pos 0
/-- The address of a chunk (R338). -/
def addr (c : Sched) (ib : DWord) (len k : Nat) (rot : Bool) : DWord :=
  ib + BitVec.ofNat 64 (len * (if rot then (k + c.p) % c.g else k))
/-- Who asks for an operation's memory (R338). -/
def asker (c : Sched) : Asker := Machine.asker c.part (some c.asid)

end Sched

/-- Whether an operation sends a notify (R336). -/
def TwOp.notifies (o : TwOp) : Bool := o.op != .send && o.peer != 0

/-! ### Writing an instance back (R348 to R350) -/

/-- The table entry of an instance. -/
def TwInst.entryOf (i : TwInst) : TwEntry := ⟨i.inst, i.st.code, i.kind, i.fpos, i.sched⟩

/-- An instance written back, with its table entry unless a later start has taken it (R350). -/
def State.putInst (s : State) (die : Nat) (i : TwInst) : State :=
  let i := i.stamp s.now
  let e := (s.engine die).setInst i
  let own := match e.table[i.entry]? with | some x => x.sched == i.sched && x.inst == i.inst | none => false
  s.setEngine die (if own then { e with table := e.table.setIfInBounds i.entry i.entryOf } else e)

/-! ### Memory an engine reaches (R338, R340) -/

/-- What names a transfer of an operation: a number of its own for each kind, and the operation. -/
def TwInst.who (i : TwInst) (kind die n : Nat) : List Nat := [20 + kind, die, i.sched, i.inst, n]

/-- Transfers of an instance's operations given up. -/
def State.dropTw (s : State) (die : Nat) (i : TwInst) (p : Nat → Bool) : State :=
  s.dropMoves fun w => match w with
    | [k, d, c, x, n] => decide (20 ≤ k ∧ k < 25) && d == die && c == i.sched && x == i.inst && p n
    | _ => false

/-- Every token is produced and every notify acknowledged (R348). -/
def TwInst.finished (i : TwInst) (c : Sched) : Bool :=
  (c.ops.zipIdx.all fun (o, n) => (i.opSt n).token && (!o.notifies || (i.opSt n).notified))

/-- The fault with which a FAILED instance completes its warp's operation (R349). -/
def TwInst.fault (i : TwInst) : OpFault := ⟨i.kind, i.ib, i.tokens % 2 ^ 24⟩

/-- The starting warp's operation completes (R327, R349). -/
def State.endStarter (s : State) (i : TwInst) (f : Option OpFault) : State :=
  match i.starter with
  | some (w, seq) => s.completeOp w seq f
  | none => s

/-- Chunks an instance held are discarded (R348). -/
def State.dropHeld (s : State) (die : Nat) (i : TwInst) : State :=
  let e := s.engine die
  s.setEngine die { e with held := e.held.filter fun c => !(c.sched == i.sched && c.inst == i.inst) }

/-- An instance written back, COMPLETE or FAILED where it now is (R348). -/
def State.settleInst (s : State) (die : Nat) (c : Sched) (i : TwInst) : State :=
  let s := if i.st = .running then s else s.dropTw die i fun _ => true
  if i.st = .running ∧ i.finished c then
    let i := { i with st := .complete }
    (s.putInst die i).endStarter i none
  else if i.st = .recovery ∧ (i.ops.all fun o => o.flight.isNone) then
    let i := { i with st := .failed }
    ((s.putInst die i).dropHeld die i).endStarter i (some i.fault)
  else s.putInst die i

/-! ### Chunks sent (R340, R345, R347) -/

/-- A chunk enters the link. -/
def State.transmit (s : State) (die rank : Nat) (c : Chunk) : State :=
  let e := s.engine die
  s.setEngine die { e with outbox := (rank, c) :: e.outbox }

/-- The word of FAIL and NACK_FAILED (R345). -/
def failWord (kind pos : Nat) : Word := BitVec.ofNat 32 (kind + 16 * pos)

/-- Units of credit that a chunk of `n` bytes takes (R347). The spec counts them for a chunk's bytes, and says of a FAIL alone
that it takes credit as any chunk does (R348): DESIGN CHOICE, every DATA, TOKEN and FAIL takes at least one (log 34). -/
def chunkUnits (n : Nat) : Nat := max 1 ((n + 4095) / 4096)

/-- Whether another rank's window takes an instance, as its credit last told (R333); a schedule's first instance is 1. -/
def TwEngine.peerTakes (e : TwEngine) (c : Sched) (rank inst : Nat) : Bool :=
  let d := (inst + 65536 - (lookupN e.peers (65536 * rank + c.num)).getD 1) % 65536
  decide (d ≤ 1 ∨ 32768 ≤ d)

/-- A transfer that waits to leave. -/
def TwOpSt.waits (x : TwOpSt) : Bool := match x.flight with | some f => f.stalled | none => false

/-- The transfers to a rank that wait and whose instance its window takes, in the order their operations fired (R347). -/
def TwEngine.waiting (e : TwEngine) (rank : Nat) : List (Nat × OpRef) :=
  e.insts.foldl (fun l i => match e.sched? i.sched with
    | none => l
    | some c => if i.st ≠ .running ∨ !e.peerTakes c rank i.inst then l else
      c.ops.zipIdx.foldl (fun l (o, n) =>
        if c.rankAt (c.dest o) == rank && (i.opSt n).waits then insertN l (i.opSt n).order ⟨0, i.sched, i.inst, n⟩ else l) l) []

/-- A chunk may leave for a rank, and takes its credit (R333, R347, R351): the rank's window takes its instance, and no chunk of
an operation that fired before `order` still waits to go there. -/
def State.leave (s : State) (die : Nat) (c : Sched) (inst rank order units : Nat) : Option State :=
  let e := s.engine die
  if !e.peerTakes c rank inst || (e.waiting rank).any (fun x => decide (x.1 < order)) then none else s.takeCredit die rank units

/-- A FAIL chunk for a position: it leaves, or waits for credit as any chunk does (R348). -/
def State.sendFail (s : State) (die : Nat) (c : Sched) (i : TwInst) (q attempt : Nat) : State :=
  let put (s : State) (stalled : Bool) : State :=
    s.putInst die { i with failing := insertN i.failing q ⟨attempt, s.now, stalled, false⟩ }
  match s.leave die c i.inst (c.rankAt q) 0 (chunkUnits 0) with
  | none => put s true
  | some s => (put s false).transmit die (c.rankAt q) ⟨7, attempt, c.num, i.inst, 0, c.p, 0, failWord i.kind i.fpos, []⟩

/-- A rank's own failure: the instance is FAILED with a kind, and FAIL goes to every other position (R348). -/
def State.failInst (s : State) (die : Nat) (c : Sched) (i : TwInst) (kind : Nat) : State :=
  let others := (List.range c.g).filter (· != c.p)
  let i := { i with
    st := .failed, kind, fpos := c.p, failing := others.map fun q => (q, ⟨0, s.now, true, false⟩)
    ops := i.ops.map fun (o : TwOpSt) => { o with flight := none } }
  let s := (((s.dropTw die i fun _ => true).putInst die i).dropHeld die i).endStarter i (some i.fault)
  others.foldl (fun (s : State) q => match (s.engine die).inst? i.sched i.inst with
    | some i => s.sendFail die c i q 0
    | none => s) s

/-- An instance enters RECOVERY with the kind and first failing position it was told (R348). Sends that had not left end
at once. -/
def TwInst.recover (i : TwInst) (kind pos : Nat) : TwInst :=
  { i with
    st := .recovery, kind, fpos := pos
    ops := i.ops.map fun (o : TwOpSt) => if o.waits then { o with flight := none } else o }

/-- POISON_CONSUMED or SHADOW reported to firmware by an engine (R139, R340). -/
def State.reportCheck (s : State) (die : Nat) (m : MCheck) : State :=
  s.logEvent die ⟨s.now, 0x02, 0x80 + die, 0xFF, 0xFF, 0xFF, m.code, 0, 0, 0, 0⟩

/-- Bytes an engine reads under its schedule's identifier; another rank's memory is none of its own (R338). -/
def State.twRead (s : State) (who : List Nat) (a : Asker) (addr : DWord) (n : Nat) :
    State × Option (List (Byte × Bool) × Option (Nat × DWord)) :=
  s.transferParts who addr n none (requestsOf addr (n + 1) 0 n) fun s off m =>
    if rankOf (addr + BitVec.ofNat 64 off) ≠ s.rank then .reply s (zeros m) (some 4)
    else s.serve a (addr + BitVec.ofNat 64 off) m .read

/-- An operation fires: its place in the order of R347, and its instance's progress (R348). -/
def State.fire (s : State) (die : Nat) (i : TwInst) (n : Nat) : State × TwInst :=
  if (i.opSt n).fired then (s, i) else
  let e := s.engine die
  (s.setEngine die { e with fireNo := e.fireNo + 1 },
   { i.updOp n fun x => { x with fired := true, order := e.fireNo } with last := s.now })

/-- A SEND transmits its chunk, reading its bytes now (R331, R340): it waits for the link or for its memory, and a fault fails
the instance. -/
def State.trySend (s : State) (die : Nat) (c : Sched) (i : TwInst) (n : Nat) (o : TwOp) (attempt : Nat) : State :=
  let rank := c.rankAt (c.dest o)
  let fly (s : State) (stalled memory : Bool) : State :=
    s.putInst die (i.updOp n fun x => { x with flight := some ⟨attempt, s.now, stalled, memory⟩ })
  let out (s : State) : Option State := s.leave die c i.inst rank (i.opSt n).order (chunkUnits o.len)
  if (out s).isNone then fly s true false else
  match s.twRead (i.who 0 die n) c.asker (c.addr i.ib o.len o.k o.rot) o.len with
  | (s, none) => fly s true true
  | (s, some (bs, f)) =>
    if bs.any (·.2) then (s.reportCheck die .poisonConsumed).failInst die c i 2
    else match f, out s with
      | some (k, _), _ => s.failInst die c i k
      | none, none => fly s true false
      | none, some s => (fly s false false).transmit die rank ⟨1, attempt, c.num, i.inst, o.top, c.p, n, BitVec.ofNat 32 o.len, bs⟩

/-- A notify transmitted (R340), or waiting for the link. -/
def State.sendNotify (s : State) (die : Nat) (c : Sched) (i : TwInst) (n : Nat) (o : TwOp) (attempt : Nat) : State :=
  let rank := c.rankAt (c.dest o)
  let fly (s : State) (stalled : Bool) : State :=
    s.putInst die (i.updOp n fun x => { x with flight := some ⟨attempt, s.now, stalled, false⟩ })
  match s.leave die c i.inst rank (i.opSt n).order (chunkUnits 0) with
  | none => fly s true
  | some s => (fly s false).transmit die rank ⟨2, attempt, c.num, i.inst, o.top, c.p, n, 0, []⟩

/-- An operation's transfer that waited tries to leave again. -/
def State.resumeOp (s : State) (die : Nat) (r : OpRef) : State :=
  let e := s.engine die
  match e.sched? r.sched, e.inst? r.sched r.inst with
  | some c, some i => match c.ops[r.op]?, (i.opSt r.op).flight with
    | some o, some f =>
      if !f.stalled ∨ i.st ≠ .running then s
      else if o.op = .send then s.trySend die c i r.op o f.attempt else s.sendNotify die c i r.op o f.attempt
    | _, _ => s
  | _, _ => s

/-- FAIL chunks for a rank that wait, as an instance and a position. -/
def TwEngine.failsTo (e : TwEngine) (rank : Nat) : List (Nat × Nat × Nat × Nat) :=
  e.insts.flatMap fun i => match e.sched? i.sched with
    | none => []
    | some c => i.failing.filterMap fun (q, f) => if f.stalled && c.rankAt q == rank then some (i.sched, i.inst, q, f.attempt) else none

/-- What waits to leave for a rank goes out as far as its credit lasts: first transfers, in the order their operations fired
(R347), then FAIL chunks. -/
def State.resumePeer (s : State) (die rank : Nat) : State :=
  let s := ((s.engine die).waiting rank).foldl (fun (s : State) x => s.resumeOp die x.2) s
  ((s.engine die).failsTo rank).foldl (fun (s : State) (num, inst, q, attempt) =>
    match (s.engine die).sched? num, (s.engine die).inst? num inst with
    | some c, some i => s.sendFail die c i q attempt
    | _, _ => s) s

/-- An operation's token exists, and its notify goes out (R340). -/
def State.giveToken (s : State) (die : Nat) (c : Sched) (i : TwInst) (n : Nat) (o : TwOp) : State :=
  let (s, i) := s.fire die i n
  let i := i.updOp n fun x => { x with token := true }
  if o.notifies then s.sendNotify die c i n o 0 else s.settleInst die c i

/-- A reply to a chunk: it copies the schedule, instance and operation fields (R345). -/
def State.reply (s : State) (die rank : Nat) (p : Nat) (kind sched inst top opIx : Nat) (word : Word) : State :=
  s.transmit die rank ⟨kind, 0, sched, inst, top, p, opIx, word, []⟩

/-! ### Firing (R330, R340) -/

/-- An operation of a running instance whose inputs are present and which has not fired. -/
structure Ready where
  c : Sched
  i : TwInst
  o : TwOp

/-- The operation an event names, if it may fire (R330). -/
def State.ready (s : State) (r : OpRef) : Option Ready :=
  let e := s.engine r.die
  match e.sched? r.sched, e.inst? r.sched r.inst with
  | some c, some i => match c.ops[r.op]? with
    | some o =>
      if i.st = .running ∧ !(i.opSt r.op).fired ∧ o.ins.all (fun k => (i.opSt k).token) then some ⟨c, i, o⟩ else none
    | none => none
  | _, _ => none

/-- The chunks held for an operation. -/
def TwEngine.heldFor (e : TwEngine) (r : OpRef) : List Chunk :=
  e.held.filter fun c => c.sched == r.sched && c.inst == r.inst && c.top == r.op

/-- The rank for which a stalled transfer of an operation waits. The operation number 4096 + q stands for the FAIL chunk to
position q. -/
def State.stalledFor (s : State) (r : OpRef) : Option Nat :=
  let e := s.engine r.die
  match e.sched? r.sched, e.inst? r.sched r.inst with
  | some c, some i =>
    if 4096 ≤ r.op then if (lookupN i.failing (r.op - 4096)).any (·.stalled) then some (c.rankAt (r.op - 4096)) else none
    else match c.ops[r.op]? with
      | some o => if (i.opSt r.op).waits then some (c.rankAt (c.dest o)) else none
      | none => none
  | _, _ => none

/-- CHUNK_SEND (R340): a SEND fires and transmits its chunk. For an operation whose transfer waits, the engine tries again what
waits to leave for its peer (R163, R347). -/
def execChunkSend (r : OpRef) (s : State) : Host.Outcome State Fault Refusal :=
  match s.ready r, s.stalledFor r with
  | some x, _ =>
    if x.o.op = .send then
      let (s, i) := s.fire r.die x.i r.op
      .next (s.trySend r.die x.c i r.op x.o 0)
    else .next s
  | none, some rank => .next (s.resumePeer r.die rank)
  | none, none => .next s

/-- One request of a write, poison with its bytes (R340). -/
def State.twWriteOne (s : State) (a : Asker) (addr : DWord) (bs : List (Byte × Bool)) : Serve :=
  let n := bs.length
  match s.locate a addr n true with
  | .hold s => .hold s
  | .fault s k => .reply s [] (some k)
  | .at s p =>
    let data := bs.map (·.1)
    let put (s : State) (key : Nat) : State × Bool :=
      let (s, bad) := s.dramWrite key data fun _ => true
      (s.taintDram (bs.zipIdx.filterMap fun x => if x.1.2 then some ((key + x.2) / 32) else none), bad)
    let (s, bad) := put (s.recordWrite a (.write data (BitVec.allOnes 64)) p.home n) p.key
    let s := match p.mirror with | some k => (put s k).1 | none => s
    .reply s [] (if bad then some 2 else none)

/-- Bytes written to memory by an engine, poison with them (R340), each request on its own (R163); the first fault's kind, or
none while a request waits. -/
def State.twPut (s : State) (who : List Nat) (a : Asker) (addr : DWord) (bs : List (Byte × Bool)) : State × Option (Option Nat) :=
  let n := bs.length
  let (s, r) := s.transferParts who addr n (some (bs.map (·.1))) (requestsOf addr (n + 1) 0 n) fun s off m =>
    s.twWriteOne a (addr + BitVec.ofNat 64 off) ((bs.drop off).take m)
  (s, r.map fun x => x.2.map (·.1))

/-- Where an element's requests reach DRAM, each with its size. -/
inductive Spots where
  | fault (s : State) (kind : Nat)
  | hold (s : State)
  | at (s : State) (ps : List (Spot × Nat))

/-- The spots of an element's requests, an offset and a size each: more than one where a page boundary cuts it. -/
def State.spots (s : State) (a : Asker) (addr : DWord) : List (Nat × Nat) → Spots
  | [] => .at s []
  | (off, m) :: t => match s.locate a (addr + BitVec.ofNat 64 off) m true with
    | .hold s => .hold s
    | .fault s k => .fault s k
    | .at s p => match s.spots a addr t with
      | .at s ps => .at s ((p, m) :: ps)
      | r => r

/-- An element reduced in place (R190, R340): a poisoned element on either side gives a poisoned element; a shadow divergence
leaves it unchanged, is reported to firmware and gives kind 2. -/
def State.twReduceOne (s : State) (die : Nat) (a : Asker) (op ty : Nat) (addr : DWord) (x : Nat) (bad : Bool) : Serve :=
  let n := redSize ty
  match s.spots a addr (requestsOf addr (n + 1) 0 n) with
  | .hold s => .hold s
  | .fault s k => .reply s [] (some k)
  | .at s ps =>
    let old := ps.flatMap fun (p, m) => s.dramRead p.key m
    let keys := ps.flatMap fun (p, m) => (p.key, m) :: (p.mirror.toList.map fun k => (k, m))
    if bad || old.any (·.2) then .reply (s.taintDram (keys.flatMap fun (k, m) => granulesOf k m)) [] none
    else
      let s := s.correct (ps.flatMap fun (p, m) => granulesOf p.key m)
      match s.reduceOne op ty (leNat (old.map (·.1))) x with
      | (s, none) => .reply (s.reportCheck die .shadow) [] (some 2)
      | (s, some v) =>
        let data := leBytes n v
        let (s, _) := ps.foldl (fun (z : State × Nat) (p, m) =>
          let part := (data.drop z.2).take m
          let s := (z.1.dramWrite p.key part fun _ => true).1
          (match p.mirror with | some k => (s.dramWrite k part fun _ => true).1 | none => s, z.2 + m)) (s, 0)
        .reply s [] none

/-- The elements of a chunk reduced one after another, ascending, each indivisibly and on its own (R340); the first fault's
kind, or none while an element waits. -/
def State.twReduce (s : State) (die : Nat) (who : List Nat) (a : Asker) (op ty : Nat) (addr : DWord) (bs : List (Byte × Bool)) :
    State × Option (Option Nat) :=
  let n := redSize ty
  let (s, r) := s.transferParts who addr bs.length (some (bs.map (·.1))) ((List.range (bs.length / n)).map fun e => (n * e, n))
    fun s off m =>
      let e := (bs.drop off).take m
      s.twReduceOne die a op ty (addr + BitVec.ofNat 64 off) (leNat (e.map (·.1))) (e.any (·.2))
  (s, r.map fun x => x.2.map (·.1))

/-- A chunk leaves the matching store. -/
def State.takeHeld (s : State) (r : OpRef) : State :=
  let e := s.engine r.die
  s.setEngine r.die { e with held := e.held.filter fun c => !(c.sched == r.sched && c.inst == r.inst && c.top == r.op) }

/-- The ACK of an operation's chunk (R341), then its token. -/
def State.ackAndToken (s : State) (r : OpRef) (x : Ready) (from_ : Nat × Nat) : State :=
  let s := s.reply r.die (x.c.rankAt from_.1) x.c.p 3 r.sched r.inst r.op from_.2 0
  s.giveToken r.die x.c x.i r.op x.o

/-- CHUNK_RECV (R340): the arrived chunk is written. -/
def execChunkRecv (r : OpRef) (s : State) : Host.Outcome State Fault Refusal :=
  match s.ready r, ((s.engine r.die).heldFor r).head? with
  | some x, some k =>
    if x.o.op ≠ .recv then .next s else
    match s.twPut (x.i.who 1 r.die r.op) x.c.asker (x.c.addr x.i.ib x.o.len x.o.k x.o.rot) k.data with
    | (s, none) => .next s
    | (s, some (some f)) => .next ((s.takeHeld r).failInst r.die x.c x.i f)
    | (s, some none) => .next ((s.takeHeld r).ackAndToken r x (k.pos, k.opIx))
  | _, _ => .next s

/-- CHUNK_RED (R340): the arrived chunk is reduced into the buffer. -/
def execChunkRed (r : OpRef) (s : State) : Host.Outcome State Fault Refusal :=
  match s.ready r, ((s.engine r.die).heldFor r).head? with
  | some x, some k =>
    if x.o.op ≠ .red ∨ x.o.redop = 3 then .next s else
    match s.twReduce r.die (x.i.who 2 r.die r.op) x.c.asker (x.o.redop + 1) x.o.rtype
        (x.c.addr x.i.ib x.o.len x.o.k x.o.rot) k.data with
    | (s, none) => .next s
    | (s, some (some f)) => .next ((s.takeHeld r).failInst r.die x.c x.i f)
    | (s, some none) => .next ((s.takeHeld r).ackAndToken r x (k.pos, k.opIx))
  | _, _ => .next s

/-- The reduce block of a slot dispatched as a launch (R343), which Strandline records (R145); none where its job or kernel is
gone. -/
def State.dispatchReduce (s : State) (die : Nat) (c : Sched) (i : TwInst) (slot : Nat) : Option State :=
  match c.descs[slot]? with
  | none => none
  | some d => match s.job? c.part d.job, (s.code? c.part d.code).bind fun co => co.kernels[d.kernel]?.map fun k => (co, k) with
    | some j, some (co, k) =>
      let words : List Word := [loWord i.ib, hiWord i.ib, BitVec.ofNat 32 i.inst, BitVec.ofNat 32 c.p, BitVec.ofNat 32 slot]
      let r : LaunchRec := ⟨d.code, d.kernel, 0, 0xC#32, co.hash, 1, 1, 1, 1, 0, s.now + d.budget, 0, noEntry, 0, 0, 0, 0, 5, words, false⟩
      let l : Launch := {
        lid := s.nextLid, origin := .reduce die c.num i.inst slot, tag := 0, compl := 0, irq := false, vec := 0, pass := 0,
        part := c.part, job := some j.id, packet := [], rcd := some r, kern := some k, asid := some j.asid, wrap := k.wrap,
        budget := k.budget, repeats := false, st := .queued, counter := 1, work := 0, used := 0, ebbAt := none,
        cancelled := false, gangFailed := false, overBudget := false, flags := [], dbgCauses := [], next := 0, w0 := none,
        gangs := [], status := none }
      some (({ s with nextLid := s.nextLid + 1, launches := s.launches ++ [l] } : State).logFront c.part 0x08 0 l.lid 0)
    | _, _ => none

/-- CHUNK_RED_DISPATCH (R342): as RECV, then the slot's counter falls; at zero its reduce block is dispatched. Token and
ACK wait for the block's end. -/
def execChunkRedDispatch (r : OpRef) (s : State) : Host.Outcome State Fault Refusal :=
  match s.ready r, ((s.engine r.die).heldFor r).head? with
  | some x, some k =>
    if x.o.op ≠ .red ∨ x.o.redop ≠ 3 then .next s else
    match s.twPut (x.i.who 1 r.die r.op) x.c.asker (x.c.addr x.i.ib x.o.len x.o.k x.o.rot) k.data with
    | (s, none) => .next s
    | (s, some (some f)) => .next ((s.takeHeld r).failInst r.die x.c x.i f)
    | (s, some none) =>
      let left := (lookupN x.i.slots x.o.dslot).getD 1 - 1
      let (s, i) := s.fire r.die x.i r.op
      let i := { i.updOp r.op fun y => { y with src := some (k.pos, k.opIx) } with slots := insertN i.slots x.o.dslot left }
      let s := (s.takeHeld r).putInst r.die i
      if left ≠ 0 then .next s else
      match s.dispatchReduce r.die x.c i x.o.dslot with
      | some s => .next s
      | none => .next (s.failInst r.die x.c i 4)
  | _, _ => .next s

/-- REDUCE_BLOCK_END (R342, R343): the block has ended; its operations produce their tokens and send their ACKs together,
or the instance fails. -/
def execReduceBlockEnd (lid : Nat) (s : State) : Host.Outcome State Fault Refusal :=
  match s.launch? lid with
  | none => .next s
  | some l => match l.origin, l.status with
    | .reduce die num inst slot, some (_, reason) =>
      let s : State := { s with launches := s.launches.filter fun (x : Launch) => x.lid != lid }
      match (s.engine die).sched? num, (s.engine die).inst? num inst with
      | some c, some i =>
        if i.st ≠ .running then .next s
        else if reason ≠ 0 then .next (s.failInst die c i 4)
        else .next (c.ops.zipIdx.foldl (fun (s : State) (o, n) =>
          if o.op == .red && o.redop == 3 && o.dslot == slot then
            match (s.engine die).inst? num inst with
            | some i => match (i.opSt n).src with
              | some (pos, opIx) =>
                (s.reply die (c.rankAt pos) c.p 3 num inst n opIx 0).giveToken die c (i.updOp n fun y => { y with src := none }) n o
              | none => s
            | none => s
          else s) s)
      | _, _ => .next s
    | _, _ => .next s

/-- CHUNK_COPY (R340): bytes move between chunks, as by memmove; poison is consumed. -/
def execChunkCopy (r : OpRef) (s : State) : Host.Outcome State Fault Refusal :=
  match s.ready r with
  | none => .next s
  | some x =>
    if x.o.op ≠ .copy then .next s else
    let (c, i, o) := (x.c, x.i, x.o)
    let src := c.addr i.ib o.len o.k o.rot
    match s.twRead (i.who 3 r.die r.op) c.asker src o.len with
    | (s, none) => .next s
    | (s, some (bs, f)) =>
      if bs.any (·.2) then .next ((s.reportCheck r.die .poisonConsumed).failInst r.die c i 2)
      else match f with
        | some (k, _) => .next (s.failInst r.die c i k)
        | none => match s.twPut (i.who 4 r.die r.op) c.asker (c.addr i.ib o.len o.kb o.rotb) bs with
          | (s, none) => .next (s.keepRead (i.who 3 r.die r.op) src (bs.map (·.1)))
          | (s, some (some k)) => .next (s.failInst r.die c i k)
          | (s, some none) => .next (s.giveToken r.die c i r.op o)

/-- Sending operations of some chunks, once each. -/
def senders (l : List Chunk) : List (Nat × Nat) :=
  l.foldl (fun a c => if a.contains (c.pos, c.opIx) then a else (c.pos, c.opIx) :: a) []

/-- CHUNK_WAIT (R340, R346): the tokens of as many distinct sending operations as it needs are held. -/
def execChunkWait (r : OpRef) (s : State) : Host.Outcome State Fault Refusal :=
  match s.ready r with
  | none => .next s
  | some x =>
    if x.o.op ≠ .wait ∨ (senders ((s.engine r.die).heldFor r)).length < x.o.narr then .next s
    else .next ((s.takeHeld r).giveToken r.die x.c x.i r.op x.o)

/-! ### Chunks that arrive (R333, R345, R346) -/

/-- A chunk's header from its 16 bytes, none where the KIND is another or a reserved field is not zero (R345). -/
def parseHdr (kind : Nat) (bs : List Byte) : Option Chunk :=
  let top := fieldAt bs 6 2
  let pos := fieldAt bs 8 2
  let opIx := fieldAt bs 0x0A 2
  let word := fieldAt bs 0x0C 4
  if fieldAt bs 0 1 = kind ∧ fieldAt bs 1 1 < 16 ∧ top < 4096 ∧ pos < 512 ∧ opIx < 4096
      ∧ (kind = 1 ∨ ((kind = 6 ∨ kind = 7) ∧ word < 2 ^ 13) ∨ word = 0) then
    some ⟨kind, fieldAt bs 1 1, fieldAt bs 2 2, fieldAt bs 4 2, top, pos, opIx, BitVec.ofNat 32 word, []⟩
  else none

/-- The fault kind and position in a FAIL or NACK_FAILED. -/
def Chunk.failed (c : Chunk) : Nat × Nat := (c.word.toNat % 16, c.word.toNat / 16 % 512)

/-- The oldest instance of a schedule not yet complete, or the next to start (R333). -/
def TwEngine.oldest (e : TwEngine) (c : Sched) : Nat :=
  ((e.insts.find? fun i => i.sched == c.num && i.live).map (·.inst)).getD ((c.starts + 1) % 65536)

/-- The instance that an arriving chunk names, where it has started and runs or is of the latest 2^15 starts: numbers come again
after 2^16 starts, and one ahead of the starts names no instance that ended (R333). -/
def TwEngine.named? (e : TwEngine) (c : Sched) (inst : Nat) : Option TwInst :=
  (e.inst? c.num inst).filter fun i => i.live || decide (32768 ≤ (inst + 65535 - c.starts % 65536) % 65536)

/-- Where an arriving chunk's instance stands (R333). -/
inductive Window where
  | past | inside | beyond
deriving DecidableEq, Repr

/-- An instance number against the window of m and m + 1. -/
def TwEngine.window (e : TwEngine) (c : Sched) (inst : Nat) : Window :=
  let d := (inst + 65536 - e.oldest c) % 65536
  if d ≤ 1 then .inside else if 32768 ≤ d then .past else .beyond

/-- A chunk answered. -/
def State.answerChunk (s : State) (die rank : Nat) (p : Nat) (k : Chunk) (kind : Nat) (word : Word := 0) : State :=
  s.reply die rank p kind k.sched k.inst k.top k.opIx word

/-- A schedule that takes a chunk of a position, which matches the rank that sent it (R346). -/
def TwEngine.taker (e : TwEngine) (k : Chunk) (rank : Nat) : Option Sched :=
  match e.sched? k.sched with
  | some c => if k.pos < c.g ∧ c.rankAt k.pos = rank then some c else none
  | none => none

/-- An instance's progress noted (R348). -/
def State.noteProgress (s : State) (die : Nat) (i : Option TwInst) : State :=
  match i with
  | some i => s.putInst die { i with last := s.now }
  | none => s

/-- Room in the staging store of 16 MiB for a chunk (R347), half of it kept for each schedule's oldest instance: where there is
none the sender has no credit. The credit that this engine grants to its peers is no chunk, and has no other effect here. -/
def TwEngine.room (e : TwEngine) (c : Sched) (k : Chunk) : Bool :=
  let total (l : List Chunk) : Nat := l.foldl (fun n h => n + chunkUnits h.data.length) (chunkUnits k.data.length)
  let later := e.held.filter fun h => match e.sched? h.sched with | some x => h.inst != e.oldest x | none => false
  decide (total e.held ≤ 4096) && (k.inst == e.oldest c || decide (total later ≤ 2048))

/-- A DATA or TOKEN chunk past the checks of the first two rows of R346. A chunk that had no credit gets no answer: its sender
stalls (R333, R347). -/
def State.acceptChunk (s : State) (die rank : Nat) (c : Sched) (k : Chunk) (token : Bool) : State :=
  let e := s.engine die
  let i : Option TwInst := e.named? c k.inst
  let dead := i.any fun (i : TwInst) => i.st == TwSt.failed || i.st == TwSt.recovery
  if dead then
    let kind : Nat := (i.map fun (i : TwInst) => i.kind).getD 0
    let pos : Nat := (i.map fun (i : TwInst) => i.fpos).getD 0
    s.answerChunk die rank c.p k 6 (failWord kind pos)
  else match e.window c k.inst with
    | .beyond => s
    | .past => s.answerChunk die rank c.p k 3
    | .inside =>
      let st : TwOpSt := (i.map fun (i : TwInst) => i.opSt k.top).getD TwOpSt.idle
      let known := e.held.any fun h => h.sched == k.sched && h.inst == k.inst && h.top == k.top && h.pos == k.pos && h.opIx == k.opIx
      if st.fired then if st.token then s.answerChunk die rank c.p k 3 else s
      else if !known && !e.room c k then s
      else
        let s := if known then s else (s.setEngine die { e with held := e.held ++ [k] }).noteProgress die i
        if token then s.answerChunk die rank c.p k 3 else s

/-- DATA (R346). `rank` is the package that sent the chunk; `check` false stands for a failed link check. -/
def execDataChunk (die rank : Nat) (hdr : List Byte) (data : List (Byte × Bool)) (check : Bool) (s : State) :
    Host.Outcome State Fault Refusal :=
  match parseHdr 1 hdr with
  | none => .next s
  | some k =>
    if !s.hasTideway ∨ 2 ≤ die then .next s else
    let e := s.engine die
    let p := ((e.sched? k.sched).map (·.p)).getD 0
    if !check then .next (s.answerChunk die rank p k 4) else
    match (e.taker k rank).bind fun c => (c.ops[k.top]?).map fun o => (c, o) with
    | some (c, o) =>
      if (o.op = .recv ∨ o.op = .red) ∧ data.length = o.len ∧ k.word.toNat = o.len then
        .next (s.acceptChunk die rank c { k with data } false)
      else .next (s.answerChunk die rank p k 5)
    | none => .next (s.answerChunk die rank p k 5)

/-- TOKEN (R346). -/
def execTokenChunk (die rank : Nat) (hdr : List Byte) (check : Bool) (s : State) : Host.Outcome State Fault Refusal :=
  match parseHdr 2 hdr with
  | none => .next s
  | some k =>
    if !s.hasTideway ∨ 2 ≤ die then .next s else
    let e := s.engine die
    let p := ((e.sched? k.sched).map (·.p)).getD 0
    if !check then .next (s.answerChunk die rank p k 4) else
    match (e.taker k rank).bind fun c => (c.ops[k.top]?).map fun o => (c, o) with
    | some (c, o) =>
      if o.op = .wait then .next (s.acceptChunk die rank c k true) else .next (s.answerChunk die rank p k 5)
    | none => .next (s.answerChunk die rank p k 5)

/-- FAIL (R348). -/
def execFailChunk (die rank : Nat) (hdr : List Byte) (check : Bool) (s : State) : Host.Outcome State Fault Refusal :=
  match parseHdr 7 hdr with
  | none => .next s
  | some k =>
    if !s.hasTideway ∨ 2 ≤ die then .next s else
    let e := s.engine die
    let p := ((e.sched? k.sched).map (·.p)).getD 0
    if !check then .next (s.answerChunk die rank p k 4) else
    match e.taker k rank with
    | none => .next (s.answerChunk die rank p k 5)
    | some c => match e.named? c k.inst with
      | some i =>
        let s := s.answerChunk die rank p k 3
        if i.st = .running then .next (s.settleInst die c (i.recover k.failed.1 k.failed.2)) else .next s
      | none => match e.window c k.inst with
        | .beyond => .next s
        | .past => .next (s.answerChunk die rank p k 3)
        | .inside =>
          let s := s.answerChunk die rank p k 3
          let e := s.engine die
          if e.fails.any fun h => h.sched == k.sched && h.inst == k.inst then .next s
          else .next (s.setEngine die { e with fails := e.fails ++ [k] })

/-! ### Replies (R331, R340, R348) -/

/-- A reply's schedule, instance and operation, where the operation has a transfer for which the position that sent it may
still reply: also one whose re-send waits to leave. -/
def State.replyTo (s : State) (die rank : Nat) (kind : Nat) (hdr : List Byte) : Option (Sched × TwInst × TwOp × Chunk × Flight) :=
  let e := s.engine die
  match parseHdr kind hdr with
  | none => none
  | some k => match e.taker k rank, e.inst? k.sched k.inst with
    | some c, some i => match c.ops[k.opIx]?, (i.opSt k.opIx).flight with
      | some o, some f => if c.dest o = k.pos ∧ !(f.stalled ∧ f.attempt = 0) then some (c, i, o, k, f) else none
      | _, _ => none
    | _, _ => none

/-- A FAIL chunk's position, where a reply answers one: the instance failed on this rank, and the position has not acknowledged the
FAIL that has gone out to it. R345 does not say what a FAIL's operation fields hold: DESIGN CHOICE, zeros, which its reply copies
(log 34). -/
def State.failReply (s : State) (die rank : Nat) (kind : Nat) (hdr : List Byte) : Option (Sched × TwInst × Nat × Flight) :=
  let e := s.engine die
  match parseHdr kind hdr with
  | none => none
  | some k => match e.taker k rank, e.inst? k.sched k.inst with
    | some c, some i => match lookupN i.failing k.pos with
      | some f => if k.top = 0 ∧ k.opIx = 0 ∧ !(f.stalled ∧ f.attempt = 0) then some (c, i, k.pos, f) else none
      | none => none
    | _, _ => none

/-- A SEND's token, or a notify's end, at its acknowledgement (R330, R340); in RECOVERY the transfer ends. -/
def TwInst.acked (i : TwInst) (o : TwOp) (n : Nat) : TwInst :=
  i.updOp n fun x => { x with flight := none, token := x.token || o.op == .send, notified := x.notified || o.op != .send }

/-- ACK (R330, R340, R348). -/
def execAckChunk (die rank : Nat) (hdr : List Byte) (s : State) : Host.Outcome State Fault Refusal :=
  match s.replyTo die rank 3 hdr with
  | some (c, i, o, k, _) => .next ((s.dropTw die i (· == k.opIx)).settleInst die c (i.acked o k.opIx))
  | none => match s.failReply die rank 3 hdr with
    | some (_, i, q, _) => .next (s.putInst die { i with failing := eraseN i.failing q })
    | none => .next s

/-- A transfer to be sent again after a rejection or a timeout (R331, R348): while attempts are left it goes out anew, else the
instance fails; in RECOVERY it ends. -/
def State.retry (s : State) (die : Nat) (c : Sched) (i : TwInst) (n : Nat) (o : TwOp) (f : Flight) : State :=
  if i.st = .recovery then s.settleInst die c (i.updOp n fun x => { x with flight := none })
  else if i.st ≠ .running then s
  else if o.retry ≤ f.attempt then s.failInst die c i 4
  else if o.op = .send then s.trySend die c i n o (f.attempt + 1)
  else s.sendNotify die c i n o (f.attempt + 1)

/-- A FAIL chunk sent again, up to 15 times (R348). -/
def State.retryFail (s : State) (die : Nat) (c : Sched) (i : TwInst) (q : Nat) (f : Flight) : State :=
  if 15 ≤ f.attempt then s.putInst die { i with failing := eraseN i.failing q }
  else s.sendFail die c i q (f.attempt + 1)

/-- NACK_SOFT (R331). Where the re-send that an earlier rejection or timeout asked for still waits to leave, it asks for no
other. -/
def execNackSoft (die rank : Nat) (hdr : List Byte) (s : State) : Host.Outcome State Fault Refusal :=
  match s.replyTo die rank 4 hdr with
  | some (c, i, o, k, f) => if f.stalled then .next s else .next (s.retry die c i k.opIx o f)
  | none => match s.failReply die rank 4 hdr with
    | some (c, i, q, f) => if f.stalled then .next s else .next (s.retryFail die c i q f)
    | none => .next s

/-- NACK_HARD (R348): the instance fails as the rank's own failure; in RECOVERY the transfer ends. -/
def execNackHard (die rank : Nat) (hdr : List Byte) (s : State) : Host.Outcome State Fault Refusal :=
  match s.replyTo die rank 5 hdr with
  | some (c, i, _, k, _) =>
    if i.st = .running then .next (s.failInst die c i 4)
    else .next (s.settleInst die c (i.updOp k.opIx fun x => { x with flight := none }))
  | none => .next s

/-- NACK_FAILED (R348): the transfer ends and the instance enters RECOVERY. -/
def execNackFailed (die rank : Nat) (hdr : List Byte) (s : State) : Host.Outcome State Fault Refusal :=
  match s.replyTo die rank 6 hdr with
  | some (c, i, _, k, _) =>
    let i := i.updOp k.opIx fun x => { x with flight := none }
    .next (s.settleInst die c (if i.st = .running then i.recover k.failed.1 k.failed.2 else i))
  | none => .next s

/-- ACK_TIMEOUT (R331, R348): ACKTO has passed since a transfer was sent. The operation number 4096 + q stands for the FAIL
chunk to position q. -/
def execAckTimeout (r : OpRef) (s : State) : Host.Outcome State Fault Refusal :=
  let e := s.engine r.die
  match e.sched? r.sched, e.inst? r.sched r.inst with
  | some c, some i =>
    if 4096 ≤ r.op then
      match lookupN i.failing (r.op - 4096) with
      | some f => if !f.stalled ∧ f.sentAt + c.ackto ≤ s.now then .next (s.retryFail r.die c i (r.op - 4096) f) else .next s
      | none => .next s
    else match c.ops[r.op]?, (i.opSt r.op).flight with
      | some o, some f =>
        if !f.stalled ∧ f.sentAt + c.ackto ≤ s.now then .next (s.retry r.die c i r.op o f) else .next s
      | _, _ => .next s
  | _, _ => .next s

/-- INSTANCE_IDLE_TIMEOUT (R348); time that a chunk stalls does not count (R333). -/
def execInstanceIdleTimeout (die sched inst : Nat) (s : State) : Host.Outcome State Fault Refusal :=
  let e := s.engine die
  match e.sched? sched, e.inst? sched inst with
  | some c, some i =>
    if i.st = .running ∧ c.itimeout ≠ 0 ∧ i.stallAt.isNone ∧ i.last + 1000 * c.itimeout ≤ s.now then .next (s.failInst die c i 4) else .next s
  | _, _ => .next s

/-- LINK_CREDIT (R333, R347): a peer grants credit, and may tell the oldest instance of a schedule there; what had stalled for it
goes out as far as the credit lasts. -/
def execLinkCredit (die rank : Nat) (grant : Grant) (s : State) : Host.Outcome State Fault Refusal :=
  let e := s.engine die
  let peers := match grant.window with
    | some (num, m) => insertN e.peers (65536 * rank + num % 65536) (m % 65536)
    | none => e.peers
  .next ((s.setEngine die { e with credit := insertN e.credit rank (e.creditOf rank + grant.units), peers }).resumePeer die rank)

/-! ### Starts (R348, R350) -/

/-- The counters of a schedule's reduce blocks at a start (R342). -/
def slotCounts (ops : List TwOp) : List (Nat × Nat) :=
  ops.foldl (fun l o => if o.op == .red && o.redop == 3 then insertN l o.dslot ((lookupN l o.dslot).getD 0 + 1) else l) []

/-- INSTANCE_START (R348, R350): the first start of the queue takes the lowest-numbered entry that is COMPLETE, FAILED or
free, and is numbered. -/
def execInstanceStart (die : Nat) (s : State) : Host.Outcome State Fault Refusal :=
  let e := s.engine die
  match e.queue with
  | [] => .next s
  | q :: rest =>
    let left (s : State) : State := s.setEngine die { (s.engine die) with queue := rest }
    match e.sched? q.sched with
    | none =>
      let s := left s
      .next (match q.starter, q.due with
        | some (w, seq), _ => s.completeOp w seq (some ⟨4, q.ib, 0⟩)
        | none, some d => { s with dues := s.dues ++ [{ d with status := .malformed }] }
        | none, none => s)
    | some c => match (List.range 64).find? fun n => match e.table[n]? with | some t => t.state != 1 && t.state != 2 | none => false with
      | none => .next s
      | some entry =>
        let inst := (c.starts + 1) % 65536
        let told := e.fails.find? fun k => k.sched == c.num && k.inst == inst
        let i : TwInst := ⟨c.num, inst, entry, q.ib, .running, 0, 0x1FF, c.ops.map fun _ => TwOpSt.idle,
          q.starter, slotCounts c.ops, s.now, [], none⟩
        let i := match told with | some k => i.recover k.failed.1 k.failed.2 | none => i
        let s := left s
        let e := s.engine die
        let s := s.setEngine die { e with
          scheds := e.scheds.map fun (x : Sched) => if x.num == c.num then { x with starts := inst } else x
          insts := e.insts.filter (fun x => !(x.sched == c.num && x.inst == inst)) ++ [i]
          fails := e.fails.filter fun k => !(k.sched == c.num && k.inst == inst)
          table := e.table.setIfInBounds entry i.entryOf }
        let s := match q.due with
          | some d => { s with dues := s.dues ++ [d] }
          | none => s
        .next (s.settleInst die { c with starts := inst } i)

/-! ### Loading (R334 to R337, R344) -/

/-- A chunk operation from its 16 bytes (R336). -/
def parseOp (bs : List Byte) : TwOp × Nat :=
  let x := leNat (bs.take 16)
  let kind : TwKind := match bitsOf x 0 4 with | 1 => .send | 2 => .recv | 3 => .red | 4 => .copy | _ => .wait
  let ins := [bitsOf x 76 12, bitsOf x 88 12, bitsOf x 100 12] ++ if kind == .copy then [] else [bitsOf x 112 12]
  ({ op := kind, redop := bitsOf x 4 2, rtype := bitsOf x 6 2, retry := bitsOf x 8 4, narr := bitsOf x 12 2,
     len := if kind == .wait then 0 else 4 * (bitsOf x 14 14 + 1), dslot := bitsOf x 28 4, k := bitsOf x 32 12,
     rot := bitsOf x 44 1 == 1, peer := bitsOf x 48 9, abs := bitsOf x 57 1 == 1, top := bitsOf x 64 12,
     ins := ins.filter (· != 0xFFF), kb := if kind == .copy then bitsOf x 112 12 else 0, rotb := bitsOf x 124 1 == 1 }, x)

/-- No number twice. -/
def distinct : List Nat → Bool
  | [] => true
  | x :: t => !t.contains x && distinct t

/-- An operation keeps to R336 and R337: index `n` of a schedule of `nops` operations, position `p` of `g`. -/
def opOk (o : TwOp) (x n nops p g nd : Nat) : Bool :=
  let red := o.op == .red
  let dispatch := red && o.redop == 3
  let named := o.op == .send || o.peer != 0
  decide (1 ≤ bitsOf x 0 4 ∧ bitsOf x 0 4 ≤ 5)
    && (red || o.redop == 0) && (if red && !dispatch then decide (o.rtype ≤ 2) else o.rtype == 0)
    && (match o.op with | .recv | .red => o.narr == 1 | .send | .copy => o.narr == 0 | .wait => true)
    && (dispatch || o.dslot == 0) && (!dispatch || decide (o.dslot < nd))
    && bitsOf x 45 3 == 0 && bitsOf x 58 6 == 0 && bitsOf x 125 3 == 0 && (o.op == .copy || !o.rotb)
    && (o.op != .wait || (o.k == 0 && !o.rot && bitsOf x 14 14 == 0))
    && o.ins.all (fun k => decide (k < n)) && distinct o.ins && decide (o.ins.length + o.narr ≤ 4)
    && (if named then
          (if o.abs then decide (o.peer < g) && o.peer != p else decide (1 ≤ o.peer ∧ o.peer < g)) && decide (o.top < nops)
        else !o.abs && o.top == 0)

/-- A dispatch descriptor from its 32 bytes (R344). -/
def parseDesc (bs : List Byte) : TwDesc :=
  ⟨BitVec.ofNat 64 (fieldAt bs 0 8), fieldAt bs 8 2, fieldAt bs 0x0C 4, BitVec.ofNat 32 (fieldAt bs 0x10 4)⟩

/-- A descriptor within its limits. -/
def State.descOk (s : State) (part : Nat) (bs : List Byte) : Bool :=
  let d := parseDesc bs
  fieldAt bs 0x0A 2 == 0 && fieldAt bs 0x14 12 == 0 && decide (1 ≤ d.budget) && (s.job? part d.job).isSome
    && (match (s.code? part d.code).bind fun co => co.kernels[d.kernel]? with | some k => k.g == 1 | none => false)

/-- The schedule a load record and its image give, none where the load is refused (R334, R335). -/
def State.parseSched (s : State) (part die : Nat) (hdr img : List Byte) : Option Sched :=
  let e := s.engine die
  let num := fieldAt hdr 8 2
  let p := fieldAt hdr 0x0A 2
  let g := fieldAt hdr 0x0C 2
  let nd := fieldAt hdr 0x0E 1
  let nops := fieldAt img 4 2
  let asid := fieldAt hdr 0x18 2
  let descs := (List.range nd).map fun i => (hdr.drop (0x20 + 32 * i)).take 32
  let ranks := (List.range g).map fun i => fieldAt hdr (0x220 + 2 * i) 2
  let ops := (List.range nops).map fun i => parseOp ((img.drop (0x40 + 16 * i)).take 16)
  if (e.sched? num).isNone ∧ fieldAt hdr 0 8 % 64 = 0 ∧ fieldAt img 0 4 = 0x31535754 ∧ 1 ≤ nops ∧ nops ≤ 4096
      ∧ fieldAt img 6 2 = g ∧ 2 ≤ g ∧ g ≤ 512 ∧ fieldAt img 8 56 = 0 ∧ p < g ∧ nd ≤ 16 ∧ fieldAt hdr 0x0F 1 = 0
      ∧ 1000 ≤ fieldAt hdr 0x10 4 ∧ asid < 4096 ∧ s.asidEnabled part asid ∧ fieldAt hdr 0x1A 6 = 0
      ∧ descs.all (s.descOk part) ∧ ranks.all (fun r => decide (r < 512)) ∧ distinct ranks ∧ ranks.getD p 512 = s.rank
      ∧ (ops.zipIdx.all fun x => opOk x.1.1 x.1.2 x.2 nops p g nd)
      ∧ e.scheds.length < 1024 ∧ e.scheds.foldl (fun n c => n + c.ops.length) nops ≤ 131072 then
    some ⟨num, part, p, g, fieldAt hdr 0x10 4, fieldAt hdr 0x14 4, asid, ops.map (·.1), descs.map parseDesc, ranks, 0⟩
  else none

/-- SCHEDULE_LOAD (R334, R335): the load record and the image, both in device memory, are read under the partition's firmware identifier, checked and
copied; a refused load leaves nothing behind. -/
def execScheduleLoad (part die : Nat) (addr : DWord) (s : State) : Host.Outcome State Fault Refusal :=
  if !s.hasTideway ∨ 2 ≤ die ∨ !s.deviceMemory addr then .next s else
  let who := [12, part, die]
  match s.fwRead who part addr 0x220 with
  | (s, none) => .next s
  | (s, some hd) =>
    let g := fieldAt hd 0x0C 2
    let at_ : DWord := BitVec.ofNat 64 (fieldAt hd 0 8)
    if 512 < g ∨ !s.deviceMemory at_ then .next s else
    match s.fwRead who part (addr + 0x220) (2 * g) with
    | (s, none) => .next (s.keepRead who addr hd)
    | (s, some ranks) =>
      let kept (s : State) : State := (s.keepRead who addr hd).keepRead who (addr + 0x220) ranks
      match s.fwRead who part at_ 0x40 with
      | (s, none) => .next (kept s)
      | (s, some head) =>
        let n := fieldAt head 4 2
        if 4096 < n then .next s else
        match s.fwRead who part (at_ + 0x40) (16 * n) with
        | (s, none) => .next ((kept s).keepRead who at_ head)
        | (s, some ops) => match s.parseSched part die (hd ++ ranks) (head ++ ops) with
          | some c => .next (s.setEngine die { (s.engine die) with
              scheds := (s.engine die).scheds ++ [c]
              peers := (s.engine die).peers.filter fun x => x.1 % 65536 != c.num })
          | none => .next s

/-- SCHEDULE_UNLOAD (R335): refused while an instance of it is RUNNING or RECOVERY. -/
def execScheduleUnload (part die sched : Nat) (s : State) : Host.Outcome State Fault Refusal :=
  let e := s.engine die
  match e.sched? sched with
  | none => .next s
  | some c =>
    if c.part ≠ part ∨ e.insts.any (fun i => i.sched == sched && i.live) then .next s
    else .next ((s.dropMoves fun w => match w with
      | [k, d, c, _, _] => decide (20 ≤ k ∧ k < 25) && d == die && c == sched
      | _ => false).setEngine die { e with
      scheds := e.scheds.filter fun x => x.num != sched
      insts := e.insts.filter fun i => i.sched != sched
      held := e.held.filter fun k => k.sched != sched
      fails := e.fails.filter fun k => k.sched != sched })

end Sys2Proof.Machine
end

