-- ==== Sys2Proof/Machine/Platform.lean ====
section
/-! DEFINITION. Firmware, the security processor and the host port: tenancies and meters (R357, R358, R368), identity and
measurement (R353 to R356, R361), device time (R362), partitions (R363), live update (R295), bring-up (R364), the host
window (R296), and the control-register window (R366). -/
namespace Sys2Proof.Machine

/-! ### Tenancies and meters (R368) -/

/-- TENANCY_REQUEST (R368). -/
def execTenancyRequest (part num : Nat) (key : BitVec 256) (s : State) : Host.Outcome State Fault Refusal :=
  if (s.part? part).isNone ∨ num = 0 ∨ 65535 < num ∨ (s.tenancies.any fun t => t.num == num && t.part != part) then .next s
  else .next { s with tenancies := s.tenancies.filter (fun t => t.num != num) ++ [⟨part, num, key⟩] }

/-- A meter's partials brought together in one base die, and its allowances withdrawn. -/
def State.gatherMeter (s : State) (m first : Nat) : State :=
  let total := s.meterValue m
  let s := (List.range 8).foldl (fun (s : State) i =>
    let d := s.die i
    s.setDie i { d with partials := eraseN d.partials m, allow := eraseN d.allow m }) s
  if total = 0 then s else
  let d := s.die first
  s.setDie first { d with partials := insertN d.partials m total }

/-- METER_REQUEST (R368): refused when another partition holds the meter; a meter goes on from its value. The spec does not say in
which base die the value of a meter stands that comes to a partition: DESIGN CHOICE, that of its first stack (log 28). -/
def execMeterRequest (meter part tenancy : Nat) (s : State) : Host.Outcome State Fault Refusal :=
  if 4096 ≤ meter ∨ (s.tenancy? part tenancy).isNone ∨ (s.allots.any fun a => a.meter == meter && a.part != part) then .next s
  else
    let s := if s.allots.any fun a => a.meter == meter then s else s.gatherMeter meter part
    .next { s with allots := s.allots.filter (fun a => a.meter != meter) ++ [⟨meter, part, tenancy⟩] }

/-- Some page binds a meter (R368), in a table or still in a translation cache (R177). -/
def State.meterBound (s : State) (m : Nat) : Bool :=
  let binds (e : BitVec 64) : Bool := pteMet e && pteMeter e == m
  (List.range 8).any fun st => (s.leaves st).any (fun x => binds x.1) || (s.die st).tlb.any fun e => binds e.leaf

/-- RELEASE_REQUEST (R368). -/
def execReleaseRequest (meter : Nat) (s : State) : Host.Outcome State Fault Refusal :=
  if s.meterBound meter then .next s else .next { s with allots := s.allots.filter fun a => a.meter != meter }

/-! ### The meter journal (R358) -/

/-- An allowance for each base die that fits a bound: with every partial within its own, they add up to no more (R358). -/
def State.allowOk (s : State) (m bound : Nat) (allow : List Nat) : Bool :=
  let parts := s.dies.toList.map fun d => (lookupN d.partials m).getD 0
  allow.length == 8 && decide (((parts.zip allow).map fun x => max x.1 x.2).sum ≤ bound)

/-- Allowances given to the base dies. -/
def State.setAllow (s : State) (m : Nat) (allow : List Nat) : State :=
  allow.zipIdx.foldl (fun (s : State) (x : Nat × Nat) =>
    let d := s.die x.2
    s.setDie x.2 { d with allow := insertN d.allow m x.1 }) s

/-- METER_REFRESH (R358): new allowances whose sum cannot pass J. -/
def execMeterRefresh (meter : Nat) (allow : List Nat) (s : State) : Host.Outcome State Fault Refusal :=
  if meter < 4096 ∧ s.allowOk meter (s.bound meter) allow then .next (s.setAllow meter allow) else .next s

/-- JOURNAL_WRITE (R358): once the sum reaches J − 2^29, J + 2^30 is in flash and the allowances rise. -/
def execJournalWrite (meter : Nat) (allow : List Nat) (s : State) : Host.Outcome State Fault Refusal :=
  let j := s.bound meter
  if meter < 4096 ∧ j ≤ s.meterValue meter + 2 ^ 29 then
    let s := s.writeJournal meter (j + 2 ^ 30)
    .next (if s.allowOk meter (j + 2 ^ 30) allow then s.setAllow meter allow else s)
  else .next s

/-! ### Attestation (R356) -/

/-- The body of an attestation report (R356). -/
def State.reportBody (s : State) (nonce : List Byte) : List Byte :=
  nonce ++ leBytes 32 s.mdigest.toNat ++ leBytes 8 s.mlog.length ++ leBytes 32 (Sha.hash s.cfgRecord).toNat
    ++ leBytes 32 (Sha.hash (s.image s.bootSlot)).toNat

/-- A record signed with the next sequence number and handed to the host (R356, R359). -/
def State.signOut (s : State) (type : Nat) (body : List Byte) : State :=
  let s := s.nextNumber
  { s with hostData := s.hostData ++ [s.signed type s.seqNum body] }

/-- ATTESTATION (R356). The spec gives its request no time in the queue of R360: DESIGN CHOICE, it is answered at once (log 47). -/
def execAttestation (nonce : List Byte) (s : State) : Host.Outcome State Fault Refusal :=
  if s.signs ∧ nonce.length = 32 then .next (s.signOut 3 (s.reportBody nonce)) else .next s

/-- MEASUREMENT_LOG_READ (R356). -/
def execMeasurementLogRead (s : State) : Host.Outcome State Fault Refusal :=
  .next { s with hostData := s.hostData ++ [s.mlog.flatten] }

/-! ### Retirement (R361) -/

/-- CHIP_RETIREMENT (R361): every page with MET = 1 faults from now on. -/
def execChipRetirement (s : State) : Host.Outcome State Fault Refusal := .next { s with retiring := true }

/-- The body of the final statement (R361). -/
def State.finalBody (s : State) : List Byte :=
  let ms := (List.range 4096).filter fun m => s.meterValue m != 0
  leBytes 4 ms.length ++ leBytes 4 0 ++ ms.flatMap fun m =>
    leBytes 2 m ++ leBytes 2 (s.meterTenancy m) ++ leBytes 4 0 ++ leBytes 8 (s.meterValue m)

/-- A reply that a meter counts is still at its base die (R361). -/
def State.replyInFlight (s : State) : Bool :=
  let counts (b : Option Bound) : Bool := (b.bind s.meterNow).isSome
  (s.reqs.any fun r => match r.st with | .performed bs _ b => !bs.isEmpty && counts b | .sent => false)
    || s.moves.any fun m => m.got.any fun g => counts g.2.held

/-- FINAL_STATEMENT (R361): once every counted reply has left, the statement is signed, the meters keep their final values, and the
journal is marked retired. -/
def execFinalStatement (s : State) : Host.Outcome State Fault Refusal :=
  if s.retiring ∧ !s.retired ∧ s.signs ∧ !s.replyInFlight then
    let finals := ((List.range 4096).map fun m => (m, s.meterValue m)).filter fun x => x.2 != 0
    .next { (s.signOut 2 s.finalBody) with finals, retired := true }
  else .next s

/-! ### Device time (R362) -/

/-- Ethernet ports (R7). -/
def State.eports (s : State) : Nat := (s.caps.extractLsb' 19 3).toNat

/-- The reference TCTL selects: none when free-running, else false for PPS and true for IEEE 1588. -/
def State.timeSource (s : State) : Option Bool :=
  match (s.tctl.extractLsb' 0 2).toNat with
  | 1 => if (s.tctl.extractLsb' 2 2).toNat < s.eports then some true else none
  | 2 => some false
  | _ => none

/-- A measurement against the reference: the offset is kept, and the unit acquires or is locked. Only the rate is
disciplined, so device time does not step. -/
def State.timeInput (s : State) (offset : Word) (locked : Bool) : State :=
  { s with toff := offset, tstat := if locked then 2 else 1 }

/-- SET_DEVICE_TIME (R362): once, before the first ring is registered. -/
def execSetDeviceTime (ns : Nat) (s : State) : Host.Outcome State Fault Refusal :=
  if s.timeSet then .next s else .next { s with now := ns % 2 ^ 64, timeSet := true }

/-- PPS_INPUT (R362). -/
def execPpsInput (offset : Word) (locked : Bool) (s : State) : Host.Outcome State Fault Refusal :=
  if s.timeSource = some false then .next (s.timeInput offset locked) else .next s

/-- PTP_EVENT_MESSAGE (R362): a message of the selected port and domain. -/
def execPtpEventMessage (port domain : Nat) (offset : Word) (locked : Bool) (s : State) : Host.Outcome State Fault Refusal :=
  if s.timeSource = some true ∧ port = (s.tctl.extractLsb' 2 2).toNat ∧ domain = (s.tctl.extractLsb' 4 8).toNat then
    .next (s.timeInput offset locked)
  else .next s

/-- HOLDOVER (R362): the reference is lost, or stays lost for some µs more; THOLD saturates. -/
def execHoldover (us : Nat) (s : State) : Host.Outcome State Fault Refusal :=
  if s.timeSource.isSome ∧ 2 ≤ s.tstat.toNat then
    .next { s with tstat := 3, thold := min (s.thold + us) 0xFFFFFFFF }
  else .next s

/-! ### The load-store domain (R152, R153) -/

/-- DOMAIN_CONFIGURATION (R152): up to 512 packages, on a part with fabric ports. -/
def execDomainConfiguration (rank x y z : Nat) (s : State) : Host.Outcome State Fault Refusal :=
  if s.hasTideway ∧ rank < x * y * z ∧ x * y * z ≤ 512 then .next { s with rank, shape := some (x, y, z) } else .next s

/-! ### Partitions (R363) -/

/-- A piece of a cut is legal. -/
def State.cutPartOk (s : State) (c : CutPart) : Bool :=
  (c.n == 1 || c.n == 2 || c.n == 4 || c.n == 8) && c.first % c.n == 0 && decide (c.first + c.n ≤ s.stackCount)
    && decide (c.fwAsid < 4096 ∧ c.wasid < 4096) && rootsOk c.n c.roots

/-- Two pieces of a cut share no stack. -/
def cutApart (a b : CutPart) : Bool := decide (a.first + a.n ≤ b.first ∨ b.first + b.n ≤ a.first)

/-- A partition is idle: no ring, no launch, no schedule. -/
def State.idlePart (s : State) (first : Nat) : Bool :=
  !((s.rings.any fun r => r.part == first) || (s.launches.any fun l => l.part == first && l.st != .complete)
    || s.engines.toList.any fun e => e.scheds.any fun c => c.part == first)

/-- A partition as a cut makes it, its scheduling registers at reset (R297). -/
def cutPartition (c : CutPart) : Partition :=
  ⟨c.first, c.n, c.fwAsid, c.wbase, c.wasid, Vector.replicate 4 256, 0x0200⟩

/-- A partition that a cut replaces: it shares a stack with one of its pieces. -/
def cutsAway (cut : List CutPart) (p : Partition) : Bool :=
  cut.any fun c => decide (c.first < p.first + p.n ∧ p.first < c.first + c.n)

/-- Everything of some partitions dropped, and every identifier of their stacks disabled. -/
def State.dropParts (s : State) (gone : List Partition) : State :=
  let of (first : Nat) : Bool := gone.any fun p => p.first == first
  let s := (List.range 8).foldl (fun (s : State) i =>
    if gone.any (fun p => p.hasStack i) then
      let d := s.die i
      s.setDie i { d with root := [], tlb := [] }
    else s) s
  { s with
    parts := s.parts.filter fun p => !of p.first
    tenancies := s.tenancies.filter fun t => !of t.part
    allots := s.allots.filter fun a => !of a.part
    codes := s.codes.filter fun c => !of c.part
    jobs := s.jobs.filter fun j => !of j.part
    faults := s.faults.filter fun f => !gone.any fun p => p.hasStack f.stack }

/-- The partitions and root tables that a cut makes. -/
def State.afterCut (s : State) (cut : List CutPart) : State :=
  cut.foldl (fun (s : State) c =>
    State.writeRoots { s with parts := s.parts ++ [cutPartition c] } (cutPartition c) c.fwAsid c.roots)
    (s.dropParts (s.parts.filter (cutsAway cut)))

/-- Every frame away from home, or on its way, stands in its home's partition (R170). -/
def State.framesAtPeers (s : State) : Bool :=
  (List.range 8).all fun i => (s.die i).frames.all fun x => x.2.state == 0 || s.parts.any fun p => p.hasStack i && p.hasStack x.2.loc

/-- PARTITION_CUT (R363): the pieces replace the partitions they meet, all of which must be idle. No page of theirs binds a meter,
since none is allotted to them yet (R368), and their tables keep to R167 and R170. The spec does not say what becomes of a frame
moved to a stack that the cut puts in another partition: DESIGN CHOICE, the cut waits until firmware has brought it home
(log 43). -/
def execPartitionCut (cut : List CutPart) (s : State) : Host.Outcome State Fault Refusal :=
  if cut.all s.cutPartOk ∧ cut.Pairwise (fun a b => cutApart a b = true)
      ∧ (s.parts.all fun p => !cutsAway cut p || s.idlePart p.first) ∧ (List.range 8).all (s.afterCut cut).tablesOk ∧ (s.afterCut cut).framesAtPeers then
    .next (s.afterCut cut)
  else .next s

/-- Every gang of a launch killed: those placed, parked or saved, and those that never ran (R363). -/
def State.killLaunch (s : State) (lid : Nat) : State :=
  match s.launch? lid with
  | none => s
  | some l =>
    if l.st == .prologue || l.st == .complete || l.status.isSome then s else
    let here := l.gangs.filter fun g => g.st == .placed || g.st == .parked || g.st == .saved
    let gone := l.unplacedBlocks
    let s := (s.setLaunch { l with
      next := (l.rcd.map (·.gangs)).getD 0, w0 := none, gangFailed := l.gangFailed || decide (0 < gone)
      gangs := l.gangs.map fun g => if g.st == .unplaced then { g with st := .killed } else g }).endGathers lid
    let s := here.foldl (fun (s : State) g => match (s.gangBlocks lid g.idx).head? with
      | some b => s.killGangOf b .firmware 0
      | none => s.killGang lid g.idx .firmware) s
    s.countDown lid gone

/-- A ring halted by a partition reset; a repetition it waits for goes no further. -/
def State.haltRing (s : State) (r : Ring) : State :=
  let s := s.endRep r
  let r := { r with rep := none }
  (if r.st = .paused then s.setRing { r with held := .halted } else s.putRing { r with st := .halted }).closeJobs

/-- The instances of a partition's schedules fail with kind 4 (R349). -/
def State.failPart (s : State) (die part : Nat) : State :=
  (s.engine die).insts.foldl (fun (s : State) i => match (s.engine die).sched? i.sched with
    | some c => if c.part = part ∧ i.live then s.failInst die c i 4 else s
    | none => s) s

/-- PARTITION_RESET (R363): meters keep their values. -/
def execPartitionReset (part : Nat) (s : State) : Host.Outcome State Fault Refusal :=
  let s := (s.launches.filter fun l => l.part == part).foldl (fun (s : State) l => s.killLaunch l.lid) s
  let s := (s.rings.filter fun r => r.part == part).foldl (fun (s : State) r => s.haltRing r) s
  .next ((s.failPart 0 part).failPart 1 part)

/-! ### Live update (R295) -/

/-- Every ring of the device enters PAUSED, keeping the state it held. -/
def State.pauseRings (s : State) : State :=
  s.rings.foldl (fun (s : State) r =>
    if r.st = .paused then s else s.putRing { r with st := .paused, held := r.st }) s

/-- Every paused ring returns to the state it held, and looks at its head. -/
def State.resumeRings (s : State) : State :=
  s.rings.foldl (fun (s : State) r => if r.st = .paused then (s.putRing { r with st := r.held }).examineRing r.num else s) s

/-- LIVE_UPDATE (R295). `imported` none: the standby boots the image of a slot, which is measured, and where its signature
holds Estuary pauses, with no resolution of a fault in progress. Then the state table moves, and Estuary resumes: under
the standby where it could import the table, else under the old active complex. -/
def execLiveUpdate (slot : Nat) (imported : Option Bool) (s : State) : Host.Outcome State Fault Refusal :=
  let hash := Sha.hash (s.image slot)
  match imported, s.update with
  | none, none =>
    if 2 ≤ slot ∨ s.boot ≠ 5 ∨ s.faults.any (fun f => !f.refused) then .next s
    else
      let s := s.measure 1 0xFF none hash
      if Config.imageGood (s.image slot) then .next { s.pauseRings with update := some slot } else .next s
  | some true, some n =>
    if n ≠ slot then .next s else
    let s : State := { s.resumeRings with update := none, activeB := !s.activeB, bootSlot := slot }
    .next ((s.logEvent 0 ⟨s.now, 0x0D, 0x80, 0xFF, 0xFF, 0xFF, 0, 0, 0, 0, 0⟩).measure 1 0xFF none hash)
  | some false, some n => if n ≠ slot then .next s else .next { s.resumeRings with update := none }
  | _, _ => .next s

/-! ### Bring-up and power (R358, R359, R364) -/

/-- The base dies as meters resume: each meter's sum is its journalled bound (R358). A chip that has never run starts its series at
zero (R361). -/
def State.resumedDies (s : State) : Vector BaseDie 8 :=
  let fresh := Vector.replicate 8 BaseDie.reset
  if s.begun then fresh.set 0 { BaseDie.reset with partials := (List.range 4096).map fun m => (m, s.bound m) } else fresh

/-- What is left when power or the running state is lost: package flash (R365), what the part is, and what has gone out of it. -/
def State.lost (s : State) : State :=
  { State.reset with
    agenda := s.agenda, fresh := s.fresh, hostData := s.hostData, irqs := s.irqs, portData := s.portData
    variant := s.variant, helper := s.helper, certs := s.certs, cfgRecord := s.cfgRecord
    journal := s.journal, begun := true, finals := s.finals, retired := s.retired, retiring := s.retired
    seqNum := s.seqBound, seqBound := s.seqBound, fwSlots := s.fwSlots, bootSlot := s.bootSlot, dumps := s.dumps
    dies := s.resumedDies }

/-- RESET (R364): bring-up begins at its first step; the step `stop` will fail. DRAM holds what it held until step 3 zeroes it. -/
def execResetMachine (stop : Option Nat) (s : State) : Host.Outcome State Fault Refusal :=
  .next { s.lost with boot := 1, booting := some (stop.map fun n => max 1 (min n 5)), dram := s.dram, poison := s.poison,
                      symErr := s.symErr }

/-- POWER_LOSS (R358, R359): nothing runs until a reset brings the part up again. -/
def execPowerLoss (s : State) : Host.Outcome State Fault Refusal := .next s.lost

/-- CAPPED_MODE (R364): firmware or the power-cap input asks for it, and the next tide tick enters or leaves it. -/
def execCappedMode (on : Bool) (s : State) : Host.Outcome State Fault Refusal := .next { s with capWant := on }

/-! ### The host port (R215, R296) -/

/-- HOST_WINDOW_ACCESS (R296): offset `off` of BAR2 for a partition; a read's bytes go to the host. -/
def execHostWindowAccess (part off n : Nat) (data : Option (List Byte)) (s : State) : Host.Outcome State Fault Refusal :=
  match s.part? part with
  | none => .next s
  | some p =>
    let n := match data with | some d => d.length | none => n
    if 2 ^ 39 < off + n then .next s else
    match s.transfer [13, part] (asker part (some p.wasid)) (p.wbase + BitVec.ofNat 64 off) n data with
    | (s, none) => .next s
    | (s, some (bs, _)) => match data with
      | some _ => .next s
      | none => .next { s with hostData := s.hostData ++ [bs.map (·.1)] }

/-- TRANSMIT_COMMAND (R215): the engine reads its buffer after its device-scope acquire, so from what has performed. A poisoned
granule is consumed (R139): the spec names no warp to check and no link die, DESIGN CHOICE, the check goes to firmware at link
die 0 and nothing is sent (log 10). -/
def execTransmitCommand (part asid : Nat) (addr : DWord) (n : Nat) (s : State) : Host.Outcome State Fault Refusal :=
  match s.transfer [14, part, asid] (asker part (some asid)) addr n none with
  | (s, none) => .next s
  | (s, some (bs, _)) =>
    if bs.any (·.2) then .next (s.reportCheck 0 .poisonConsumed)
    else .next { s with portData := s.portData ++ [bs.map (·.1)] }

/-! ### The control-register window (R174, R297, R350, R362, R366) -/

/-- GSTAT. -/
def State.gstat (s : State) : Word :=
  BitVec.ofNat 32 (s.boot % 16 + (if s.bootErr then 16 else 0) + if s.activeB then 32 else 0)

/-- A register of a base die's block. -/
def BaseDie.readReg (d : BaseDie) (off : Nat) : Word :=
  if off = 0x000 then BitVec.ofNat 32 (d.mqThresh % 65536)
  else if off = 0x004 then d.mqTail.setWidth 32
  else if off = 0x008 then d.mqHead.setWidth 32
  else if off = 0x00C then BitVec.ofNat 32 d.mqOvf
  else if off = 0x020 then BitVec.ofNat 32 d.corrected
  else if 0x400 ≤ off ∧ off < 0x800 then
    match lookupN d.mq ((off - 0x400) / 16) with
    | some e => BitVec.ofNat 32 (leNat (((leBytes 4 e.word.toNat ++ leBytes 2 e.ctr ++ leBytes 2 0 ++ leBytes 8 e.time).drop
        ((off - 0x400) % 16)).take 4))
    | none => 0
  else 0

/-- A register of a partition's scheduling block. -/
def State.readSched (s : State) (p : Partition) (off : Nat) : Word :=
  if off < 0x10 then p.share[off / 4]?.getD 0
  else if off = 0x10 then p.wdog
  else if 0x20 ≤ off ∧ off < 0x40 then
    let load := s.loadMilli p.first ((off - 0x20) / 8) (2 ^ 64 - 1) / 1000 % 2 ^ 64
    BitVec.ofNat 32 (load / 2 ^ (32 * (off / 4 % 2)))
  else 0

/-- An instance register (R350). -/
def TwEntry.bits (e : TwEntry) : Nat :=
  e.inst % 65536 + 2 ^ 16 * (e.state % 8) + 2 ^ 19 * (e.kind % 16) + 2 ^ 23 * (e.fpos % 512) + 2 ^ 32 * (e.sched % 65536)

/-- The 32 bytes of a Strandline event (R145). -/
def Event.bytes (e : Event) : List Byte :=
  leBytes 8 e.time ++ leBytes 1 e.code ++ leBytes 1 e.place ++ leBytes 1 e.cluster ++ leBytes 1 e.core ++ leBytes 1 e.slot
    ++ leBytes 1 e.cause ++ leBytes 2 e.seq ++ leBytes 8 e.lid ++ leBytes 4 e.pc.toNat ++ leBytes 4 e.info.toNat

/-- An event of a ring, zero where there is none, read as the word at an offset of the ring. -/
def SlRing.word (r : SlRing) (off : Nat) : Word :=
  match r.events[off / 32]? with
  | some e => BitVec.ofNat 32 (fieldAt e.bytes (off % 32) 4)
  | none => 0

/-- A word of a dump of 8 MiB (R146, R365). The spec does not lay a dump out: DESIGN CHOICE, the 2,304 core rings of 64 events in the
order of their cores, then the device rings of 4,096 events, each oldest event first (log 46). -/
def Dump.word (d : Dump) (off : Nat) : Word :=
  let cores := 48 * 48 * 2048
  if off < cores then ((lookupN d.cores (off / 2048)).map fun r => r.word (off % 2048)).getD 0
  else ((d.devs[(off - cores) / 0x20000]?).map fun r => r.word ((off - cores) % 0x20000)).getD 0

/-- A word of the dump area as BAR0 shows it, one page of 1 MiB at a time, the oldest dump first (log 46). -/
def State.readDump (s : State) (off : Nat) : Word :=
  match s.dumps[s.dumpPage / 8]? with
  | some d => d.word (0x100000 * (s.dumpPage % 8) + off)
  | none => 0

/-- A word written to the dump block by firmware. The spec says that the host reads dumps through firmware, and that a dump can be
marked retained, and gives no register for either: DESIGN CHOICE, a write at the block's first word selects the page of 1 MiB that
the block shows, and one at its second gives the 16 dumps their retained marks (log 46). -/
def State.writeDump (s : State) (off : Nat) (x : Word) : State :=
  if off = 0 then { s with dumpPage := x.toNat % 128 }
  else if off = 4 then { s with dumps := s.dumps.zipIdx.map fun (d, i) => { d with retained := x.getLsbD i } }
  else s

/-- The word a read of BAR0 gives at a multiple of 4; blocks marked F read 0 from the host (R366). -/
def State.readRegister (s : State) (off : Nat) (firmware : Bool) : Word :=
  if off % 4 ≠ 0 then 0
  else if off = 0 then s.gstat
  else if off = 4 then s.caps
  else if off = 0x2000 then s.tctl
  else if off = 0x2004 then s.tstat
  else if off = 0x2008 then s.toff
  else if off = 0x200C then BitVec.ofNat 32 s.thold
  else if 0x01000000 ≤ off ∧ off < 0x01000000 + 0x10000 * s.stackCount then
    if firmware then (s.die ((off - 0x01000000) / 0x10000)).readReg (off % 0x10000) else 0
  else if 0x02000000 ≤ off ∧ off < 0x02008000 then
    match s.part? ((off - 0x02000000) / 0x1000) with
    | some p => s.readSched p (off % 0x1000)
    | none => 0
  else if 0x03000000 ≤ off ∧ off < 0x03020000 ∧ s.hasTideway then
    if 512 ≤ off % 0x10000 then 0
    else match (s.engine ((off - 0x03000000) / 0x10000)).table[off % 0x10000 / 8]? with
      | some e => BitVec.ofNat 32 (e.bits / 2 ^ (32 * (off / 4 % 2)))
      | none => 0
  else if 0x03F00000 ≤ off ∧ off < 0x04000000 then s.readDump (off - 0x03F00000)
  else 0

/-- A base die's register written by firmware (R174). -/
def BaseDie.writeReg (d : BaseDie) (off : Nat) (x : Word) : BaseDie :=
  if off = 0x000 then { d with mqThresh := (x.extractLsb' 0 16).toNat }
  else if off = 0x008 then { d with mqHead := x.extractLsb' 0 7 }
  else if off = 0x00C then { d with mqOvf := x.toNat }
  else if off = 0x010 then
    let f := (x.extractLsb' 0 20).toNat
    d.setFrame f { d.frame f with queued := false, ctr := Vector.replicate 8 0 }
  else d

/-- A scheduling register written by firmware (R297). -/
def Partition.writeReg (p : Partition) (off : Nat) (x : Word) : Partition :=
  if off < 0x10 ∧ off % 4 = 0 then { p with share := p.share.setIfInBounds (off / 4) (x &&& 0x1FF#32) }
  else if off = 0x10 then { p with wdog := x &&& 0xFFFF#32 }
  else p

/-- REGISTER_WRITE (R366): TCTL by host or firmware; base-die and scheduling registers and the dump block by firmware alone; a
doorbell as R278 gives it; every other write is ignored. A write of TCTL leaves the unit free-running or acquiring. -/
def execRegisterWrite (off : Nat) (x : Word) (firmware : Bool) (s : State) : Host.Outcome State Fault Refusal :=
  if off = 0x2000 then
    let s : State := { s with tctl := x &&& 0xFFF#32 }
    .next { s with tstat := if s.timeSource.isSome then 1 else 0 }
  else if 0x00800000 ≤ off ∧ off < 0x00804000 ∧ off % 4 = 0 then execDoorbell ((off - 0x00800000) / 4) s
  else if firmware ∧ 0x01000000 ≤ off ∧ off < 0x01000000 + 0x10000 * s.stackCount then
    let st := (off - 0x01000000) / 0x10000
    .next (s.setDie st ((s.die st).writeReg (off % 0x10000) x))
  else if firmware ∧ 0x02000000 ≤ off ∧ off < 0x02008000 then
    match s.part? ((off - 0x02000000) / 0x1000) with
    | some p => .next (s.setPart (p.writeReg (off % 0x1000) x))
    | none => .next s
  else if firmware ∧ 0x03F00000 ≤ off ∧ off < 0x04000000 then .next (s.writeDump (off - 0x03F00000) x)
  else .next s

end Sys2Proof.Machine
end

