-- ==== Sys2Proof/Machine/CodeObjects.lean ====
section
/-! DEFINITION. Registration of a code object (R15, R82, R237, R289). -/
namespace Sys2Proof.Machine

/-! ### The object's tables -/

/-- A range lies within an object. -/
def within (size off n : Nat) : Bool := decide (off + n ≤ size)

/-- The header of a code object keeps to its table (R289). -/
def codeHeaderOk (hd : List Byte) : Bool :=
  let size := fieldAt hd 0x10 8
  fieldAt hd 0 4 == 0x4E4C5946 && fieldAt hd 4 2 == 1 && fieldAt hd 6 2 == 1 && fieldAt hd 0x38 8 == 0
    && within size 0 64 && within size (fieldAt hd 0x18 8) (64 * fieldAt hd 8 4)
    && within size (fieldAt hd 0x20 8) (16 * fieldAt hd 0xC 4)
    && within size (fieldAt hd 0x28 8) (fieldAt hd 0x30 8)

/-- An entry address, none for 0xFFFF_FFFF. -/
def entryAddr (x : Nat) : Option Nat := if x = noEntry then none else some x

/-- A kernel entry of an image. -/
def parseKernel (img e : List Byte) : Kernel :=
  { codeOff := fieldAt e 0 4, codeSize := fieldAt e 4 4, w := fieldAt e 8 1, g := fieldAt e 9 1,
    handoff := fieldAt e 0xA 2 % 2 == 1, matrix := fieldAt e 0xA 2 / 2 % 2 == 1, v := fieldAt e 0xC 4,
    q := fieldAt e 0x10 1, params := fieldAt e 0x11 1, trap := entryAddr (fieldAt e 0x14 4),
    wrap := entryAddr (fieldAt e 0x18 4), budget := fieldAt e 0x1C 4, rows := BitVec.ofNat 64 (fieldAt e 0x20 8),
    carry := (List.range (min 16 (fieldAt e 0x2C 4))).map fun i => BitVec.ofNat 64 (fieldAt img (fieldAt e 0x28 4 + 8 * i) 8) }

/-- A body lies in the object, in whole words. -/
def bodyOk (size off n : Nat) : Bool := within size off n && off % 4 == 0 && n % 4 == 0

/-- An entry address is a word of the body. -/
def entryOk (n : Nat) : Option Nat → Bool
  | none => true
  | some a => a % 4 == 0 && decide (a < n)

/-- A kernel entry keeps to its table and to the limits of the directives it comes from (R10, R289). -/
def kernelOk (size : Nat) (e : List Byte) (k : Kernel) : Bool :=
  bodyOk size k.codeOff k.codeSize && decide (1 ≤ k.w ∧ k.w ≤ 16 ∧ 1 ≤ k.g ∧ k.g ≤ 48 ∧ k.v ≤ 0x80000 ∧ k.params ≤ 16)
    && decide (fieldAt e 0xA 2 < 4) && fieldAt e 0x12 2 == 0 && fieldAt e 0x34 12 == 0
    && entryOk k.codeSize k.trap && entryOk k.codeSize k.wrap && (k.wrap.isNone || k.budget != 0)
    && decide (fieldAt e 0x2C 4 ≤ 16) && within size (fieldAt e 0x28 4) (8 * fieldAt e 0x2C 4)

/-- A prologue entry keeps to its layout. -/
def prologueOk (size : Nat) (e : List Byte) : Bool := bodyOk size (fieldAt e 0 4) (fieldAt e 4 4) && fieldAt e 0xC 4 == 0

/-! ### The instructions of a body -/

/-- The instruction at a word, and whether it takes the next word too. -/
def bodyInstr (w : Word) (x : Option Word) : Option Instr := match decode w x with | .ok i => some i | .error _ => none

/-- Some instruction of a body has a property. -/
def bodyHas (p : Word → Option Instr → Bool) : List Word → Bool
  | [] => false
  | [w] => p w (bodyInstr w none)
  | w :: x :: t =>
    match bodyInstr w (some x) with
    | some i => p w (some i) || (if i.len = 8 then bodyHas p t else bodyHas p (x :: t))
    | none => p w none || bodyHas p (x :: t)

/-- GIVE, GIVEX or TAKE (R82). -/
def isHandoff (_ : Word) : Option Instr → Bool
  | some (.give _ _) | some (.givex _ _) | some (.take _ _) => true
  | _ => false

/-- An instruction of G-form opcodes 0x20 to 0x2C (R237). -/
def isMatrix (w : Word) (_ : Option Instr) : Bool := w.msb && decide (0x60 ≤ (fOp w).toNat ∧ (fOp w).toNat ≤ 0x6C)

/-- The words of a body. -/
def bodyWords (img : List Byte) (k : Kernel) : List Word :=
  (List.range (k.codeSize / 4)).map fun i => BitVec.ofNat 32 (fieldAt img (k.codeOff + 4 * i) 4)

/-- A kernel carries the flags its instructions need. -/
def flagsOk (img : List Byte) (k : Kernel) : Bool :=
  let ws := bodyWords img k
  (k.handoff || !bodyHas isHandoff ws) && (k.matrix || !bodyHas isMatrix ws)

/-- The kernels and prologues of an image, where it may be registered. -/
def parseImage (img : List Byte) : Option (List Kernel × List Prologue) :=
  let size := fieldAt img 0x10 8
  let ks := (List.range (fieldAt img 8 4)).map fun i => (img.drop (fieldAt img 0x18 8 + 64 * i)).take 64
  let ps := (List.range (fieldAt img 0xC 4)).map fun i => (img.drop (fieldAt img 0x20 8 + 16 * i)).take 16
  if codeHeaderOk img && (ks.all fun e => kernelOk size e (parseKernel img e) && flagsOk img (parseKernel img e))
      && ps.all (prologueOk size) then
    some (ks.map (parseKernel img), ps.map fun e => ⟨fieldAt e 0 4, fieldAt e 4 4⟩)
  else none

/-! ### Its pages -/

/-- The leaf that maps a page, with the physical address of its entry (R166). -/
def leafPlace (s : State) (stack off : Nat) : List (Nat × Nat × Nat) → Nat → Option (Nat × BitVec 64 × Nat)
  | [], _ => none
  | (shift, entries, below) :: t, table =>
    let at_ := table + 8 * (off / 2 ^ shift % entries)
    let e := s.tableEntry stack at_
    if !pteV e then none
    else if shift = 16 then (if leafOk e 1 then some (at_, e, 1) else none)
    else if shift = 21 ∧ pteLeaf e then (if leafOk e 32 then some (at_, e, 32) else none)
    else if nextOk e below then leafPlace s stack off t (pteNext e)
    else none

/-- The leaf of an identifier's page. -/
def State.leafOf (s : State) (stack asid off : Nat) : Option (Nat × BitVec 64 × Nat) :=
  match lookupN (s.die stack).root asid with
  | none => none
  | some r => if pteV r && nextOk r 65536 then leafPlace s stack off walkLevels (pteNext r) else none

/-- The cached translations that come from a leaf, whichever identifier's walk has reached it, are dropped. -/
def State.dropLeaf (s : State) (stack place : Nat) : State :=
  let d := s.die stack
  s.setDie stack { d with tlb := d.tlb.filter fun e => (s.leafOf stack e.asid (65536 * e.page)).map (·.1) != some place }

/-- A page mapped with W = 0, its translation invalidated for every identifier that shares its leaf (R169, R289). -/
def State.protectPage (s : State) (stack asid page : Nat) : State :=
  match s.leafOf stack asid (65536 * page) with
  | none => s
  | some (at_, e, _) => ((s.writeEntries stack [(at_, e &&& ~~~4#64)]).setDie stack ((s.die stack).dropTlb asid page 1)).dropLeaf stack at_

/-! ### Registration -/

/-- Every page of a range is mapped. -/
def State.pagesMapped (s : State) (stack asid first n : Nat) : Bool :=
  (List.range n).all fun i => (s.leafOf stack asid (65536 * (first + i))).isSome

/-- An object measured, write-protected and entered; one registered at the same place before is replaced. -/
def State.register (s : State) (part asid : Nat) (addr : DWord) (img : List Byte) (ks : List Kernel) (ps : List Prologue) :
    State :=
  let first := offsetOf addr / 65536
  let n := (offsetOf addr % 65536 + img.length + 65535) / 65536
  if !s.pagesMapped (stackOf addr) asid first n then s else
  let hash := Sha.hash img
  let s := s.measure 3 part (some (addr, img.length)) hash
  let s := (List.range n).foldl (fun (s : State) i => s.protectPage (stackOf addr) asid (first + i)) s
  { s with codes := (s.codes.filter fun c => !(c.part == part && c.addr == addr)) ++ [⟨part, addr, img.length, hash, asid, ks, ps⟩] }

/-- Bytes of an object read, with whether a read faulted; none while one waits. -/
def State.readCode (s : State) (part asid : Nat) (addr : DWord) (n : Nat) : State × Option (List Byte × Bool) :=
  let (s, r) := s.transfer [15, part, asid] (asker part (some asid)) addr n none
  (s, r.map fun x => (x.1.map (·.1), x.2.isSome))

/-- CODE_OBJECT_REGISTRATION (R289): the object stands at `addr` under an identifier of the partition. -/
def execCodeObjectRegistration (part asid : Nat) (addr : DWord) (s : State) : Host.Outcome State Fault Refusal :=
  match s.readCode part asid addr 64 with
  | (s, none) => .next s
  | (s, some (hd, bad)) =>
    if bad ∨ !codeHeaderOk hd then .next s else
    match s.readCode part asid addr (fieldAt hd 0x10 8) with
    | (s, none) => .next (s.keepRead [15, part, asid] addr hd)
    | (s, some (img, bad)) => match parseImage img with
      | some (ks, ps) => if bad then .next s else .next (s.register part asid addr img ks ps)
      | none => .next s

end Sys2Proof.Machine
end

