-- ==== Sys2Proof/Machine/Control.lean ====
section
/-! DEFINITION. Control flow (R96 to R99), EXIT (R64) and NOP. -/
namespace Sys2Proof.Machine

/-! ### Branches (R97) -/

/-- A branch target: the address of the instruction plus four times the offset. -/
def Ctx.target (c : Ctx) {n : Nat} (off : BitVec n) : Word := c.w.pc + ((off.signExtend 32) <<< 2)

/-- BRA (R97). -/
def execBra (off : BitVec 21) (s : State) : Host.Outcome State Fault Refusal :=
  s.run (.bra off) fun c => .retire c (c.target off)

/-- A BRC condition on an s-name (R29). -/
def brcName (k : BrCond) (x : Word) : Bool :=
  match k with
  | .nz => x != 0
  | .z => x == 0
  | .neg => x.msb
  | .nneg => !x.msb
  | _ => false

/-- A BRC condition on a predicate over the active lanes (R29, R63). -/
def brcPred (k : BrCond) (p act : Mask) : Bool :=
  match k with
  | .all => (p &&& act) == act
  | .any => (p &&& act) != 0
  | .noneOf => (p &&& act) == 0
  | _ => false

/-- The condition tests a predicate. -/
def onPred (k : BrCond) : Bool :=
  match k with
  | .all | .any | .noneOf => true
  | _ => false

/-- BRC (R97); a poisoned operand is consumed (R99). -/
def execBrc (k : BrCond) (n : Name) (off : BitVec 15) (s : State) : Host.Outcome State Fault Refusal :=
  s.run (.brc k n off) fun c =>
    let act := c.w.m &&& c.w.liveMask
    let p : PName := n.setWidth 3
    let bad := if onPred k then (c.w.pbad p &&& act) != 0 else c.w.sbad n
    if bad then .mcheck c .poisonConsumed
    else
      let taken := if onPred k then brcPred k (c.w.pget p) act else brcName k (c.w.sget n)
      .retire c (if taken then c.target off else c.next 4)

/-- LOOPN (R97). -/
def execLoopn (n : Name) (off : BitVec 15) (s : State) : Host.Outcome State Fault Refusal :=
  s.run (.loopn n off) fun c =>
    if c.w.sbad n then .mcheck c .poisonConsumed
    else
      let x := c.w.sget n - 1
      .retire (c.sput n x) (if x ≠ 0 then c.target off else c.next 4)

/-- The link register of CALL and RET (R97, R98). -/
def linkName : Name := 63

/-- CALL (R97). -/
def execCall (off : BitVec 21) (s : State) : Host.Outcome State Fault Refusal :=
  s.run (.call off) fun c => .retire (c.sput linkName (c.next 4)) (c.target off)

/-! ### NOP, JMPI and RET (R98) -/

/-- NOP (R98). -/
def execNop (s : State) : Host.Outcome State Fault Refusal := s.run .nop fun c => c.done 4

/-- A jump to an s-name: a poisoned target is consumed (R99), an unaligned one raises MISALIGNED (R98). -/
def Ctx.jump (c : Ctx) (n : Name) : Eff :=
  if c.w.sbad n then .mcheck c .poisonConsumed
  else if (c.w.sget n).extractLsb' 0 2 ≠ 0#2 then
    .trap c { cause := .misaligned, info := 0, addr := some ((c.w.sget n).setWidth 64) }
  else .retire c (c.w.sget n)

/-- JMPI (R98). -/
def execJmpi (a : Name) (s : State) : Host.Outcome State Fault Refusal := s.run (.jmpi a) fun c => c.jump a
/-- RET (R98). -/
def execRet (s : State) : Host.Outcome State Fault Refusal := s.run .ret fun c => c.jump linkName

/-! ### EXIT (R64) -/

/-- The warp still holds poison in a mapped row, an s-name or a predicate bit (R139). -/
def Ctx.holdsPoison (c : Ctx) : Bool :=
  c.w.sPoison != 0 || c.w.pPoison.toList.any (· != 0)
    || c.w.v.toList.any fun r => match r.bind c.b.row? with | some row => row.poison != 0 | none => false

/-- The last lanes leave: the warp drains, delivers its oldest held fault, and ends (R64, R139, R200). -/
def Ctx.finalExit (c : Ctx) : Eff :=
  if c.w.ops.any fun o => o.st == .pending then .stay c .drain
  else c.deliver (fun _ => true) <|
    if c.holdsPoison then .mcheck c .poisonConsumed else .goto (c.s.endWarp c.b c.w)

/-- EXIT (R64). -/
def execExit (s : State) : Host.Outcome State Fault Refusal :=
  s.run .exit fun c =>
    let w := c.w
    let e := w.m &&& w.liveMask
    if e = 0 then c.done 4
    else if w.launched &&& ~~~(w.exited ||| e) = 0 then c.finalExit
    else (c.setW { w with
      exited := w.exited ||| e
      m := w.m &&& ~~~e
      stack := w.stack.map fun (x : Mask × Mask) => (x.1 &&& ~~~e, x.2 &&& ~~~e) }).done 4

end Sys2Proof.Machine
end

