-- ==== Sys2Proof/Machine/CrossLane.lean ====
section
/-! DEFINITION. Moves (R88), predicates (R90), and the cross-lane instructions (R92 to R95). -/
namespace Sys2Proof.Machine

/-! ### Moves (R88) -/

/-- A move of one value to every active lane. -/
def Ctx.fillWith (c : Ctx) (g : Guard) (len : Nat) (d : Name) (x : Nat → Word) (bad : Mask) : Eff :=
  (c.vwrite d (c.active g) x bad).done len

/-- MOVI, short (R88). -/
def execMovi (d : Name) (imm : BitVec 9) (g : Guard) (s : State) : Host.Outcome State Fault Refusal :=
  s.run (.movi d imm g) fun c => c.fillWith g 4 d (fun _ => imm.signExtend 32) 0
/-- MOVI, long (R88). -/
def execMoviLong (d : Name) (g : Guard) (imm : Word) (s : State) : Host.Outcome State Fault Refusal :=
  s.run (.moviLong d g imm) fun c => c.fillWith g 8 d (fun _ => imm) 0
/-- SPLAT (R88): a poisoned s-name poisons the lanes written. -/
def execSplat (d b : Name) (g : Guard) (s : State) : Host.Outcome State Fault Refusal :=
  s.run (.splat d b g) fun c => c.fillWith g 4 d (fun _ => c.w.sget b) (if c.w.sbad b then 0xFFFFFFFF#32 else 0)
/-- LANEID (R88). -/
def execLaneid (d : Name) (g : Guard) (s : State) : Host.Outcome State Fault Refusal :=
  s.run (.laneid d g) fun c => c.fillWith g 4 d (fun i => BitVec.ofNat 32 i) 0
/-- MOV (R88). -/
def execMov (r : LrU) (s : State) : Host.Outcome State Fault Refusal := s.run (.mov r) fun c => c.un r id

/-! ### Cross-lane (R92 to R95) -/

/-- Lane `j` of a source row as another lane reads it: zero where it never launched (R92). -/
def Ctx.otherLane (c : Ctx) (a : Name) (j : Nat) : Word :=
  if c.w.launched.getLsbD j then (c.vlanes a)[j]?.getD 0 else 0
/-- Whether that value is poisoned. -/
def Ctx.otherBad (c : Ctx) (a : Name) (j : Nat) : Bool := c.w.launched.getLsbD j && (c.vbad a).getLsbD j

/-- The lane SHFL reads in lane `i` for an operand `b` (R93). -/
def shflLane (m : ShflMode) (i : Nat) (b : Word) : Nat :=
  let k := b.toNat
  match m with
  | .idx => k % 32
  | .up => if k ≤ i then i - k else i
  | .dn => if i + k ≤ 31 then i + k else i
  | .xor => i ^^^ (k % 32)

/-- SHFL (R93). -/
def execShfl (m : ShflMode) (r : LrA) (s : State) : Host.Outcome State Fault Refusal :=
  s.run (.shfl m r) fun c =>
    let act := c.active r.g
    let ob : Opnd := ⟨r.b, r.bs, false⟩
    c.needs act (r.a :: ob.vnames) <|
      let rb := ob.read c
      let j := fun i => shflLane m i (loWord (rb.val i))
      let val := fun i => if j i = i then (c.vlanes r.a)[i]?.getD 0 else c.otherLane r.a (j i)
      let bad := maskOf fun i => rb.bad.getLsbD i || (if j i = i then (c.vbad r.a).getLsbD i else c.otherBad r.a (j i))
      (c.vwrite r.d act val bad).done 4

/-- The vote over the active lanes (R94). -/
def voteHolds (m : VoteMode) (p act : Mask) : Bool :=
  match m with
  | .all => (p &&& act) == act
  | .any => (p &&& act) != 0
  | .eq => (p &&& act) == act || (p &&& act) == 0

/-- VOTE (R94); a poisoned bit it reads poisons what it writes (R102). -/
def execVote (m : VoteMode) (r : LrU) (s : State) : Host.Outcome State Fault Refusal :=
  s.run (.vote m r) fun c =>
    let act := c.active r.g
    let pa : PName := r.a.setWidth 3
    let v : Mask := if voteHolds m (c.w.pget pa) act then 0xFFFFFFFF#32 else 0
    let bad : Mask := if c.w.pbad pa &&& act ≠ 0 then 0xFFFFFFFF#32 else 0
    (c.pput (r.d.setWidth 3) act v bad).done 4

/-- BALLOT (R94). -/
def execBallot (r : LrU) (s : State) : Host.Outcome State Fault Refusal :=
  s.run (.ballot r) fun c =>
    let act := c.active r.g
    let pa : PName := r.a.setWidth 3
    c.fillWith r.g 4 r.d (fun _ => c.w.pget pa &&& act) (if c.w.pbad pa &&& act ≠ 0 then 0xFFFFFFFF#32 else 0)

/-- BCAST (R95), to a v-name or with `toS` to an s-name, which keeps its value when no lane is active. -/
def execBcast (toS : Bool) (r : LrA) (s : State) : Host.Outcome State Fault Refusal :=
  s.run (.bcast toS r) fun c =>
    let act := c.active r.g
    c.needs act [r.a] <|
      let j := (if r.bs then (c.w.sget r.b).toNat else r.b.toNat) % 32
      let bad := c.otherBad r.a j || (r.bs && c.w.sbad r.b)
      if toS then (if act = 0 then c else c.sput r.d (c.otherLane r.a j) bad).done 4
      else (c.vwrite r.d act (fun _ => c.otherLane r.a j) (if bad then 0xFFFFFFFF#32 else 0)).done 4

/-! ### Predicates (R90) -/

/-- PLOP: bit `i` of the three-input function of three masks. -/
def plopBit (lut : Byte) (a b c : Mask) (i : Nat) : Bool :=
  lut.getLsbD ((if a.getLsbD i then 4 else 0) + (if b.getLsbD i then 2 else 0) + (if c.getLsbD i then 1 else 0))

/-- PLOP (R90). -/
def execPlop (pd pa pb pc : PName) (lut : Byte) (g : Guard) (s : State) : Host.Outcome State Fault Refusal :=
  s.run (.plop pd pa pb pc lut g) fun c =>
    let bad := c.w.pbad pa ||| c.w.pbad pb ||| c.w.pbad pc
    (c.pput pd (c.active g) (maskOf fun i => plopBit lut (c.w.pget pa) (c.w.pget pb) (c.w.pget pc) i) bad).done 4

end Sys2Proof.Machine
end

