-- ==== Sys2Proof/Machine/Packed.lean ====
section
/-! DEFINITION. The packed and narrow integer instructions: DP4, UNT5, ASA, PACKI and UNPKI (R263 to R271). -/
namespace Sys2Proof.Machine

/-- Byte `k` of a lane at a byte type. -/
def byteOf (t : Ty) (x : BitVec 64) (k : Nat) : Int := t.toInt (x >>> (8 * k))

/-- The 32-bit type of DP4's c and result (R268). -/
def accTy (t : Ty) : Ty := if t.signed then .s32 else .n32

/-- DP4's exact sum (R268). -/
def dp4Sum (t : Ty) (x y z : BitVec 64) : Int :=
  (List.range 4).foldl (fun e k => e + byteOf t x k * byteOf t y k) ((accTy t).toInt z)

/-- ASA's exact sum (R264): the trit code in a[1:0], the activation in b[7:0]. -/
def asaSum (x y z : BitVec 64) : Int :=
  match (x.extractLsb' 0 2).toNat with
  | 0 => Ty.toInt .s32 z - Ty.toInt .s8 y
  | 2 => Ty.toInt .s32 z + Ty.toInt .s8 y
  | _ => Ty.toInt .s32 z

/-- A value lies outside a type's range. -/
def outside (t : Ty) (e : Int) : Bool := decide (e < t.lo ∨ t.hi < e)

/-- An INT32 accumulation in each active lane, with IOV from the lanes that are not poisoned (R266). -/
def Ctx.accum (c : Ctx) (r : LrM) (t : Ty) (f : BitVec 64 → BitVec 64 → BitVec 64 → Int) : Eff :=
  let act := c.active r.g
  let os : List Opnd := [⟨r.a, false, false⟩, ⟨r.b, r.bs, false⟩, ⟨r.m.c, r.m.cs, false⟩]
  c.needs act (os.flatMap Opnd.vnames) <|
    let ra := Opnd.read c ⟨r.a, false, false⟩
    let rb := Opnd.read c ⟨r.b, r.bs, false⟩
    let rc := Opnd.read c ⟨r.m.c, r.m.cs, false⟩
    let e := fun i => f (ra.val i) (rb.val i) (rc.val i)
    let bad := ra.bad ||| rb.bad ||| rc.bad
    let beyond := (lanesOf (act &&& ~~~bad)).any fun i => outside t (e i)
    let c := c.vwriteW r.d false act (fun i => t.result r.m.sat (e i)) bad
    (c.setW (c.w.raiseIov beyond)).done 8

/-- DP4 (R268). -/
def execDp4 (r : LrM) (s : State) : Host.Outcome State Fault Refusal :=
  s.run (.dp4 r) fun c => c.accum r (accTy r.m.t) (dp4Sum r.m.t)

/-- ASA (R264). -/
def execAsa (r : LrM) (s : State) : Host.Outcome State Fault Refusal :=
  s.run (.asa r) fun c => c.accum r .s32 asaSum

/-! ### T5 bytes (R226, R265) -/

/-- The quotients and trits of a T5 byte by multiply and shift, five of them (R265). -/
def tritSteps : Nat → Nat → List Nat × Nat
  | 0, q => ([], q)
  | n + 1, q =>
    let q' := (q * 171) >>> 9
    let (ds, last) := tritSteps n q'
    ((q - 3 * q') :: ds, last)

/-- The trit codes of a byte, none for an illegal one (R265). -/
def trits (b : Nat) : Option (List Nat) :=
  let (ds, last) := tritSteps 5 b
  if last = 0 then some ds else none

/-- The codes UNT5 gives a byte (R263). -/
def tritCodes (b : Nat) : List Nat := (trits b).getD [1, 1, 1, 1, 1]

/-- UNT5's lane: five 2-bit codes. -/
def unt5Lane (b : Nat) : BitVec 64 := BitVec.ofNat 64 ((tritCodes b).foldr (fun d n => d + 4 * n) 0)

/-- UNT5 (R263). -/
def execUnt5 (r : LrA) (s : State) : Host.Outcome State Fault Refusal :=
  s.run (.unt5 r) fun c =>
    let act := c.active r.g
    let os : List Opnd := [⟨r.a, false, false⟩, ⟨r.b, r.bs, false⟩]
    c.needs act (os.flatMap Opnd.vnames) <|
      let ra := Opnd.read c ⟨r.a, false, false⟩
      let rb := Opnd.read c ⟨r.b, r.bs, false⟩
      let byte := fun i => ((ra.val i >>> (8 * ((rb.val i).toNat % 4))).extractLsb' 0 8).toNat
      let bad := ra.bad ||| rb.bad
      let off := maskOf fun i => act.getLsbD i && !bad.getLsbD i && (trits (byte i)).isNone
      match lanesOf off with
      | i :: _ =>
        if c.w.enbc then .trap c { cause := .badcode, info := BitVec.ofNat 32 (byte i), lanes := some off } else
        let c := c.vwriteW r.d false act (fun i => unt5Lane (byte i)) bad
        (c.setW (c.w.raiseBadcode true)).done 4
      | [] => (c.vwriteW r.d false act (fun i => unt5Lane (byte i)) bad).done 4

/-! ### PACKI and UNPKI (R269 to R271) -/

/-- The element width (R269). -/
def packWidth (m : ModWord) : Nat := if m.c == 1 then 4 else m.t.bits

/-- The names of a group. -/
def groupNames (n : Name) (k : Nat) : List Name := (List.range k).map (Name.after n)

/-- The bounds of a narrow type (R270). -/
def narrowLo (signed : Bool) (w : Nat) : Int := if signed then -((2 : Int) ^ (w - 1)) else 0
/-- The upper bound. -/
def narrowHi (signed : Bool) (w : Nat) : Int := if signed then (2 : Int) ^ (w - 1) - 1 else (2 : Int) ^ w - 1

/-- One field of PACKI (R270). -/
def packField (m : ModWord) (x : BitVec 64) : Nat :=
  let w := packWidth m
  let v := (accTy m.t).toInt x
  ((if m.sat then clampInt (narrowLo m.t.signed w) (narrowHi m.t.signed w) v else v) % 2 ^ w).toNat

/-- PACKI (R270). -/
def execPacki (r : LrM) (s : State) : Host.Outcome State Fault Refusal :=
  s.run (.packi r) fun c =>
    let k := packGroup r.m
    let os : List Opnd := (groupNames r.a k).map (fun n => ⟨n, false, false⟩)
      ++ (groupNames r.b k).map (fun n => ⟨n, r.bs, false⟩)
    c.laneOp r.g 8 r.d false os fun _ xs =>
      BitVec.ofNat 64 (xs.foldr (fun x n => packField r.m x + 2 ^ packWidth r.m * n) 0)

/-- One element of UNPKI, extended to 32 bits (R271). -/
def unpackField (m : ModWord) (x : BitVec 64) (n : Nat) : Word :=
  let w := packWidth m
  BitVec.ofInt 32 (extendFrom m.t.signed w ((x >>> (w * n)).toNat % 2 ^ w))

/-- UNPKI (R271). -/
def execUnpki (r : LrM) (s : State) : Host.Outcome State Fault Refusal :=
  s.run (.unpki r) fun c =>
    let act := c.active r.g
    c.needs act [r.a] <|
      let ra := Opnd.read c ⟨r.a, false, false⟩
      let c := (List.range (2 * packGroup r.m)).foldl (fun (c : Ctx) n =>
        c.vwrite (Name.after r.d n) act (fun i => unpackField r.m (ra.val i) n) ra.bad) c
      c.done 8

end Sys2Proof.Machine
end

