-- ==== Sys2Proof/Machine/Tensor.lean ====
section
/-! DEFINITION. The arithmetic of an engine step (R233 to R235): element formats (R223 to R230), block scales (R229), group sums
and accumulation, with their shadow and residue checks (R259). -/
namespace Sys2Proof.Machine

/-! ### Element formats (R242, R230) -/

/-- The element format of one operand side (R242). -/
inductive EFmt where
  | bf16 | f16 | e4 | e5 | i8 | c4 | t5
deriving DecidableEq, Repr

/-- The code of a format in a reservation record. -/
def EFmt.code : EFmt → Nat
  | .bf16 => 0 | .f16 => 1 | .e4 => 2 | .e5 => 3 | .i8 => 4 | .c4 => 5 | .t5 => 6

/-- The sides of a pair. -/
def pairSides : FmtPair → EFmt × EFmt
  | .bf16 => (.bf16, .bf16) | .f16 => (.f16, .f16) | .e4e4 => (.e4, .e4) | .e4e5 => (.e4, .e5)
  | .e5e4 => (.e5, .e4) | .e5e5 => (.e5, .e5) | .s8 => (.i8, .i8) | .c4 => (.c4, .c4)
  | .t5s8 => (.t5, .i8) | .s8t5 => (.i8, .t5)

/-- The K depth of a step. -/
def pairK : FmtPair → Nat
  | .bf16 | .f16 => 48
  | .c4 => 192
  | _ => 96

/-- A pair accumulates in INT32. -/
def pairInt : FmtPair → Bool
  | .s8 | .t5s8 | .s8t5 => true
  | _ => false

/-- The byte of a row where element `k` stands. -/
def EFmt.byteAt (f : EFmt) (k : Nat) : Nat :=
  match f with
  | .bf16 | .f16 => 2 * k
  | .e4 | .e5 | .i8 => k
  | .c4 => k / 2
  | .t5 => k / 5

/-- The bytes of an element. -/
def EFmt.width : EFmt → Nat
  | .bf16 | .f16 => 2
  | _ => 1

/-- The byte after element `k - 1`. -/
def EFmt.byteEnd (f : EFmt) (k : Nat) : Nat := if k = 0 then 0 else f.byteAt (k - 1) + f.width

/-- An element's code with its poison. A T5 code is its trit, 3 for a trit of an illegal byte. -/
structure Elt where
  code : Nat
  bad  : Bool
deriving DecidableEq, Repr

/-- Element `k` of a row whose bytes are held from byte `lo` on. -/
def EFmt.elt (f : EFmt) (row : List (Byte × Bool)) (lo k : Nat) : Elt :=
  let at_ (i : Nat) : Nat × Bool := match row[f.byteAt k - lo + i]? with
    | some (b, p) => (b.toNat, p)
    | none => (0, false)
  let (b, p) := at_ 0
  match f with
  | .bf16 | .f16 => let (b1, p1) := at_ 1; ⟨b + 256 * b1, p || p1⟩
  | .e4 | .e5 | .i8 => ⟨b, p⟩
  | .c4 => ⟨b / (if k % 2 = 0 then 1 else 16) % 16, p⟩
  | .t5 => ⟨match trits b with | some ds => ds.getD (k % 5) 1 | none => 3, p⟩

/-! ### Values -/

/-- The exact product of two values; every NaN the engine makes is canonical (R234). -/
def FVal.mul : FVal → FVal → FVal
  | .fin n1 m1 e1, .fin n2 m2 e2 => .fin (n1 != n2) (m1 * m2) (e1 + e2)
  | .inf n1, .inf n2 => .inf (n1 != n2)
  | .inf n1, .fin n2 m _ | .fin n2 m _, .inf n1 => if m = 0 then .nan false false 1 else .inf (n1 != n2)
  | _, _ => .nan false false 1

/-- A BF16 value. -/
def bf16Val (x : BitVec 16) : FVal := Fmt.bf16.unpack x.toNat

/-- The value of a floating element, and whether its codebook entry is poisoned. -/
def EFmt.value (f : EFmt) (cb : List (BitVec 16 × Bool)) (e : Elt) : FVal × Bool :=
  match f with
  | .bf16 => (Fmt.bf16.unpack e.code, e.bad)
  | .f16 => (Fmt.f16.unpack e.code, e.bad)
  | .e4 => (f8Unpack .e4 e.code, e.bad)
  | .e5 => (f8Unpack .e5 e.code, e.bad)
  | .c4 => let (x, p) := cb.getD e.code (0, false); (bf16Val x, e.bad || p)
  | _ => (.fin false 0 0, e.bad)

/-- The value of an integer element: an illegal trit counts 0 (R226). -/
def EFmt.int (f : EFmt) (e : Elt) : Int :=
  match f with
  | .t5 => if e.code = 3 then 0 else (e.code : Int) - 1
  | _ => if e.code < 128 then e.code else (e.code : Int) - 256

/-- The scale of element `k` of operand row `r` of its tile, 1 where the side has none (R229). -/
def scaleAt (sc : Option Scales) (r k : Nat) : FVal × Bool :=
  match sc with
  | none => (.fin false 1 0, false)
  | some s => let (x, p) := (s.rows.getD r []).getD (k / s.len - s.first) (0, false); (bf16Val x, p)

/-- A value with its significand cut to 8 bits, as the shadow unit reads it (R259). -/
def FVal.cut8 : FVal → FVal
  | .fin n m e => let l := bitLen m; if l ≤ 8 then .fin n m e else .fin n ((m >>> (l - 8)) <<< (l - 8)) e
  | v => v

/-! ### Sums (R233, R234) -/

/-- The exact sum of the products of a group; `pad` says that the group has indices at or beyond K. -/
def groupExact (pad : Bool) (ps : List FVal) : FVal :=
  if ps.any FVal.isNan then .nan false false 1 else
  let pos := ps.any fun p => p == .inf false
  let neg := ps.any fun p => p == .inf true
  if pos && neg then .nan false false 1
  else if pos then .inf false
  else if neg then .inf true
  else
    let (v, e) := ps.foldl (fun (x : Int × Int) p => match p with
      | .fin n m k =>
        let lo := min x.2 k
        (x.1 * 2 ^ (x.2 - lo).toNat + (if n then -1 else 1) * (m : Int) * 2 ^ (k - lo).toNat, lo)
      | _ => x) ((0 : Int), (0 : Int))
    if v = 0 then .fin (!pad && ps.all FVal.neg) 0 0 else .fin (decide (v < 0)) v.natAbs e

/-- A value rounded once into FP32. -/
def round32 (v : FVal) : Nat :=
  match v with
  | .nan .. => Fmt.f32.canonNan
  | .inf n => Fmt.f32.infBits n
  | .fin n m e => (Fmt.f32.round .rn false n m e).bits

/-- acc + gs, rounded once, its NaN canonical. -/
def accum32 (acc gs : Nat) : Nat :=
  let r := (Fmt.f32.add .rn false false acc gs).bits
  if (Fmt.f32.unpack r).isNan then Fmt.f32.canonNan else r

/-- What is known of one K index of an output: the product of the scaled elements, and of the cut ones. -/
structure Prod where
  p : FVal
  h : FVal

/-- The shadow's group sum. R127 gives the addends of a lane addition alone: those of a group sum are read as its products (log 9,
DEDUCED). -/
def groupShadow (pad : Bool) (ps : List Prod) : Shadow :=
  { fmt := Fmt.f32, h := Fmt.f32.top7 .rn (round32 (groupExact pad (ps.map (·.h)))),
    addends := ps.filterMap fun x => x.p.expo? }

/-- The shadow's accumulation, of the accumulator cut to 8 significant bits and its own group sum `h` (R259). It is formed from
the products too, so its addends are the accumulator, the group sum and the group's products (log 9, DEDUCED). -/
def accumShadow (ps : List Prod) (acc gs h : Nat) : Shadow :=
  { fmt := Fmt.f32, h := Fmt.f32.top7 .rn (accum32 (Fmt.f32.cut8 acc) h),
    addends := [(Fmt.f32.unpack acc).expo?, (Fmt.f32.unpack gs).expo?].filterMap id ++ ps.filterMap fun x => x.p.expo? }

/-- What a soft error leaves of the first group sum of a step; where bit 32 of it is set it falls on the accumulation (log 9). -/
def struckSum (flt : Option DWord) : Option Word := flt.bind fun b => if b.getLsbD 32 then none else some (b.setWidth 32)

/-- What a soft error leaves of the first accumulation of a step. -/
def struckAcc (flt : Option DWord) : Option Word := flt.bind fun b => if b.getLsbD 32 then some (b.setWidth 32) else none

/-- One floating output over the groups of a step, each group sum and each accumulation checked where `chk` says that the output is
unpoisoned: none on a divergence (R259). A soft error that waits falls on the first group. -/
def floatOut (chk : Bool) : List (Bool × List Prod) → Option DWord → Nat → Option Nat
  | [], _, acc => some acc
  | (pad, ps) :: t, flt, acc =>
    let gs := ((struckSum flt).map (·.toNat)).getD (round32 (groupExact pad (ps.map (·.p))))
    let h := round32 (groupExact pad (ps.map (·.h)))
    let new := ((struckAcc flt).map (·.toNat)).getD (accum32 acc gs)
    if chk && ((groupShadow pad ps).differs gs || (accumShadow ps acc gs h).differs new) then none else floatOut chk t none new

/-- An integer wrapped to 32 bits (R235). -/
def wrap32 (x : Int) : Int := (x + 2 ^ 31) % 2 ^ 32 - 2 ^ 31

/-- One integer output: its value and whether IOV is set (R235); none where the residue modulo 3 of a group sum or of an
accumulation differs from that of its operands (R259). A soft error that waits falls on the first group. -/
def intOut : List (List Int) → Option DWord → Int → Bool → Option (Int × Bool)
  | [], _, acc, iov => some (acc, iov)
  | g :: t, flt, acc, iov =>
    let e := g.foldl (· + ·) 0
    let gs := ((struckSum flt).map (·.toInt)).getD e
    let x := acc + gs
    let new := ((struckAcc flt).map (·.toInt)).getD (wrap32 x)
    if gs % 3 ≠ e % 3 ∨ new % 3 ≠ wrap32 x % 3 then none
    else intOut t none new (iov || decide (x < -2 ^ 31 ∨ 2 ^ 31 - 1 < x))

/-! ### A step -/

/-- A list in pieces of 16. -/
def chunk16 {α : Type} : Nat → List α → List (List α)
  | 0, _ => []
  | n + 1, l => if l.isEmpty then [] else l.take 16 :: chunk16 n (l.drop 16)

/-- The elements a step applies, row by row, on each side. -/
structure Operands where
  a : List (List Elt)
  b : List (List Elt)

/-- An operand element of a floating step: scaled value, shadow value, poison. -/
def scaledRow (f : EFmt) (cb : List (BitVec 16 × Bool)) (sc : Option Scales) (k0 r : Nat) (row : List Elt) :
    List (FVal × FVal × Bool) :=
  row.zipIdx.map fun (e, i) =>
    let (v, p) := f.value cb e
    let (s, q) := scaleAt sc r (k0 + i)
    (v.mul s, v.cut8.mul s.cut8, p || q)

/-- What a step leaves: the tile, and the flags it sets. -/
structure StepOut where
  tile    : Tile
  iov     : Bool
  badcode : Bool

/-- An output's new value over a step's operands: value, poison and IOV; none on a divergence. -/
def Step.output (t : Step) (fa fb : List (List (List (FVal × FVal × Bool)))) (ia ib : List (List (List Int)))
    (bad : Bool) (flt : Option DWord) (acc : Word) (r c : Nat) : Option (Word × Bool) :=
  if pairInt t.fmt then
    let gs := ((ia.getD r []).zip (ib.getD c [])).map fun (x, y) => (x.zip y).map fun (p, q) => p * q
    (intOut gs flt acc.toInt false).map fun (v, iov) => (BitVec.ofInt 32 v, iov && !bad)
  else
    let gs := ((fa.getD r []).zip (fb.getD c [])).map fun (x, y) =>
      (decide (x.length < 16), (x.zip y).map fun (p, q) => (⟨p.1.mul q.1, p.2.1.mul q.2.1⟩ : Prod))
    (floatOut (!bad) gs flt acc.toNat).map fun v => (BitVec.ofNat 32 v, false)

/-- The outputs of a step in order, the first unpoisoned one under a soft error that waits; none on a divergence. -/
def Step.outputs (t : Step) (f : Option DWord → Word → Nat → Option (Word × Bool)) (bads : Nat → Bool) :
    List (Nat × Word) → Option DWord → Option (List (Word × Bool) × Option DWord)
  | [], flt => some ([], flt)
  | (n, acc) :: l, flt =>
    let use := if bads n then none else flt
    match f use acc n with
    | none => none
    | some x => (outputs t f bads l (if bads n then flt else none)).map fun (xs, z) => (x :: xs, z)

/-- A step applied to a tile (R233 to R235, R260); none where a check diverges. -/
def Step.apply (t : Step) (ops : Operands) (tile : Tile) (flt : Option DWord) : Option (StepOut × Option DWord) :=
  let (ef, eg) := pairSides t.fmt
  let fa := ops.a.zipIdx.map fun (row, r) => scaledRow ef t.cbA t.sa t.k0 r row
  let fb := ops.b.zipIdx.map fun (row, r) => scaledRow eg t.cbB t.sb t.k0 r row
  let badRow (l : List (List (FVal × FVal × Bool))) (r : Nat) : Bool := (l.getD r []).any fun x => x.2.2
  let bads (n : Nat) : Bool := badRow fa (n / 16) || badRow fb (n % 16) || tile.poison.getLsbD n
  let ga := fa.map (chunk16 12)
  let gb := fb.map (chunk16 12)
  let ia := ops.a.map fun row => chunk16 12 (row.map ef.int)
  let ib := ops.b.map fun row => chunk16 12 (row.map eg.int)
  let accs := (List.range 256).map fun n => (n, tile.el[n]?.getD 0)
  (t.outputs (fun flt acc n => t.output ga gb ia ib (bads n) flt acc (n / 16) (n % 16)) bads
      accs flt).map fun (xs, flt) =>
    let illegal (f : EFmt) (l : List (List Elt)) : Bool :=
      f == .t5 && l.any fun row => row.any fun e => e.code == 3 && !e.bad
    ({ tile := { tile with
         el := Vector.ofFn fun i : Fin 256 => (xs.getD i.val (0, false)).1
         poison := (List.range 256).foldl (fun m n => if bads n then m ||| (1#256 <<< n) else m) tile.poison }
       iov := xs.any (·.2)
       badcode := illegal ef ops.a || illegal eg ops.b }, flt)

end Sys2Proof.Machine
end

