-- ==== Sys2Proof/Machine/Matrix.lean ====
section
/-! DEFINITION. The matrix instructions (R217, R218, R238 to R257): ownership, reservations, codebooks and scales, steps and their
completion, accumulator names and transfers. -/
namespace Sys2Proof.Machine

/-! ### Checks (R239) -/

/-- RESERVED_FIELD for an operand value: the s-name that holds the word (0xFF for the instruction word), the bit position
and the field's value (R239). -/
def fieldTrap (name pos value : Nat) : TrapInfo :=
  { cause := .reservedField, info := BitVec.ofNat 32 (65536 * name + 256 * pos + value % 256) }

/-- The first field of a list that breaks its limit. -/
def badWord (l : List (Bool × Nat × Nat × Nat)) : Option TrapInfo :=
  (l.find? fun x => x.1).map fun (_, n, p, v) => fieldTrap n p v

/-- Steps 2 to 4 of R239: convergence, the engine where the instruction needs it, poisoned operand words. -/
def Ctx.matrixCheck (c : Ctx) (i : Instr) (held : Bool) (words : List Name) (k : Eff) (ns : Bool := false) : Eff :=
  if !c.w.converged then .trap c { cause := .illegalConvergence, info := i.firstWord, noskip := ns }
  else if held && c.b.holder != some c.w.num then .trap c { cause := .matrixNotHeld, info := i.firstWord, noskip := ns }
  else if words.any c.w.sbad then .mcheck c .poisonConsumed
  else k

/-- Step 6 of R239. -/
def Ctx.fieldCheck (c : Ctx) (l : List (Bool × Nat × Nat × Nat)) (k : Eff) : Eff :=
  match badWord l with
  | some t => .trap c t
  | none => k

/-! ### Ownership (R217, R240, R241) -/

/-- Every lane of a predicate set to one value (R240). -/
def Ctx.pAll (c : Ctx) (p : PName) (on : Bool) : Ctx :=
  c.pput p 0xFFFFFFFF#32 (if on then 0xFFFFFFFF#32 else 0)

/-- MACQ (R240). -/
def execMacq (p : PName) (s : State) : Host.Outcome State Fault Refusal :=
  s.run (.macq p) fun c => c.matrixCheck (.macq p) false [] <|
    if c.b.holder.isNone || c.b.holder == some c.w.num then
      (({ c with b := { c.b with holder := some c.w.num } } : Ctx).pAll p true).done 4
    else (c.pAll p false).done 4

/-- MACQ.wait (R217, R240). -/
def execMacqWait (p : PName) (s : State) : Host.Outcome State Fault Refusal :=
  s.run (.macqWait p) fun c => c.matrixCheck (.macqWait p) false [] <|
    if c.b.holder.isNone || c.b.holder == some c.w.num then
      (({ c with b := { c.b with holder := some c.w.num } } : Ctx).pAll p true).done 4
    else .stay c (.macq p)

/-- MREL (R217). -/
def execMrel (s : State) : Host.Outcome State Fault Refusal :=
  s.run .mrel fun c => c.matrixCheck .mrel true [] <| ({ c with b := c.b.releaseEngine } : Ctx).done 4

/-- MPASS (R217): to a live warp of the block, or as MREL. -/
def execMpass (a : Name) (s : State) : Host.Outcome State Fault Refusal :=
  s.run (.mpass a) fun c => c.matrixCheck (.mpass a) true [a] <|
    let n := ((c.w.sget a).extractLsb' 0 4).toNat
    if c.b.live.any fun w => w.num == n then ({ c with b := { c.b with holder := some n } } : Ctx).done 4
    else ({ c with b := c.b.releaseEngine } : Ctx).done 4

/-! ### The operand buffer (R243 to R247) -/

namespace OpBuf

/-- A reservation. -/
def resv? (o : OpBuf) (i : Nat) : Option Resv := (o.resv[i]?).join
/-- A reservation's first byte and its size (R243). -/
def span (r : Resv) : Nat × Nat := (256 * fld r.f 0 8, 256 * (fld r.f 8 8 + 1))
/-- A byte of the buffer: what SCLD wrote, else a free byte (R243). -/
def byte (o : OpBuf) (a : Nat) : Byte :=
  match lookupN o.free (a / 16) with
  | some seed => Config.freeByte (seed + a % 16)
  | none => o.mem.read a
/-- A BF16 value at a byte of the buffer, with its poison. -/
def scale (o : OpBuf) (a : Nat) : BitVec 16 × Bool := (o.byte (a + 1) ++ o.byte a, o.poison.contains (a / 2))

end OpBuf

/-- The scale block length of a code (R243). -/
def scaleLen (k : Nat) : Nat := if k = 0 then 0 else 8 * 2 ^ k

/-- OBRES (R243). -/
def execObres (idx : BitVec 3) (f sn : Name) (s : State) : Host.Outcome State Fault Refusal :=
  s.run (.obres idx f sn) fun c => c.matrixCheck (.obres idx f sn) false [f, sn] <|
    let a := c.w.sget f
    let b := c.w.sget sn
    let nf := f.toNat
    let ns := sn.toNat
    let scaled := [2, 3, 5].contains (fld b 0 4)
    let r : Resv := ⟨a, b⟩
    let (lo, n) := OpBuf.span r
    let meets (x : Option Resv) : Bool := match x with
      | some y => let (lo', n') := OpBuf.span y; decide (lo < lo' + n' ∧ lo' < lo + n)
      | none => false
    c.fieldCheck [
      (decide (255 < fld a 0 8 + fld a 8 8), nf, 8, fld a 8 8), (fld a 16 16 != 0, nf, 16, fld a 16 16),
      (decide (6 < fld b 0 4), ns, 0, fld b 0 4), (!scaled && fld b 4 2 != 0, ns, 4, fld b 4 2),
      (fld b 6 1 != 0, ns, 6, 1), (fld b 0 4 != 5 && fld b 7 4 != 0, ns, 7, fld b 7 4), (fld b 11 1 != 0, ns, 11, 1),
      ((fld b 4 2 != 0) != (fld b 24 8 != 0), ns, 24, fld b 24 8),
      ((c.b.ob.resv? idx.toNat).isSome, 0xFF, 8, idx.toNat),
      (c.b.ob.resv.toList.any meets, nf, 0, fld a 0 8)] <|
      let seed := c.s.fresh
      let units := (List.range (n / 16)).map fun i => lo / 16 + i
      let ob := c.b.ob
      let ob := { ob with
        resv := ob.resv.setIfInBounds idx.toNat (some r)
        free := units.zipIdx.foldl (fun l x => insertN l x.1 (seed + 16 * x.2)) ob.free
        poison := ob.poison.filter fun p => !decide (lo ≤ 2 * p ∧ 2 * p < lo + n) }
      ({ c with s := { c.s with fresh := seed + n }, b := { c.b with ob } } : Ctx).done 4

/-- OBREL (R244). -/
def execObrel (idx : BitVec 3) (s : State) : Host.Outcome State Fault Refusal :=
  s.run (.obrel idx) fun c => c.matrixCheck (.obrel idx) false [] <|
    let ob := c.b.ob
    ({ c with b := { c.b with ob := { ob with resv := ob.resv.setIfInBounds idx.toNat none } } } : Ctx).done 4

/-- A scratchpad source of `n` bytes, read at hand-over as LD reads (R247). -/
def Ctx.bufSource (c : Ctx) (a : Word) (n : Nat) (k : ScrLoc → Eff) : Eff :=
  match c.engLoc a 16 n with
  | .error t => .trap c t
  | .ok l => if !c.present l n then .stay c (.absent (linesAt l n)) else c.inOrder .rlx .core (k l)

/-- CBLD (R245). -/
def execCbld (idx : BitVec 3) (f : Name) (s : State) : Host.Outcome State Fault Refusal :=
  s.run (.cbld idx f) fun c => c.matrixCheck (.cbld idx f) false [f] <|
    let r := c.b.ob.resv? idx.toNat
    let isC4 := match r with | some r => fld r.s 0 4 == 5 | none => false
    c.fieldCheck [(!isC4, 0xFF, 8, idx.toNat)] <|
      c.bufSource (c.w.sget f) 32 fun l =>
        let bs := c.get l 32
        let slot := match r with | some r => fld r.s 7 4 | none => 0
        let tbl : Vector (BitVec 16 × Bool) 16 := Vector.ofFn fun i : Fin 16 =>
          (BitVec.ofNat 16 (fieldAt bs (2 * i.val) 2), c.getBad { l with off := l.off + 2 * i.val } 2)
        let ob := c.b.ob
        ({ c with b := { c.b with ob := { ob with cb := ob.cb.setIfInBounds slot tbl } } } : Ctx).done 4

/-- SCLD (R246). -/
def execScld (idx : BitVec 3) (f sn : Name) (s : State) : Host.Outcome State Fault Refusal :=
  s.run (.scld idx f sn) fun c => c.matrixCheck (.scld idx f sn) false [f, sn] <|
    let x := c.w.sget sn
    let ns := sn.toNat
    let n := fld x 0 13
    let d := fld x 16 12
    let (lo, size) := match c.b.ob.resv? idx.toNat with | some r => OpBuf.span r | none => (0, 0)
    c.fieldCheck [
      ((c.b.ob.resv? idx.toNat).isNone, 0xFF, 8, idx.toNat), (decide (n = 0 ∨ 4096 < n), ns, 0, n),
      (fld x 13 3 != 0, ns, 13, fld x 13 3), (decide (size < 16 * (d + n)), ns, 16, d), (fld x 28 4 != 0, ns, 28, fld x 28 4)] <|
      c.bufSource (c.w.sget f) (16 * n) fun l =>
        let ob := c.b.ob
        let at_ := lo + 16 * d
        let ob := { ob with
          mem := ob.mem.writeN at_ (c.get l (16 * n))
          free := ob.free.filter fun u => !decide (at_ / 16 ≤ u.1 ∧ u.1 < at_ / 16 + n)
          poison := (List.range (8 * n)).foldl (fun p i =>
            if c.getBad { l with off := l.off + 2 * i } 2 then addN p (at_ / 2 + i) else removeN p (at_ / 2 + i)) ob.poison }
        ({ c with b := { c.b with ob } } : Ctx).done 4

/-! ### Accumulator names and tiles (R238) -/

/-- Fresh tiles of +0 for some names; none while too few of the 48 are free. -/
def Ctx.freshTiles (c : Ctx) (ns : List AName) (dirty : Bool) : Option Ctx :=
  if 48 < c.b.tiles.length + ns.length then none else
  let c := ns.foldl (fun (c : Ctx) n =>
    let id := c.b.freeTile.getD 0
    { c with b := { c.b with tiles := c.b.tiles ++ [⟨id, Vector.replicate 256 0, 0⟩] }
             w := c.w.setAcc n ⟨some id, dirty⟩ }) c
  some { c with b := ((c.b.setWarp c.w).sweepTiles) }

/-- The names of a range. -/
def aRange (first : AName) (n : Nat) : List AName := (List.range n).map fun i => first + BitVec.ofNat 4 i

/-- aL < aF, in the instruction word (R254, log 20). -/
def rangeField (first last : AName) : Bool × Nat × Nat × Nat := (decide (last.toNat < first.toNat), 0xFF, 4, last.toNat)

/-- AZERO (R218, R254). -/
def Ctx.azeroOp (c : Ctx) (first last : AName) : Eff :=
  c.matrixCheck (.azero first last) false [] <|
    c.fieldCheck [rangeField first last] <|
      match c.freshTiles (aRange first (last.toNat - first.toNat + 1)) false with
      | none => .stay c .handOver
      | some c => c.done 4

/-- AZERO (R218, R254). -/
def execAzero (first last : AName) (s : State) : Host.Outcome State Fault Refusal :=
  s.run (.azero first last) fun c => c.azeroOp first last

/-! ### Scratchpad operands (R249) -/

/-- What an MMA or MTILE from scratchpad names. -/
structure Geom where
  fmt : FmtPair
  aB  : Word
  aW  : Word
  bB  : Word
  bW  : Word
  sh  : Word

namespace Geom

/-- K of the shape word. -/
def k (g : Geom) : Nat := fld g.sh 0 16
/-- Mt. -/
def mt (g : Geom) : Nat := fld g.sh 16 2 + 1
/-- Nt. -/
def nt (g : Geom) : Nat := fld g.sh 18 2 + 1
/-- The steps of an MTILE (R251). -/
def total (g : Geom) : Nat := ceilDiv g.k (pairK g.fmt) * g.mt * g.nt
/-- The reservation the A side uses. -/
def resvA (g : Geom) : Option Nat := if fld g.sh 23 1 = 1 then some (fld g.sh 20 3) else none
/-- The reservation the B side uses. -/
def resvB (g : Geom) : Option Nat := if fld g.sh 27 1 = 1 then some (fld g.sh 24 3) else none

end Geom

/-- The geometry an instruction's s-names give. -/
def Ctx.geom (c : Ctx) (fmt : FmtPair) (f sn : Name) : Geom :=
  ⟨fmt, c.w.sget f, c.w.sget (Name.after f 1), c.w.sget (Name.after f 2), c.w.sget (Name.after f 3), c.w.sget sn⟩

/-- A side's use of a reservation breaks R249: it is not reserved, its format differs, or a scale lies outside it. -/
def OpBuf.badUse (o : OpBuf) (f : EFmt) (use : Option Nat) (tiles k : Nat) : Bool :=
  match use with
  | none => false
  | some i => match o.resv? i with
    | none => true
    | some r =>
      let len := scaleLen (fld r.s 4 2)
      fld r.s 0 4 != f.code || (len != 0 &&
        decide ((OpBuf.span r).2 < 16 * fld r.s 12 12 + 2 * (fld r.s 24 8 * (16 * tiles - 1) + (k - 1) / len) + 2))

/-- The field limits of the operand words (R249 to R251), in the order log 21 gives. -/
def Ctx.geomFields (c : Ctx) (g : Geom) (f sn : Name) (mma : Bool) (d : AName) : List (Bool × Nat × Nat × Nat) :=
  let nf := f.toNat
  let ns := sn.toNat
  let (ef, eg) := pairSides g.fmt
  [(fld g.aW 0 4 != 0, nf + 1, 0, fld g.aW 0 16), (fld g.bW 0 4 != 0, nf + 3, 0, fld g.bW 0 16),
   (g.k == 0, ns, 0, g.k), (fld g.sh 28 4 != 0, ns, 28, fld g.sh 28 4),
   (mma && g.mt != 1, ns, 16, g.mt - 1), (mma && g.nt != 1, ns, 18, g.nt - 1),
   (mma && decide (pairK g.fmt < g.k), ns, 0, g.k),
   (!mma && decide (16 < d.toNat + g.mt * g.nt), 0xFF, 0, d.toNat),
   (!mma && decide (256 < g.total), ns, 0, g.k),
   (c.b.ob.badUse ef g.resvA g.mt g.k, ns, 20, (g.resvA.getD 0)),
   (c.b.ob.badUse eg g.resvB g.nt g.k, ns, 24, (g.resvB.getD 0))]

/-- The lowest of some addresses that fails the checks of R156. -/
def lowest (a b : Option Word) : Option Word :=
  match a, b with
  | some x, some y => if x.ult y then some x else some y
  | some x, none => some x
  | none, y => y

/-- The lowest offending byte of a side's row elements below K (R251). -/
def Ctx.sideBad (c : Ctx) (f : EFmt) (base word : Word) (tiles k : Nat) : Option Word :=
  let n := f.byteEnd k
  (List.range tiles).foldl (fun acc i => (List.range 16).foldl (fun acc r => (List.range (ceilDiv n 16)).foldl (fun acc q =>
    let a := tileAddr base word i r (16 * q)
    let m := min 16 (n - 16 * q)
    if (c.resolve a m).isSome then acc
    else (List.range m).foldl (fun acc j =>
      let x := a + BitVec.ofNat 32 j
      if (c.resolve x 1).isSome then acc else lowest acc (some x)) acc) acc) acc) none

/-- The checks of a start from scratchpad: fields, alignment, bounds (R239, R249, R251). -/
def Ctx.geomCheck (c : Ctx) (g : Geom) (f sn : Name) (mma : Bool) (d : AName) (k : Eff) (ns : Bool := false) : Eff :=
  let trap (t : TrapInfo) : Eff := .trap c { t with noskip := ns }
  match badWord (c.geomFields g f sn mma d) with
  | some t => trap t
  | none =>
    if g.aB.toNat % 16 ≠ 0 then trap { cause := .misaligned, info := 0, addr := some (g.aB.setWidth 64) }
    else if g.bB.toNat % 16 ≠ 0 then trap { cause := .misaligned, info := 0, addr := some (g.bB.setWidth 64) }
    else
      let (ef, eg) := pairSides g.fmt
      match lowest (c.sideBad ef g.aB g.aW g.mt g.k) (c.sideBad eg g.bB g.bW g.nt g.k) with
      | some a => trap { cause := .scratchBounds, info := 0, addr := some (a.setWidth 64) }
      | none => k

/-- The bytes a step's K slice takes from a tile's rows. -/
def Ctx.sideBytes (c : Ctx) (f : EFmt) (base word : Word) (tile k0 kEnd : Nat) : List (List (Option (Byte × Bool))) :=
  let lo := f.byteAt k0
  (List.range 16).map fun r => (List.range (f.byteEnd kEnd - lo)).map fun j => c.peek (tileAddr base word tile r (lo + j))

/-- The scales a side's tile reads in a K slice (R243). -/
def OpBuf.scales (o : OpBuf) (use : Option Nat) (tile k0 kEnd : Nat) : Option Scales :=
  (use.bind o.resv?).bind fun r =>
    let len := scaleLen (fld r.s 4 2)
    if len = 0 then none else
    let first := k0 / len
    some { len, first, rows := (List.range 16).map fun i => (List.range ((kEnd - 1) / len - first + 1)).map fun j =>
      o.scale ((OpBuf.span r).1 + 16 * fld r.s 12 12 + 2 * (fld r.s 24 8 * (16 * tile + i) + first + j)) }

/-- The codebook a side reads: its reservation's slot, else slot 0 (R249). -/
def OpBuf.codebook (o : OpBuf) (use : Option Nat) : List (BitVec 16 × Bool) :=
  let slot := match use.bind o.resv? with | some r => fld r.s 7 4 | none => 0
  (o.cb[slot]?.getD resetCodebook).toList

/-- Step `n` of an operation from scratchpad (R251), under a state of the operand buffer. -/
def Ctx.makeStep (c : Ctx) (g : Geom) (ob : OpBuf) (seq n tile : Nat) : Step :=
  let (ef, eg) := pairSides g.fmt
  let i := n / g.nt % g.mt
  let j := n % g.nt
  let k0 := n / (g.mt * g.nt) * pairK g.fmt
  let kEnd := min g.k (k0 + pairK g.fmt)
  { wid := c.wid, seq, tile, fmt := g.fmt
    a := .scr g.aB g.aW i (ef.byteAt k0) (c.sideBytes ef g.aB g.aW i k0 kEnd)
    b := .scr g.bB g.bW j (eg.byteAt k0) (c.sideBytes eg g.bB g.bW j k0 kEnd)
    k0, kEnd, sa := ob.scales g.resvA i k0 kEnd, sb := ob.scales g.resvB j k0 kEnd
    cbA := ob.codebook g.resvA, cbB := ob.codebook g.resvB }

/-- A step handed over: its name is dirty, the watchdog starts again (R238, R310). -/
def Ctx.pushStep (c : Ctx) (t : Step) (n : AName) : Ctx :=
  { c with b := { c.b with steps := c.b.steps ++ [t] }
           w := { (c.w.setAcc n { c.w.aget n with dirty := true }) with wdog := 0 } }

/-- The names of a range that are not in use. -/
def Ctx.unused (c : Ctx) (ns : List AName) : List AName := ns.filter fun n => (c.w.aget n).tile.isNone

/-- A byte of a v-name operand row: word `w` of row `r` stands in name va + w/2, lane 16·(w mod 2) + r (R248). -/
def Ctx.rowByte (c : Ctx) (va : Name) (r j : Nat) : Byte × Bool :=
  let w := j / 4
  let n := Name.after va (w / 2)
  let lane := 16 * (w % 2) + r
  ((((c.vlanes n)[lane]?.getD 0) >>> (8 * (j % 4))).setWidth 8, (c.vbad n).getLsbD lane)

/-- The rows of a v-name operand. -/
def Ctx.rowSide (c : Ctx) (va : Name) : Side :=
  .rows ((List.range 16).map fun r => (List.range 96).map fun j => c.rowByte va r j)

/-- The engine can take a step, and MTX another operation (R250, R257); an older acquire holds engine reads back (R204). -/
def Ctx.engineReady (c : Ctx) (starts : Bool) : Bool :=
  decide (c.b.steps.length < 4) && (!starts || decide (c.w.count .mtx < 8)) && !c.acqPending

/-- MMA once checked: a tile for the name, MTX raised, the step handed over. -/
def Ctx.mmaHand (c : Ctx) (d : AName) (mk : Ctx → Nat → Nat → Step) : Eff :=
  if !c.engineReady true then .stay c .handOver else
  match c.freshTiles (c.unused [d]) false with
  | none => .stay c .handOver
  | some k =>
    let (k, seq) := k.handOver .mtx 0 []
    (k.pushStep (mk c seq ((k.w.aget d).tile.getD 0)) d).done 4

/-- MMA from v-names (R250). -/
def Ctx.mmaRows (c : Ctx) (i : Instr) (fmt : FmtPair) (d : AName) (f sn : Name) : Eff :=
  c.matrixCheck i true [] <|
    match c.unmapped? ((List.range 12).map (Name.after f) ++ (List.range 12).map (Name.after sn)) with
    | some n => c.unmapped n
    | none => c.mmaHand d fun c seq tile =>
        { wid := c.wid, seq, tile, fmt, a := c.rowSide f, b := c.rowSide sn, k0 := 0, kEnd := pairK fmt,
          sa := none, sb := none, cbA := c.b.ob.codebook none, cbB := c.b.ob.codebook none }

/-- MMA from scratchpad (R250). -/
def Ctx.mmaScr (c : Ctx) (i : Instr) (fmt : FmtPair) (d : AName) (f sn : Name) : Eff :=
  let g := c.geom fmt f sn
  c.matrixCheck i true (sn :: (List.range 4).map (Name.after f)) <|
    c.geomCheck g f sn true d <| c.mmaHand d fun c seq tile => c.makeStep g c.b.ob seq 0 tile

/-- MMA (R250). -/
def Ctx.mmaOp (c : Ctx) (fmt : FmtPair) (scr : Bool) (d : AName) (f sn : Name) : Eff :=
  if scr then c.mmaScr (.mma fmt scr d f sn) fmt d f sn else c.mmaRows (.mma fmt scr d f sn) fmt d f sn

/-- MMA (R250). -/
def execMma (fmt : FmtPair) (scr : Bool) (d : AName) (f sn : Name) (s : State) : Host.Outcome State Fault Refusal :=
  s.run (.mma fmt scr d f sn) fun c => c.mmaOp fmt scr d f sn

/-- Step `ctr` of an MTILE handed over, and what follows: the next step, or retirement after the last (R251). -/
def Ctx.mtileHand (c : Ctx) (g : Geom) (d : AName) (seq : Nat) : Eff :=
  if !c.engineReady false then .stay c (.mtile seq) else
  let n := c.w.ctr
  let name := d + BitVec.ofNat 4 (g.nt * (n / g.nt % g.mt) + n % g.nt)
  let k := c.pushStep (c.makeStep g c.b.snap seq n ((c.w.aget name).tile.getD 0)) name
  if n + 1 < g.total then .stay (k.setW { k.w with ctr := n + 1 }) (.mtile seq)
  else (k.setW { k.w with ctr := 0 }).done 4

/-- The undo entry of an MTILE (R144), made at its first step, or where it goes on and the log holds none of it (log 35): the old
mappings of its names, and what the tiles of those in use held. -/
def Ctx.mtileUndo (o c : Ctx) (i : Instr) (ns : List AName) : Undo :=
  { undoEntry o c i with tiles := ns.filterMap fun n => o.b.tileCopy (o.w.aget n) }

/-- A start of an MTILE (R251): its checks, its tiles, MTX raised once, and its first step. -/
def Ctx.mtileStart (c : Ctx) (i : Instr) (g : Geom) (d : AName) (f sn : Name) : Eff :=
  c.matrixCheck i true (sn :: (List.range 4).map (Name.after f)) (ns := c.w.ctr != 0) <|
    c.geomCheck g f sn false d (ns := c.w.ctr != 0) <|
      let more := decide (c.w.ctr < g.total)
      if more && !c.engineReady true then .stay c .handOver else
      match c.freshTiles (c.unused (aRange d (g.mt * g.nt))) false with
      | none => .stay c .handOver
      | some k =>
        if !more then (k.setW { k.w with ctr := 0 }).done 4
        else
          let (k, seq) := k.handOver .mtx 0 []
          let logs := c.b.debug && (c.w.ctr == 0 || !c.w.undo.any fun u => u.pc == c.w.pc)
          let k := if logs then c.pushUndo k (c.mtileUndo k i (aRange d (g.mt * g.nt))) else k
          ({ k with b := { k.b with snap := k.b.ob }, w := { k.w with ctrPc := k.w.pc } } : Ctx).mtileHand g d seq

/-- MTILE (R251, R252): the rest of a start, or a start at step ctr of the same address, else at step 0. -/
def Ctx.mtileOp (c : Ctx) (i : Instr) (fmt : FmtPair) (d : AName) (f sn : Name) : Eff :=
  let g := c.geom fmt f sn
  match c.w.st with
  | .mtile seq => c.mtileHand g d seq
  | _ =>
    let c := if c.w.ctr ≠ 0 ∧ c.w.ctrPc ≠ c.w.pc then c.setW { c.w with ctr := 0 } else c
    c.mtileStart i g d f sn

/-- MTILE (R251). -/
def execMtile (fmt : FmtPair) (d : AName) (f sn : Name) (s : State) : Host.Outcome State Fault Refusal :=
  s.run (.mtile fmt d f sn) fun c => c.mtileOp (.mtile fmt d f sn) fmt d f sn

/-! ### Accumulator transfers (R255) -/

/-- The row pitch of a transfer. -/
def xPitch (w : Word) : Nat := fld w 0 16
/-- Nt of a transfer. -/
def xNt (w : Word) : Nat := fld w 16 2 + 1

/-- The address of an element of tile `t` of a range. -/
def xAddr (base w : Word) (t e : Nat) : Word :=
  base + BitVec.ofNat 32 ((16 * (t / xNt w) + e / 16) * xPitch w + 4 * (16 * (t % xNt w) + e % 16))

/-- Steps 6 to 8 of R239 for a transfer of `n` tiles. -/
def Ctx.xferCheck (c : Ctx) (first last : AName) (f sn : Name) (k : Eff) : Eff :=
  let w := c.w.sget sn
  let base := c.w.sget f
  c.fieldCheck [rangeField first last, (fld w 0 2 != 0, sn.toNat, 0, fld w 0 16), (fld w 18 14 != 0, sn.toNat, 18, fld w 18 14)] <|
    if base.toNat % 4 ≠ 0 then .trap c { cause := .misaligned, info := 0, addr := some (base.setWidth 64) }
    else
      let bad := (List.range (last.toNat - first.toNat + 1)).foldl (fun acc t => (List.range 256).foldl (fun acc e =>
        let a := xAddr base w t e
        if (c.resolve a 4).isSome then acc else lowest acc (some a)) acc) none
      match bad with
      | some a => .trap c { cause := .scratchBounds, info := 0, addr := some (a.setWidth 64) }
      | none => k

/-- The places of the elements of a tile of a transfer. -/
def Ctx.xPlaces (c : Ctx) (base w : Word) (t : Nat) : List ScrLoc :=
  (List.range 256).filterMap fun e => c.resolve (xAddr base w t e) 4

/-- ALD (R255): the names map fresh tiles, and the elements are read at hand-over. -/
def Ctx.aldOp (c : Ctx) (i : Instr) (first last : AName) (f sn : Name) : Eff :=
  c.matrixCheck i false [f, sn] <| c.xferCheck first last f sn <|
    let n := last.toNat - first.toNat + 1
    let base := c.w.sget f
    let w := c.w.sget sn
    let places := (List.range n).map fun t => c.xPlaces base w t
    let gone := places.flatten.filter fun l => !c.present l 4
    if !gone.isEmpty then .stay c (.absent (gone.flatMap fun l => linesAt l 4))
    else if 8 ≤ c.w.count .mtx then .stay c .handOver
    else c.inOrder .rlx .core <|
      match c.freshTiles (aRange first n) true with
      | none => .stay c .handOver
      | some k =>
        let (k, seq) := k.handOver .mtx 0 []
        let el := places.map fun ls => ls.map fun l => (BitVec.ofNat 32 (leNat (c.get l 4)), c.getBad l 4)
        let x : Xfer := ⟨k.wid, seq, true, (aRange first n).map fun a => (k.w.aget a).tile.getD 0, el, base, 0, 0, []⟩
        ({ k with b := { k.b with xfers := k.b.xfers ++ [x] } } : Ctx).done 4

/-- ALD (R255). -/
def execAld (first last : AName) (f sn : Name) (s : State) : Host.Outcome State Fault Refusal :=
  s.run (.ald first last f sn) fun c => c.aldOp (.ald first last f sn) first last f sn

/-- The lines an AST of some names writes. -/
def Ctx.astLines (c : Ctx) (n : Nat) (base w : Word) : List ScrLoc :=
  ((List.range n).flatMap fun t => c.xPlaces base w t).foldl (fun (acc : List ScrLoc) l =>
    let k : ScrLoc := ⟨l.blk, l.off / 64 * 64⟩
    if acc.contains k then acc else acc ++ [k]) []

/-- AST (R255): every name in use; its destination lines wait from hand-over on. -/
def Ctx.astOp (c : Ctx) (i : Instr) (first last : AName) (f sn : Name) : Eff :=
  c.matrixCheck i false [f, sn] <|
    let n := last.toNat - first.toNat + 1
    let ns := if last.toNat < first.toNat then [] else aRange first n
    match c.unused ns with
    | a :: _ => .trap c { cause := .unmappedName, info := BitVec.ofNat 32 (64 + a.toNat) }
    | [] => c.xferCheck first last f sn <|
      let base := c.w.sget f
      let w := c.w.sget sn
      let ls := c.astLines n base w
      if 8 ≤ c.w.count .mtx ∨ !c.canPend ls then .stay c .handOver
      else c.inOrder .rlx .core <|
        let (k, seq) := (c.pendAll ls).handOver .mtx 0 []
        let x : Xfer := ⟨k.wid, seq, false, ns.map fun a => (c.w.aget a).tile.getD 0, [], base, xPitch w, xNt w, ls⟩
        ({ k with b := { k.b with xfers := k.b.xfers ++ [x] } } : Ctx).done 4

/-- AST (R255). -/
def execAst (first last : AName) (f sn : Name) (s : State) : Host.Outcome State Fault Refusal :=
  s.run (.ast first last f sn) fun c => c.astOp (.ast first last f sn) first last f sn

/-! ### AMOVV (R256) -/

/-- An accumulator element times sb, exact: its value, and NV of a signalling NaN's or invalid product (R110). -/
def amovProduct (s32 : Bool) (acc sb : Word) : FVal × Exc :=
  let x : FVal := if s32 then .fin (decide (acc.toInt < 0)) acc.toInt.natAbs 0 else Fmt.f32.unpack acc.toNat
  let y := Fmt.f32.unpack sb.toNat
  let nv : Exc := if x.isSig || y.isSig then Exc.nv else 0
  if x.isNan then (x, nv) else if y.isNan then (y, nv)
  else match x.mul y with
    | .nan .. => (.nan false false (2 ^ 22), Exc.nv)
    | v => (v, 0)

/-- A value converted to a floating type as CVT does, from an FP32 NaN where it is one (R119). -/
def amovFloat (g : Fmt) (rm : Rm) (sat ftz : Bool) (v : FVal × Exc) : FRes :=
  match v.1 with
  | .nan n s frac =>
    let r := Fmt.f32.convert g rm sat ftz (Fmt.f32.infBits n + frac % 2 ^ 23)
    { r with exc := if s then r.exc ||| v.2 else v.2 }
  | .inf n => ⟨if sat then g.maxBits n else g.infBits n, v.2⟩
  | .fin n m e =>
    let r := g.round rm (ftz && g.flushes) n m e
    if sat && r.bits == g.infBits n then { r with bits := g.maxBits n } else r

/-- The type an AMOVV writes. -/
def amovTy : AmovTy → Ty
  | .f32 => .f32 | .f16 => .f16 | .bf16 => .bf16 | .s32 => .s32

/-- One element of an AMOVV. -/
def amovElem (r : AmovOp) (ftz : Bool) (acc sb : Word) : FRes :=
  match r.t with
  | .s32 =>
    if r.s32 then ⟨acc.toNat, 0⟩
    else
      let v := amovProduct false acc sb
      let (z, e) := toIntTy .s32 r.rm v.1
      ⟨(BitVec.ofInt 32 z).toNat, e ||| v.2⟩
  | t => amovFloat (fmtOf (amovTy t)) r.rm r.sat ftz (amovProduct r.s32 acc sb)

/-- The elements a lane of destination name `m` takes, in order (R256). -/
def amovIndex (t : AmovTy) (m lane : Nat) : List Nat :=
  match t with
  | .f32 | .s32 => [16 * (2 * m + lane / 16) + lane % 16]
  | _ => [16 * (4 * m + lane / 8) + 2 * (lane % 8), 16 * (4 * m + lane / 8) + 2 * (lane % 8) + 1]

/-- What the shadow unit has of an AMOVV element: the conversion of cut operands. -/
def amovShadow (r : AmovOp) (ftz : Bool) (acc sb : Word) : Shadow :=
  let g := fmtOf (amovTy r.t)
  let v := match amovProduct r.s32 acc sb with
    | (.fin _ _ _, e) =>
      let x : FVal := if r.s32 then .fin (decide (acc.toInt < 0)) acc.toInt.natAbs 0 else Fmt.f32.unpack acc.toNat
      (x.cut8.mul (Fmt.f32.unpack sb.toNat).cut8, e)
    | p => p
  { fmt := g, h := g.top7 r.rm (amovFloat g r.rm r.sat ftz v).bits }

/-- Operations of the warp that write a tile and have not completed. -/
def Block.writesTile (b : Block) (tile : Nat) : Bool :=
  (b.steps.any fun t => t.tile == tile) || (b.xfers.any fun x => x.load && x.tiles.contains tile)

/-- The tile read into rows (R256). -/
def Ctx.amovRows (c : Ctx) (r : AmovOp) (t : Tile) : Eff :=
  let sb := c.w.sget r.b
  let names := match r.t with | .f32 | .s32 => 8 | _ => 4
  let moved := r.s32 && r.t == .s32
  let sbBad := c.w.sbad r.b && !moved
  let float := match r.t with | .s32 => false | _ => true
  let bad (e : Nat) : Bool := t.poison.getLsbD e || sbBad
  let acc (e : Nat) : Word := t.el[e]?.getD 0
  let lane (l : Nat) : List Nat := (List.range names).flatMap fun m => amovIndex r.t m l
  let one (e : Nat) : FRes := amovElem r c.w.ftz (acc e) sb
  let results (l : Nat) : List (FRes × Bool) := (lane l).map fun e => (one e, bad e)
  let out := if float then c.checkElems 0xFFFFFFFF#32 results fun l => (lane l).map fun e => amovShadow r c.w.ftz (acc e) sb
    else some (c, (List.range 32).map fun l => (l, (results l).filterMap fun x => if x.2 then none else some x.1))
  match out with
  | none => .mcheck { c with s := { c.s with upset := none } } .shadow
  | some (k, rs) =>
    let clean (l : Nat) : List FRes := (lookupN rs l).getD []
    let per := (amovIndex r.t 0 0).length
    let word (m l : Nat) : Word :=
      let es := ((mergeClean (results l) (clean l)).drop (m * per)).take per
      BitVec.ofNat 32 (es.foldr (fun x n => x.bits + 65536 * n) 0)
    let k := (List.range names).foldl (fun (k : Ctx) m =>
      k.vwrite (Name.after r.d m) 0xFFFFFFFF#32 (word m) (maskOf fun l => (amovIndex r.t m l).any bad)) k
    c.fpRetire k 0xFFFFFFFF#32 (fun l => excOf (clean l)) 4

/-- AMOVV (R256). -/
def execAmovv (r : AmovOp) (s : State) : Host.Outcome State Fault Refusal :=
  s.run (.amovv r) fun c => c.matrixCheck (.amovv r) false [] <|
    match (c.w.aget (r.a.setWidth 4)).tile with
    | none => .trap c { cause := .unmappedName, info := BitVec.ofNat 32 (64 + r.a.toNat % 16) }
    | some id => match c.b.tile? id with
      | none => .trap c { cause := .unmappedName, info := BitVec.ofNat 32 (64 + r.a.toNat % 16) }
      | some t => if c.b.writesTile id then .stay c .oldest else c.amovRows r t

/-! ### Completion (R250, R252, R253, R255, R257) -/

/-- A step may complete: no older operation outstanding writes or reads its tile (R253, R255). -/
def Block.stepReady (b : Block) (ix : Nat) (t : Step) : Bool :=
  !((b.steps.take ix).any fun x => x.tile == t.tile) && !(b.xfers.any fun x => x.tiles.contains t.tile && decide (x.seq < t.seq))

/-- An element where scratchpad changed since hand-over is the old or the new one, as a free value decides (R253). -/
def chooseElt (old : Option Elt) (new : Elt) (n : Nat) : Elt :=
  match old with
  | some o => if o = new then new else if (Config.freeByte n).getLsbD 0 then o else new
  | none => new

/-- All of a list, or none. -/
def allSome {α : Type} : List (Option α) → Option (List α)
  | [] => some []
  | none :: _ => none
  | some x :: t => (allSome t).map fun l => x :: l

/-- The elements of a side as its step reads them, none while a line is absent. -/
def Ctx.sideElts (c : Ctx) (f : EFmt) (sd : Side) (k0 kEnd seed : Nat) : Option (List (List Elt)) :=
  let lo := f.byteAt k0
  let n := kEnd - k0
  match sd with
  | .rows r => some (r.map fun row => (List.range n).map fun i => f.elt (row.drop lo) lo (k0 + i))
  | .scr base word tile _ old =>
    allSome ((c.sideBytes f base word tile k0 kEnd).zipIdx.map fun (row, r) => (allSome row).map fun now =>
      let was := old.getD r []
      (List.range n).map fun i =>
        let at_ := f.byteAt (k0 + i) - lo
        let o := if ((was.drop at_).take f.width).all Option.isSome then
            some (f.elt (was.map fun x => x.getD (0, false)) lo (k0 + i)) else none
        chooseElt o (f.elt now lo (k0 + i)) (seed + 192 * r + i))

/-- MTX leaves an operation whose last step has completed, unless its MTILE still hands steps over (R251, R252). -/
def State.closeStep (s : State) (w : WarpId) (seq : Nat) : State :=
  match s.ctxOf w with
  | none => s
  | some c =>
    if (c.b.steps.any fun t => t.seq == seq) || c.w.st == .mtile seq then s else s.completeOp w seq none

/-- An undo entry whose instruction is younger than an operation that has just written a tile: the tile's old contents are what
the operation leaves. -/
def Undo.aged (u : Undo) (seq : Nat) (t : Tile) : Undo :=
  if seq < u.seq then { u with tiles := u.tiles.map fun x => if x.1 = t.id then (t.id, t.el, t.poison) else x } else u

/-- A tile as an operation leaves it. -/
def Block.finishTile (b : Block) (seq : Nat) (t : Tile) : Block :=
  let b := b.setTile t
  { b with warps := b.warps.map fun (w : Warp) => { w with undo := w.undo.map fun u => u.aged seq t } }

/-- MATRIX_STEP_COMPLETE (R250): the outstanding step `ix` of a block reads its operands and accumulates. -/
def execMatrixStepComplete (lid gang num ix : Nat) (s : State) : Host.Outcome State Fault Refusal :=
  match s.block? ⟨lid, gang, num⟩ with
  | none => .next s
  | some b => match b.steps[ix]? with
    | none => .next s
    | some t => match s.ctxOf t.wid, b.tile? t.tile with
      | some c, some tile =>
        if !b.stepReady ix t then .next s else
        let (ef, eg) := pairSides t.fmt
        match c.sideElts ef t.a t.k0 t.kEnd s.fresh, c.sideElts eg t.b t.k0 t.kEnd (s.fresh + 3072) with
        | some ea, some eb =>
          let b := { b with steps := b.steps.eraseIdx ix }
          match t.apply ⟨ea, eb⟩ tile s.upset with
          | none => .next (({ s with upset := none }.setBlock b).asyncMCheck t.wid .shadow)
          | some (o, flt) =>
            let s := { s with upset := flt, fresh := s.fresh + 6144 }.setBlock (b.finishTile t.seq o.tile)
            let s := s.updWarp t.wid fun w => w.flagLate t.seq o.iov o.badcode
            let s := s.closeStep t.wid t.seq
            .next (s.updBlock ⟨lid, gang, num⟩ Block.sweepTiles)
        | _, _ => .next s
      | _, _ => .next s

/-- An older operation that a transfer waits for is outstanding: one that writes a tile it reads, or an older transfer
of the tile (R255). -/
def Block.xferBlocked (b : Block) (x : Xfer) : Bool :=
  (b.steps.any fun t => x.tiles.contains t.tile && decide (t.seq < x.seq))
    || (b.xfers.any fun y => decide (y.seq < x.seq) && x.tiles.any fun t => y.tiles.contains t)

/-- A loaded tile: the elements ALD read, row by row. -/
def loadedTile (id : Nat) (es : List (Word × Bool)) : Tile :=
  { id, el := Vector.ofFn fun i : Fin 256 => (es.getD i.val (0, false)).1
    poison := es.zipIdx.foldl (fun m x => if x.1.2 then m ||| (1#256 <<< x.2) else m) 0 }

/-- AST's elements written to scratchpad, in name and element order. -/
def State.storeTiles (s : State) (c : Ctx) (x : Xfer) : State :=
  x.tiles.zipIdx.foldl (fun (s : State) (id, t) => match c.b.tile? id with
    | none => s
    | some tile => (List.range 256).foldl (fun (s : State) e =>
        let w : Word := BitVec.ofNat 32 (x.pitch + 65536 * (x.nt - 1))
        match c.resolve (xAddr x.base w t e) 4 with
        | some l => s.putScr l ((leBytes 4 (tile.el[e]?.getD 0).toNat).map fun y => (y, tile.poison.getLsbD e))
        | none => s) s) s

/-- ACCUMULATOR_TRANSFER_COMPLETE (R255): an ALD or AST of a block moves its elements, and MTX falls. -/
def execAccumulatorTransferComplete (lid gang num seq : Nat) (s : State) : Host.Outcome State Fault Refusal :=
  match s.block? ⟨lid, gang, num⟩ with
  | none => .next s
  | some b => match b.xfers.find? fun x => x.seq == seq with
    | none => .next s
    | some x => match s.ctxOf x.wid with
      | none => .next s
      | some c =>
        if b.xferBlocked x then .next s else
        let b := { b with xfers := b.xfers.filter fun y => y.seq != seq }
        let s := if x.load then
            s.setBlock ((x.tiles.zip x.el).foldl (fun (b : Block) (id, es) => b.finishTile x.seq (loadedTile id es)) b)
          else ((s.setBlock b).storeTiles c x).unpendAll x.lines
        .next ((s.completeOp x.wid seq none).updBlock ⟨lid, gang, num⟩ Block.sweepTiles)

end Sys2Proof.Machine
end

