-- ==== Sys2Proof/Machine/System.lean ====
section
/-! DEFINITION. Scheduling, system and trap instructions (R273, R315 to R327): PHASE and BARB, GETWORK, VALID, WRAPEND, CANCEL,
LCNT, COLL, the special registers, TIME and TICK, TRAP, TRET and BRK. -/
namespace Sys2Proof.Machine

/-! ### PHASE and BARB (R70, R319, R320) -/

/-- A warp arrives where it waits for the other warps of its block. -/
def Ctx.arrive (c : Ctx) (st : WarpSt) : Eff := .goto (c.s.settle (c.b.setWarp { c.w with st }))

/-- PHASE (R70, R319). -/
def execPhase (k : BitVec 4) (s : State) : Host.Outcome State Fault Refusal :=
  s.run (.phase k) fun c =>
    if c.w.st == .phase k.toNat then .stay c c.w.st
    else if c.b.kern.carry.length ≤ k.toNat then
      .trap c { cause := .reservedField, info := BitVec.ofNat 32 (8 * 256 + k.toNat) }
    else if !c.w.converged || c.w.depth then
      .trap c { cause := .illegalConvergence, info := (Instr.phase k).firstWord }
    else if c.w.ops.any fun o => o.st == .pending then .stay c .phaseDrain
    else c.deliver (fun _ => true) (c.arrive (.phase k.toNat))

/-- BARB (R320): its release covers the warp's older scratchpad accesses alone, which have performed, and it waits for no
engine. -/
def execBarb (k : BitVec 4) (s : State) : Host.Outcome State Fault Refusal :=
  s.run (.barb k) fun c =>
    if c.w.st == .barb k.toNat then .stay c c.w.st
    else c.arrive (.barb k.toNat)

/-! ### GETWORK and VALID (R272, R273, R321, R322) -/

/-- The places GETWORK names, checked as R321 orders. -/
def Ctx.getworkCheck (c : Ctx) (sig : Bool) (f : Name) (k : ScrLoc → Option ScrLoc → Eff) : Eff :=
  let g := Name.after f 1
  let fa := c.w.sget f
  let ga := c.w.sget g
  let mis (a : Word) : Eff := .trap c { cause := .misaligned, info := 0, addr := some (a.setWidth 64) }
  let oob (a : Word) : Eff := .trap c { cause := .scratchBounds, info := 0, addr := some (a.setWidth 64) }
  if c.w.sbad f || (sig && c.w.sbad g) then .mcheck c .poisonConsumed
  else if fa.toNat % 4 ≠ 0 then mis fa
  else if sig ∧ ga.toNat % 16 ≠ 0 then mis ga
  else match c.resolve fa 4 with
    | none => oob fa
    | some l =>
      if sig then match c.resolve ga 16 with
        | none => oob ga
        | some b => k l (some b)
      else k l none

/-- GETWORK (R321): a request to the work distributor. -/
def Ctx.getworkOp (c : Ctx) (sig : Bool) (f : Name) : Eff :=
  c.getworkCheck sig f fun l b =>
    if 16 ≤ c.w.count .qry ∨ !c.canPend (linesAt l 4) ∨ c.acqPending then .stay c .handOver
    else
      let (c, seq) := (c.pendAll (linesAt l 4)).handOver .qry 0 (match b with | some b => [b] | none => [])
      let q : Query := ⟨seq, c.wid, l, b, none, false⟩
      ({ c with s := { c.s with queries := c.s.queries ++ [q] } } : Ctx).done 4

/-- GETWORK (R321). -/
def execGetwork (sig : Bool) (f : Name) (s : State) : Host.Outcome State Fault Refusal :=
  s.run (.getwork sig f) fun c => c.getworkOp sig f

/-- The launch changed in place. -/
def State.updLaunch (s : State) (lid : Nat) (f : Launch → Launch) : State :=
  match s.launch? lid with
  | some l => s.setLaunch (f l)
  | none => s

/-- The bit of a validity flag set in the flag area, indivisibly, under the job's identifier (R276, R286); none while it
waits. No read reply leaves the base die, so no meter counts it (R151). DESIGN CHOICE: a fault leaves the area as it was,
and the VALID retires (log 54). -/
def State.setFlagBit (s : State) (l : Launch) (n : Nat) : State × Bool :=
  match l.rcd with
  | none => (s, true)
  | some r =>
    let a := r.flagAddr + BitVec.ofNat 64 (4 * (n / 32))
    match s.serve { asker l.part l.asid with silent := true } a 4 (.atom .or false (BitVec.ofNat 64 (2 ^ (n % 32))) 0) with
    | .hold s => (s, false)
    | .reply s _ _ | .held s _ _ _ => (s, true)

/-- VALID (R273, R322): once the warp's packets have performed at device scope, the bit is set. -/
def Ctx.validOp (c : Ctx) (f : Name) : Eff :=
  let n := (c.w.sget f).toNat
  let l := c.s.launch? c.b.key.lid
  if c.w.sbad f then .mcheck c .poisonConsumed
  else if ((l.bind (·.rcd)).map (·.nflags)).getD 0 ≤ n then .trap c { cause := .reservedField, info := c.w.sget f }
  else if !c.pendingReqs.isEmpty then .stay c .oldest
  else match l with
    | none => c.done 4
    | some l => match c.s.setFlagBit l n with
      | (s, false) => .stay { c with s } .oldest
      | (s, true) =>
        .goto ((c.retired { c with s } (.valid f) (c.next 4)).updLaunch l.lid fun l => { l with flags := addN l.flags n })

/-- VALID (R273, R322). -/
def execValid (f : Name) (s : State) : Host.Outcome State Fault Refusal := s.run (.valid f) fun c => c.validOp f

/-! ### WRAPEND and CANCEL (R323, R324) -/

/-- WRAPEND (R275, R323). -/
def execWrapend (s : State) : Host.Outcome State Fault Refusal := s.run .wrapend fun c => c.finalExit

/-- CANCEL (R74, R324): the warp is diverted at the instruction after it. -/
def execCancel (s : State) : Host.Outcome State Fault Refusal :=
  s.run .cancel fun c => .goto ((c.retired c .cancel (c.next 4)).cancelLaunch c.b.key.lid false)

/-- CANCEL.job (R75, R324). -/
def execCancelJob (s : State) : Host.Outcome State Fault Refusal :=
  s.run .cancelJob fun c =>
    let s := c.retired c .cancelJob (c.next 4)
    .goto (match (s.launch? c.b.key.lid).bind (·.job) with
      | some id => s.cancelJob c.b.part id
      | none => s)

/-! ### LCNT (R325) -/

/-- LCNT.launch (R325). -/
def execLcntLaunch (d : Name) (s : State) : Host.Outcome State Fault Refusal :=
  s.run (.lcntLaunch d) fun c =>
    let n := match c.b.kind with
      | .kernel => ((c.s.launch? c.b.key.lid).map (·.counter)).getD 0
      | .prologue => 0
    if c.acqPending then .stay c .oldest else (c.sput d (BitVec.ofNat 32 n)).done 4

/-- LCNT.job (R325): the counter of the warp's job, or in a prologue of the ring's current job. -/
def execLcntJob (d : Name) (s : State) : Host.Outcome State Fault Refusal :=
  s.run (.lcntJob d) fun c =>
    let n := match (c.s.launch? c.b.key.lid).bind (·.job) with
      | some id => ((c.s.job? c.b.part id).map (·.counter)).getD 0
      | none => 0
    if c.acqPending then .stay c .oldest
    else ((c.sput d (loWord n)).sput (Name.after d 1) (hiWord n)).done 4

/-! ### COLL (R327) -/

/-- COLL (R327): a start enters the engine's queue; one that names no schedule of the partition completes with kind 4. -/
def Ctx.collOp (c : Ctx) (f sn : Name) : Eff :=
  let x := c.w.sget f
  let ib := c.pairAddr sn
  if c.w.sbad f || c.pairBad sn then .mcheck c .poisonConsumed
  else if 4 ≤ c.w.count .col ∨ c.acqPending ∨ c.strongPending .rel .device false (fun _ => true) then .stay c .handOver
  else
    let die := fld' x 16 1
    let num := fld' x 0 16
    let wid := c.wid
    let (k, seq) := c.handOver .col 0 []
    let e := c.s.engine die
    if e.scheds.any fun y => y.num == num && y.part == c.b.part then
      .goto ((c.retired k (.coll f sn) (c.next 4)).setEngine die { e with queue := e.queue ++ [⟨num, ib, some (wid, seq), none⟩] })
    else .goto ((c.retired k (.coll f sn) (c.next 4)).completeOp wid seq (some ⟨4, ib, 0⟩))
where
  /-- A field of a word. -/
  fld' (w : Word) (lo n : Nat) : Nat := w.toNat / 2 ^ lo % 2 ^ n

/-- COLL (R327). -/
def execColl (f sn : Name) (s : State) : Host.Outcome State Fault Refusal := s.run (.coll f sn) fun c => c.collOp f sn

/-! ### Special registers (R315 to R317) -/

/-- The deadline a warp reads: its launch's, or in a prologue the record's as it stands (R316). -/
def Ctx.deadline (c : Ctx) : DWord :=
  match c.b.kind with
  | .kernel => BitVec.ofNat 64 ((((c.s.launch? c.b.key.lid).bind (·.rcd)).map (·.deadline)).getD 0)
  | .prologue => BitVec.ofNat 64 (leNat (c.b.scr.get 0x040 8))

/-- sr.ebbleft (R316). -/
def Ctx.ebbLeft (c : Ctx) : Word :=
  if !c.w.inWrap then 0xFFFFFFFF#32 else
  match c.s.launch? c.b.key.lid with
  | some l => match l.ebbAt with
    | some e => BitVec.ofNat 32 (e + l.budget - c.s.now)
    | none => 0xFFFFFFFF#32
  | none => 0xFFFFFFFF#32

/-- A special register's value now (R315, R316, R129, R105, R7). -/
def Ctx.sreg (c : Ctx) (r : SReg) : Word :=
  let lid := BitVec.ofNat 64 c.b.key.lid
  let now := BitVec.ofNat 64 c.s.now
  match r with
  | .caps => c.s.caps
  | .warp => BitVec.ofNat 32 c.w.num
  | .block => BitVec.ofNat 32 c.b.key.num
  | .gang => BitVec.ofNat 32 c.b.key.gang
  | .core => BitVec.ofNat 32 c.b.core
  | .cluster => BitVec.ofNat 32 c.b.cluster
  | .stack => BitVec.ofNat 32 (stackOfCluster c.b.cluster)
  | .launch => loWord lid
  | .launchh => hiWord lid
  | .flg => c.w.flg
  | .tpc => c.w.tpc
  | .tcause => c.w.tcause
  | .tlanes => c.w.tlanes
  | .taddr => c.w.taddr
  | .taddrh => c.w.taddrh
  | .tinfo => c.w.tinfo
  | .ebbpc => c.w.ebbpc
  | .ebbleft => c.ebbLeft
  | .time => loWord now
  | .timeh => hiWord now
  | .dline => loWord c.deadline
  | .dlineh => hiWord c.deadline

/-- SRD (R317). -/
def execSrd (d : Name) (r : SReg) (s : State) : Host.Outcome State Fault Refusal :=
  s.run (.srd d r) fun c => (c.sput d (c.sreg r)).done 4

/-- A special register written: reserved bits of sr.flg are ignored, and the flags of steps completed before it are
overwritten (R106, R266); every other register is read-only (R317). -/
def Warp.writeSreg (w : Warp) (r : SReg) (x : Word) : Warp :=
  match r with
  | .flg => { w with flg := x &&& flgMask, late := [] }
  | .tpc => { w with tpc := x }
  | _ => w

/-- SWR (R317); a poisoned value is consumed. -/
def execSwr (d : Name) (r : SReg) (s : State) : Host.Outcome State Fault Refusal :=
  s.run (.swr d r) fun c =>
    if c.w.sbad d then .mcheck c .poisonConsumed else (c.setW (c.w.writeSreg r (c.w.sget d))).done 4

/-! ### TIME and TICK (R318) -/

/-- TIME (R318). -/
def execTime (d : Name) (s : State) : Host.Outcome State Fault Refusal :=
  s.run (.time d) fun c =>
    let t := BitVec.ofNat 64 c.s.now
    ((c.sput d (loWord t)).sput (Name.after d 1) (hiWord t)).done 4

/-- TICK (R318): waits for the next tide tick, which completes it. -/
def execTick (d : Name) (s : State) : Host.Outcome State Fault Refusal := s.run (.tick d) fun c => .stay c (.tick d)

/-- TICK.now (R318). -/
def execTickNow (d : Name) (s : State) : Host.Outcome State Fault Refusal :=
  s.run (.tickNow d) fun c => (c.sput d (BitVec.ofNat 32 c.s.ticks)).done 4

/-! ### TRAP, TRET and BRK (R134, R326) -/

/-- TRAP (R326). -/
def execTrap (code : BitVec 6) (s : State) : Host.Outcome State Fault Refusal :=
  s.run (.trap code) fun c => .trap c { cause := .software, info := code.setWidth 32 }

/-- TRET (R134): PRIV at depth 0; an unaligned sr.tpc is a second error. -/
def Ctx.tret (c : Ctx) (i : Instr) (skip : Bool) : Eff :=
  if !c.w.depth then .trap c { cause := .priv, info := i.firstWord }
  else if skip && c.w.tcause.getLsbD 9 then .trap c { cause := .priv, info := i.firstWord }
  else if c.w.tpc.extractLsb' 0 2 ≠ 0#2 then
    .trap c { cause := .misaligned, info := 0, addr := some (c.w.tpc.setWidth 64) }
  else
    let (c, pc) := c.leaveTrap skip
    .retire c pc

/-- TRET.retry (R134). -/
def execTretRetry (s : State) : Host.Outcome State Fault Refusal := s.run .tretRetry fun c => c.tret .tretRetry false
/-- TRET.skip (R134). -/
def execTretSkip (s : State) : Host.Outcome State Fault Refusal := s.run .tretSkip fun c => c.tret .tretSkip true

/-- BRK (R143, R326): in debug mode the gang stops, and a step forward passes over it; otherwise BREAK. -/
def execBrk (s : State) : Host.Outcome State Fault Refusal :=
  s.run .brk fun c =>
    if !c.b.debug then .trap c { cause := .brk, info := 0 }
    else if c.w.stepOne then c.done 4
    else .goto (c.commit.stopGang c.b.key.lid c.b.key.gang)

/-! ### An unassigned encoding (R42, R44) -/

/-- The guard an unassigned L-form word is read with. The spec does not say whether the guard field of such a word counts in
sr.tlanes (R42, R58): DESIGN CHOICE, that of the format its opcode has applies, and none where the opcode takes none (R21, R23,
log 39). -/
def illegalGuard (w : Word) : Guard :=
  let op := (fOp w).toNat
  if op = 0x35 ∨ op = 0x36 ∨ op = 0x37 ∨ op = 0x3B then ⟨0, false⟩
  else if 0x18 ≤ op ∧ op ≤ 0x1F then fGI w else fG w

/-- ILLEGAL_OPCODE (R42, R44, R45): the warp traps with the first word; in a prologue the pass ends. The spec does not say
which length LEN8 gives an unassigned encoding: DESIGN CHOICE, eight bytes where its word announces an extension word (log
39). -/
def execIllegalOpcode (w : Word) (s : State) : Host.Outcome State Fault Refusal :=
  match s.ctx with
  | none => .fault .noAgent
  | some c => .next (c.takeTrap { cause := .illegalOpcode, info := w }
      (if w.msb then c.w.liveMask else c.active (illegalGuard w)) (announces w))

end Sys2Proof.Machine
end

