-- ==== Sys2Proof/Machine/Agenda.lean ====
section
/-! DEFINITION. What stands around an instruction: the passing of time with what counts it (R298, R310), the fetch of
instruction words (R9, R42, R96), and the inputs that are no row of the opcode table (log 9). -/
namespace Sys2Proof.Machine

/-! ### Fetch (R9, R42, R96) -/

/-- The address of a byte of a code object. -/
def CodeObj.at (co : CodeObj) (off : Nat) : DWord := co.addr + BitVec.ofNat 64 off

/-- Where a byte of a code object stands in DRAM: under the translation its identifier has now (R154, R169), in the frame
that serves its page's frame (R171). -/
def State.codePlace (s : State) (co : CodeObj) (off : Nat) : Option Nat :=
  (s.homeAt (some co.asid) (co.at off)).map fun key =>
    let home := key / 2 ^ 36
    let f := key % 2 ^ 36 / 65536
    let (st, fr) := ((s.die home).frame f).source home f
    dramKey st (65536 * fr + key % 65536)

/-- A byte of a code object. The spec does not say what a fetch reads of a page that is no longer mapped: DESIGN CHOICE, 0xFF
(log 51). -/
def State.codeByte (s : State) (co : CodeObj) (off : Nat) : Byte :=
  match s.codePlace co off with
  | some k => s.dram.read k
  | none => 0xFF

/-- The word at a code address of a block's body: past its end it decodes as 0xFFFF_FFFF (R96). -/
def State.codeWord (s : State) (b : Block) (pc : Nat) : Word :=
  if b.kern.codeSize < pc + 4 then 0xFFFFFFFF#32
  else match s.code? b.part b.code with
    | none => 0xFFFFFFFF#32
    | some co => BitVec.ofNat 32 (leNat ((List.range 4).map fun i => s.codeByte co (b.kern.codeOff + pc + i)))

/-- The instruction at a warp's pc; an encoding that decode refuses raises ILLEGAL_OPCODE with its first word (R45). -/
def State.fetch (s : State) (b : Block) (w : Warp) : Instr :=
  let w0 := s.codeWord b w.pc.toNat
  let w1 := if b.kern.codeSize < w.pc.toNat + 8 then none else some (s.codeWord b (w.pc.toNat + 4))
  match decode w0 w1 with
  | .ok i => i
  | .error _ => .illegalOpcode w0

/-! ### Time -/

/-- A request stands in a hold that the watchdog excuses: a page or a frame under resolution (R168, R171). -/
def State.held (s : State) (a : Asker) (addr : DWord) (n : Nat) (k : ReqKind) : Bool :=
  match s.serve a addr n k with
  | .hold s' => s'.faults == s.faults
  | .reply .. | .held .. => false

/-- A packet's request is held at its base die. -/
def State.sentHeld (s : State) (r : Req) : Bool := r.unperformed && s.held r.asker r.addr r.size r.kind

/-- A packet's request, or its reply, is held at its base die (R358). -/
def State.reqHeld (s : State) (r : Req) : Bool :=
  match r.st with
  | .sent => s.sentHeld r
  | .performed bs _ b => (s.packetLeaves bs b).isNone

/-- An element write of a copy is held: the request or the reply of its read, or the request of its write. -/
def State.elemHeld (s : State) (x : Copy) (r : Shape) (ix : ElemIx) : Bool :=
  let sa := (r.places x.chain ix.entry ix.pass ix.elem).1
  let writes : Bool := r.dstMem && (match s.elemDest x r ix with
    | some da => s.held x.asker da r.e (.write (List.replicate r.e 0) (BitVec.allOnes 64))
    | none => false)
  match (s.moves.find? fun m => m.who == x.who ix).bind fun m => lookupN m.got 0 with
  | some ⟨bs, _, some b⟩ => (s.replyLeaves bs.length b).isNone
  | some ⟨_, _, none⟩ => writes
  | none => (r.srcMem && s.held x.asker sa r.e .read) || writes

/-- A copy has an element held at a base die. -/
def State.copyHeld (s : State) (x : Copy) : Bool :=
  (List.range x.chain.length).any fun e => match shapeAt x.chain e with
    | none => false
    | some r => (List.range (passesOf x.chain e)).any fun p => (List.range r.elems).any fun n => (List.range r.targets).any fun t =>
        !x.done.contains ⟨e, p, n, t⟩ && s.elemHeld x r ⟨e, p, n, t⟩

/-- An operation waits on a fault under resolution. -/
def State.opHeld (s : State) (o : EngOp) : Bool :=
  o.st == .pending && ((s.reqs.any fun r => r.seq == o.seq && s.reqHeld r) || (s.copies.any fun x => x.seq == o.seq && s.copyHeld x))

/-- A line is absent for an operation under resolution, whichever warp's it is. -/
def State.lineHeld (s : State) (l : ScrLoc) : Bool :=
  (s.reqs.any fun r => !r.dead && (match r.dest with | some d => (linesAt d (replySize r.kind r.size)).contains l | none => false)
      && s.reqHeld r)
    || (s.copies.any fun x => (x.lines.any fun y => y.1 == l) && s.copyHeld x)

/-- The packets of a warp that hold an access of some semantics back (R204, R205): its acquires, and for a strong access its strong
packets. -/
def Ctx.holdsBack (c : Ctx) (strong : Bool) (r : Req) : Bool :=
  c.acquires.contains r.seq || (strong && r.wid == c.wid && !r.dead && Sem.strong r.sem)

/-- What a packet instruction that waits at hand-over waits for is under resolution (R147, R161, R198, R205): its tag, the PKT
limit, an older packet that holds it back, or a line of its scratchpad range. -/
def Ctx.packetHeld (c : Ctx) (tag : BitVec 3) (sem : Sem) (f : Name) (n : Nat) : Bool :=
  (c.w.ops.any fun o => o.cls == .pkt && (o.tag == tag || decide (64 ≤ c.w.count .pkt)) && c.s.opHeld o)
    || (c.s.reqs.any fun r => c.holdsBack (Sem.strong sem) r && c.s.sentHeld r)
    || (match c.resolve (c.w.sget f) n with | some l => (linesAt l n).any c.s.lineHeld | none => false)

/-- The lines of an engine instruction's destination that take no more (R161) are under resolution. -/
def Ctx.fullHeld (c : Ctx) (ls : List ScrLoc) : Bool := ls.any fun l => !c.canPend [l] && c.s.lineHeld l

/-- What an engine instruction that waits at hand-over waits for is under resolution (R147, R310). -/
def Ctx.handOverHeld (c : Ctx) (i : Instr) : Bool :=
  let back (strong : Bool) : Bool := c.s.reqs.any fun r => c.holdsBack strong r && c.s.sentHeld r
  match i with
  | .pkrd r | .pkwr r => c.packetHeld r.tag r.sem r.f (PkSize.bytes r.size)
  | .pkatom r => c.packetHeld r.tag r.sem r.f (if r.w64 then 16 else 8)
  | .copy f => back false || (decide (16 ≤ c.w.count .cpy) && c.w.ops.any fun o => o.cls == .cpy && c.s.opHeld o)
      || (match c.readChain (c.w.sget f) 0 64 (c.w.sget f).toNat [] with
        | .ok ch => c.fullHeld ((c.copyLines ch).map (·.1))
        | _ => false)
  | .getwork _ f => back false || (match c.resolve (c.w.sget f) 4 with | some l => c.fullHeld (linesAt l 4) | none => false)
  | .coll _ _ => back true
  | .ast first last f sn =>
    back false || c.fullHeld (c.astLines (last.toNat - first.toNat + 1) (c.w.sget f) (c.w.sget sn))
  | _ => back false

/-- What the oldest instruction of a warp waits for is under resolution (R310): VALID's packets, or its own write of the flag area
(R273); a fence's packets (R211, R212); or an older packet that holds it back. -/
def Ctx.oldestHeld (c : Ctx) (i : Instr) : Bool :=
  match i with
  | .valid f =>
    (c.pendingReqs.any c.s.sentHeld) || (c.pendingReqs.isEmpty && (match c.s.launch? c.b.key.lid with
      | some l => let (s, done) := c.s.setFlagBit l (c.w.sget f).toNat; !done && s.faults == c.s.faults
      | none => false))
  | .fence sc _ => c.s.reqs.any fun r => ((r.wid == c.wid && !r.dead) || (sc && r.chan == c.coreIx)) && c.s.sentHeld r
  | _ => c.s.reqs.any fun r => c.holdsBack true r && c.s.sentHeld r

/-- What a warp waits for is under resolution (R310): the operations its wait names, those that keep a line of it absent, or
those that signal its barrier. A warp that its save holds waits for its own operations. -/
def State.waitsOnFault (s : State) (b : Block) (w : Warp) : Bool :=
  let own (p : EngOp → Bool) : Bool := w.ops.any fun o => p o && s.opHeld o
  let c : Ctx := ⟨s, b, w⟩
  if s.reqs.isEmpty && s.copies.isEmpty && s.faults.isEmpty && (s.dies.toList.all fun d => d.frames.isEmpty) then false
  else if b.st == .saving then own fun o => o.cls != .col
  else match w.st with
    | .absent ls => ls.any s.lineHeld
    | .waitc k n => let ops := w.classOps k; (ops.take (ops.length - n)).any s.opHeld
    | .barwt obj _ _ => s.blocks.any fun x => x.warps.any fun y => y.ops.any fun o => o.sigs.contains obj && s.opHeld o
    | .pkwait => match s.fetch b w with
      | .pkwait mask => own fun o => o.cls == .pkt && mask.getLsbD o.tag.toNat
      | _ => false
    | .phaseDrain | .drain => own fun _ => true
    | .handOver => c.handOverHeld (s.fetch b w)
    | .oldest => c.oldestHeld (s.fetch b w)
    | .promote upto cores => s.reqs.any fun r => cores.contains r.chan && decide (r.seq < upto) && s.sentHeld r
    | _ => false

/-- A COL operation belongs to an instance in RECOVERY (R310, R348). -/
def State.inRecovery (s : State) (w : WarpId) (seq : Nat) : Bool :=
  s.engines.toList.any fun e => e.insts.any fun i => i.starter == some (w, seq) && i.st == .recovery

/-- Every COL operation a warp waits for that has not completed is in recovery, and there is one (R310). -/
def State.waitsOnRecovery (s : State) (wid : WarpId) (w : Warp) : Bool :=
  let ops := (w.classOps .col)
  let waited := match w.st with
    | .waitc .col n => ops.take (ops.length - n)
    | .phaseDrain | .drain => ops
    | _ => []
  let left := waited.filter fun o => o.st == .pending
  !left.isEmpty && left.all fun o => s.inRecovery wid o.seq

/-- A wait the watchdog does not count (R310). -/
def State.excused (s : State) (b : Block) (w : Warp) : Bool :=
  (w.halted && !w.stepOne) || s.waitsOnFault b w || s.waitsOnRecovery ⟨b.key, w.num⟩ w

/-- Core clocks pass: the watchdog counter of every resident warp rises unless its wait is excused (R310). -/
def State.countClocks (s : State) (n : Nat) : State :=
  if n = 0 then s else
  { s with
    clock := s.clock + n
    blocks := s.blocks.map fun (b : Block) =>
      if b.onCore ∧ b.kind = .kernel then
        { b with warps := b.warps.map fun (w : Warp) =>
            if w.ended || s.excused b w then w else { w with wdog := w.wdog + n } }
      else b }

/-- Device time passes: each resident block of a launch adds its warps' share to the core time it has used (R298). -/
def State.countTime (s : State) (n : Nat) : State :=
  if n = 0 then s else
  { s with
    now := s.now + n
    launches := s.launches.map fun (l : Launch) =>
      { l with used := l.used + n * ((s.blocks.filter fun b =>
          b.kind == .kernel && b.key.lid == l.lid && b.onCore).foldl (fun k b => k + b.kern.w) 0) } }

/-! ### Inputs that are no row (R126, R165, log 9) -/

/-- A soft error strikes: it waits for the next checked result, or stands in DRAM. A second symbol of a granule is past what
its code corrects (R165), and a granule past that takes no further harm. -/
def State.strike (s : State) : Upset → State
  | .result bits => { s with upset := some bits }
  | .symbol key =>
    if s.poison.contains (key / 32) then s else
    match lookupN s.symErr (key / 32) with
    | none => { s with symErr := insertN s.symErr (key / 32) (key % 32) }
    | some j => if j = key % 32 then s
      else { s with symErr := eraseN s.symErr (key / 32), poison := addN s.poison (key / 32) }
  | .granule key => { s with symErr := eraseN s.symErr (key / 32), poison := addN s.poison (key / 32) }

/-! ### One turn -/

/-- The current agent given its turn: a prologue pass that had not started counts its time from now on (R292). -/
def State.takeTurn (s : State) (w : WarpId) : State :=
  { s with
    cur := some w
    passes := s.passes.map fun (p : Pass) =>
      if p.lid = w.blk.lid ∧ p.start = none ∧ (s.ctxAt w).any (fun c => c.b.kind == .prologue) then
        { p with start := some s.now } else p }

/-- Whether an instruction is an event of the machine, which no instruction word encodes. ILLEGAL_OPCODE is what a fetch
gives, and no event. -/
def Instr.isEvent : Instr → Bool
  | .illegalOpcode _ => false
  | i => i.words.isNone

/-- The places in DRAM of the words at a code address. -/
def State.codeKeys (s : State) (b : Block) (pc : Nat) : List Nat :=
  match s.code? b.part b.code with
  | none => []
  | some co => (List.range (min 8 (b.kern.codeSize - pc))).filterMap fun i => s.codePlace co (b.kern.codeOff + pc + i)

/-- What a fetch leaves at the base die: translations in its cache (R169), and the granules corrected (R165). DESIGN CHOICE: it
counts at no meter and no access counter (log 51). -/
def State.fetched (s : State) (b : Block) (pc : Nat) : State :=
  match s.code? b.part b.code with
  | none => s
  | some co =>
    let fill (s : State) (i : Nat) : State :=
      let a := co.at (b.kern.codeOff + pc + i)
      (s.translate (stackOf a) co.asid (offsetOf a)).1
    let s1 := fill (fill s 0) 7
    s1.correct ((s.codeKeys b pc).map (· / 32)).eraseDups

/-- The current agent's instruction, fetched. The spec does not say what a fetch of a poisoned granule does: DESIGN CHOICE, it
consumes the poison, a machine check of the warp (R138, R139, log 51). -/
def State.go (s : State) : State × Option Instr :=
  match s.ctx with
  | none => (s, none)
  | some c =>
    let s1 := s.fetched c.b c.w.pc.toNat
    if (s.codeKeys c.b c.w.pc.toNat).any fun k => s.poison.contains (k / 32) then (s1.asyncMCheck c.wid .poisonConsumed, none)
    else (s1, some (s.fetch c.b c.w))

/-- The turn at the head of the agenda taken: time passes, and what is to be executed, if anything is. With no turn left
the current agent goes on (log 2). -/
def State.turn (s : State) : State × Option Instr :=
  match s.agenda with
  | [] => s.go
  | t :: rest =>
    let s := ((State.countTime { s with agenda := rest } t.ns).countClocks t.clocks).bootStep
    match t.act with
    | .agent w => (s.takeTurn w).go
    | .event i => (s, if Instr.isEvent i then some i else none)
    | .upset u => (s.strike u, none)

end Sys2Proof.Machine
end

