-- ==== Sys2Proof/Machine/Scheduler.lean ====
section
/-! DEFINITION. Dispatch and placement (R302, R303), gather (R305), the stop of a mid-phase pre-emption (R140, R142), the expiry and
the end of the budget (R307), and the watchdog (R311). -/
namespace Sys2Proof.Machine

/-! ### Room on a core (R54, R82, R237) -/

/-- A block's gang is placed. -/
def State.gangPlaced (s : State) (b : Block) : Bool :=
  match (s.launch? b.key.lid).bind fun l => l.gang? b.key.gang with
  | some g => g.st == .placed
  | none => false

/-- The blocks that hold something of a core: those on it, and ended ones of a placed gang, whose allocation is kept (R157). -/
def State.blocksOn (s : State) (cluster core : Nat) : List Block :=
  s.blocks.filter fun b => b.kind == .kernel && b.cluster == cluster && b.core == core
    && (b.onCore || (b.st == .ended && s.gangPlaced b))

/-- Warp slots in use on a core. -/
def slotsUsed (bs : List Block) : List Nat := bs.flatMap fun b => if b.onCore then b.live.map (·.slot) else []

/-- Free warp slots of a core. -/
def slotsFree (bs : List Block) : Nat := 16 - (slotsUsed bs).length

/-- Scratchpad allocated on a core (R158): each allocation begins at a multiple of 4 KiB (R159). Where on the core it begins,
nothing shows; the free part counts as one (log 22). -/
def scratchUsed (bs : List Block) : Nat := bs.foldl (fun n b => n + (b.kern.alloc b.debug + 4095) / 4096 * 4096) 0

/-- What a block needs of a core. -/
structure Need where
  slots   : Nat
  scratch : Nat
  handoff : Bool
  matrix  : Bool
deriving DecidableEq, Repr

/-- What a block of a kernel needs at its start. -/
def Kernel.need (k : Kernel) (debug : Bool) : Need := ⟨k.w, k.alloc debug, k.handoff, k.matrix⟩

/-- What a block of a parked or saved gang needs: one that has ended needs room for the allocation it left (R157). -/
def Block.need (b : Block) : Need :=
  if b.st = .ended then ⟨0, b.kern.alloc b.debug, false, false⟩
  else ⟨b.live.length, b.kern.alloc b.debug, b.kern.handoff, b.kern.matrix⟩

/-- A core with some blocks on it can take another. -/
def coreFits (bs : List Block) (n : Need) : Bool :=
  decide (n.slots ≤ slotsFree bs ∧ scratchUsed bs + n.scratch ≤ coreScratch)
    && (!n.handoff || !(bs.any fun b => b.onCore && b.kern.handoff))
    && (!n.matrix || !(bs.any fun b => b.onCore && b.kern.matrix))

/-- A number of a list with the least value, the first of equals. -/
def argMin (f : Nat → Nat) : List Nat → Option Nat
  | [] => none
  | x :: t => match argMin f t with
    | none => some x
    | some y => if f x ≤ f y then some x else some y

/-- A number put in its place in a list in ascending order of value, before those of equal value. -/
def insertBy (f : Nat → Nat) (x : Nat) : List Nat → List Nat
  | [] => [x]
  | y :: t => if f x ≤ f y then x :: y :: t else y :: insertBy f x t

/-- A list of numbers in ascending order of value, equals in the order given. -/
def sortBy (f : Nat → Nat) : List Nat → List Nat
  | [] => []
  | x :: t => insertBy f x (sortBy f t)

/-- The core each block of a gang takes in a cluster, best fit in sr.block order, among the cores allowed (R303). Where the
best core of a block leaves none for a later one, the next best is tried, for a gang fits where distinct cores can take its
blocks at all. -/
def State.assign (s : State) (cluster : Nat) (allowed : Nat → Bool) : List Need → List Nat → Option (List Nat)
  | [], _ => some []
  | n :: t, used =>
    let fits (k : Nat) : Bool := allowed k && !used.contains k && coreFits (s.blocksOn cluster k) n
    (sortBy (fun k => slotsFree (s.blocksOn cluster k)) ((List.range 48).filter fits)).findSome? fun k =>
      (s.assign cluster allowed t (k :: used)).map fun l => k :: l

/-- Free warp slots of a whole cluster. -/
def State.clusterFree (s : State) (cluster : Nat) : Nat :=
  (List.range 48).foldl (fun n k => n + slotsFree (s.blocksOn cluster k)) 0

/-! ### Dispatch order (R302) -/

/-- A launch's key in dispatch order. -/
def Launch.key (l : Launch) (p : Partition) (r : LaunchRec) : Int :=
  (r.deadline : Int) - ceilDiv (l.rem * 16) (p.cores * p.shareOf r.pri)

/-- A launch comes before another in dispatch order. -/
def dispatchedBefore (p : Partition) (a b : Launch × LaunchRec) : Bool :=
  decide (b.2.pri < a.2.pri) || (a.2.pri == b.2.pri &&
    (decide (a.1.key p a.2 < b.1.key p b.2) || (a.1.key p a.2 == b.1.key p b.2 && decide (a.1.lid < b.1.lid))))

/-- A launch put in its place in dispatch order. -/
def insertLaunch (p : Partition) (x : Launch × LaunchRec) : List (Launch × LaunchRec) → List (Launch × LaunchRec)
  | [] => [x]
  | y :: t => if dispatchedBefore p x y then x :: y :: t else y :: insertLaunch p x t

/-- The gangs of a launch that wait for placement, ascending, as far as the first that has never been placed (R304). -/
def Launch.waiting (l : Launch) (r : LaunchRec) : List Nat :=
  let again := (l.gangs.filter fun g => g.st == .unplaced).foldl (fun a g => addN a g.idx) []
  if l.next < r.gangs then addN again l.next else again

/-- The launches of a partition whose gangs may be placed, in dispatch order: none whose deadline has come (R299). -/
def State.queue (s : State) (p : Partition) : List (Launch × LaunchRec) :=
  (s.launches.filterMap fun l => l.rcd.map fun r => (l, r)).foldl (fun (a : List (Launch × LaunchRec)) x =>
    if x.1.part == p.first && (x.1.st == .queued || x.1.st == .running) && x.1.status.isNone && decide (s.now < x.2.deadline) then
      insertLaunch p x a
    else a) []

/-! ### Where a gang goes (R303, R305, R307) -/

/-- A parked or saved gang of a launch in EBB waits in the cluster: it goes ahead of every other launch (R307). -/
def State.ebbWaits (s : State) (cluster : Nat) : Bool :=
  s.launches.any fun l => l.ebbAt.isSome && l.gangs.any fun g => g.cluster == cluster && (g.st == .parked || g.st == .saved)

/-- The gather granted to a gang. -/
def State.gatherFor (s : State) (lid gang : Nat) : Option Gather := s.gathers.find? fun g => g.lid == lid && g.gang == gang

/-- The cores of a new gang in a cluster, if it fits there. A gang granted gather goes on its target set (R305). -/
def State.fits (s : State) (l : Launch) (r : LaunchRec) (k : Kernel) (gang cluster : Nat) : Option (List Nat) :=
  let needs := List.replicate r.g (k.need r.debug)
  if s.ebbWaits cluster then none else
  match s.gatherFor l.lid gang with
  | some g => if g.cluster = cluster then s.assign cluster (fun c => g.target.contains c) needs [] else none
  | none => if (s.gatherOf cluster).isSome then none else s.assign cluster (fun _ => true) needs []

/-- The clusters of a partition. -/
def State.clustersOf (s : State) (p : Partition) : List Nat := (List.range s.clusters).filter p.hasCluster

/-- The cluster and cores a waiting gang takes: the cluster left with the fewest free warp slots. -/
def State.bestPlace (s : State) (p : Partition) (l : Launch) (r : LaunchRec) (k : Kernel) (gang : Nat) :
    Option (Nat × List Nat) :=
  let cs := (s.clustersOf p).filter fun c => (s.fits l r k gang c).isSome
  (argMin s.clusterFree cs).bind fun c => (s.fits l r k gang c).map fun ks => (c, ks)

/-! ### Placing (R52, R290, R304) -/

/-- The lowest-numbered free slots of a core, for a number of warps (R53). -/
def freeSlots (bs : List Block) (n : Nat) : List Nat :=
  ((List.range 16).filter fun i => !(slotsUsed bs).contains i).take n

/-- A block of a gang as it starts on a core. -/
def State.newBlock (s : State) (l : Launch) (r : LaunchRec) (k : Kernel) (gang num cluster core : Nat) : Block :=
  let lanes := if r.lanes = 0 then 32 * k.w else r.lanes
  let slots := freeSlots (s.blocksOn cluster core) k.w
  let b := Block.start ⟨l.lid, gang, num⟩ .kernel r.code l.part k l.asid lanes r.debug cluster core (k.alloc r.debug)
  (List.range k.w).foldl (fun (b : Block) w =>
    b.startRows (Warp.start w (slots.getD w w) (launchedMask lanes w) (paramWord k r.nparams r.params))) b

/-- A gang PLACED on the given cores of a cluster. -/
def State.place (s : State) (l : Launch) (r : LaunchRec) (k : Kernel) (gang cluster : Nat) (cores : List Nat) : State :=
  let bs := cores.zipIdx.map fun (core, num) => s.newBlock l r k gang num cluster core
  let gangs := if (l.gang? gang).isSome then
      l.gangs.map fun (g : Gang) => if g.idx == gang then { g with st := .placed, cluster } else g
    else l.gangs ++ [⟨gang, .placed, cluster, 0⟩]
  let l : Launch := { l with
    gangs, next := max l.next (gang + 1), st := if l.st = .queued then .running else l.st
    w0 := if (l.waiting r).head? = some gang then none else l.w0 }
  ({ (s.setLaunch l) with blocks := s.blocks ++ bs } : State).endGather l.lid gang

/-- The first gang in dispatch order that fits somewhere. -/
def State.firstFit (s : State) (p : Partition) :
    List (Launch × LaunchRec) → Option (Launch × LaunchRec × Kernel × Nat × Nat × List Nat)
  | [] => none
  | (l, r) :: t =>
    let here := match l.kern with
      | none => none
      | some k => (l.waiting r).findSome? fun g => (s.bestPlace p l r k g).map fun (x : Nat × List Nat) => (l, r, k, g, x.1, x.2)
    here.or (s.firstFit p t)

/-- The wait of each launch's first waiting gang, from the moment it fits no cluster (R305). -/
def State.startWaits (s : State) (p : Partition) : State :=
  (s.queue p).foldl (fun (s : State) (l, r) =>
    match l.kern, (l.waiting r).head? with
    | some k, some g => if l.w0.isNone && (s.bestPlace p l r k g).isNone then s.setLaunch { l with w0 := some s.now } else s
    | _, _ => s) s

/-- GANG_PLACEMENT (R302 to R304): the first gang in dispatch order that fits is placed; the others wait. -/
def execGangPlacement (part : Nat) (s : State) : Host.Outcome State Fault Refusal :=
  match s.part? part with
  | none => .next s
  | some p =>
    let s := s.startWaits p
    match s.firstFit p (s.queue p) with
    | some (l, r, k, g, c, ks) => .next (s.place l r k g c ks)
    | none => .next s

/-! ### Gather (R305) -/

/-- The launch of a block may give way to a launch of a priority: priority at or below, and not in EBB. -/
def State.yields (s : State) (b : Block) (pri : Nat) : Bool :=
  match s.launch? b.key.lid with
  | some l => l.ebbAt.isNone && (match l.rcd with | some r => decide (r.pri ≤ pri) | none => false)
  | none => false

/-- The blocks of a core that stay when those that yield have gone. -/
def State.staying (s : State) (cluster pri core : Nat) : List Block :=
  (s.blocksOn cluster core).filter fun b => !s.yields b pri

/-- How many blocks have to move off a core, or leave an allocation there. -/
def State.movesOff (s : State) (cluster pri core : Nat) : Nat :=
  ((s.blocksOn cluster core).filter fun b => s.yields b pri).length

/-- Distinct cores of a cluster that could take some blocks for at most `most` moves, those of fewest moves first. -/
def State.targetWithin (s : State) (cluster pri : Nat) : List Need → Nat → List Nat → Option (List Nat)
  | [], _, _ => some []
  | n :: t, most, used =>
    (sortBy (s.movesOff cluster pri) ((List.range 48).filter fun k => !used.contains k
        && decide (s.movesOff cluster pri k ≤ most) && coreFits (s.staying cluster pri k) n)).findSome? fun k =>
      (s.targetWithin cluster pri t (most - s.movesOff cluster pri k) (k :: used)).map fun l => k :: l

/-- The cores of a cluster, apart from some, that could take some blocks with the fewest moves. -/
def State.targetApart (s : State) (cluster pri : Nat) (needs : List Need) (others : List Nat) : Option (List Nat) :=
  let most := (List.range 48).foldl (fun n k => n + s.movesOff cluster pri k) 0
  (List.range (most + 1)).findSome? fun m => s.targetWithin cluster pri needs m others

/-- The cores of a cluster that could take some blocks with the fewest moves (R305). -/
def State.targetSet (s : State) (cluster pri : Nat) (needs : List Need) : Option (List Nat) :=
  s.targetApart cluster pri needs []

/-- The moves of a target set. -/
def State.totalMoves (s : State) (cluster pri : Nat) (ks : List Nat) : Nat := ks.foldl (fun n k => n + s.movesOff cluster pri k) 0

/-- The cluster a candidate gathers on, with its target set: enough reclaimable resources, fewest blocks moved. -/
def State.gatherPlace (s : State) (p : Partition) (r : LaunchRec) (k : Kernel) : Option (Nat × List Nat) :=
  let needs := List.replicate r.g (k.need r.debug)
  let cs := (s.clustersOf p).filter fun c => (s.gatherOf c).isNone && (s.targetSet c r.pri needs).isSome
  (argMin (fun c => match s.targetSet c r.pri needs with | some ks => s.totalMoves c r.pri ks | none => 0) cs).bind fun c =>
    (s.targetSet c r.pri needs).map fun ks => (c, ks)

/-- The first candidate in dispatch order whose 50 µs have passed and for which a cluster can gather. -/
def State.firstCandidate (s : State) (p : Partition) : List (Launch × LaunchRec) → Option (Launch × Nat × Nat × Nat × List Nat)
  | [] => none
  | (l, r) :: t =>
    let here := match l.kern, l.w0, (l.waiting r).head? with
      | some k, some w0, some g =>
        if w0 + 50000 ≤ s.now && (s.gatherFor l.lid g).isNone && (s.bestPlace p l r k g).isNone then
          (s.gatherPlace p r k).map fun (x : Nat × List Nat) => (l, g, w0, x.1, x.2)
        else none
      | _, _, _ => none
    here.or (s.firstCandidate p t)

/-- GATHER_GRANT (R305): a candidate is granted gather on one cluster that is not in gather, and its gang from then on
has an entry of its own. -/
def execGatherGrant (part : Nat) (s : State) : Host.Outcome State Fault Refusal :=
  match s.part? part with
  | none => .next s
  | some p =>
    let s := s.startWaits p
    match s.firstCandidate p (s.queue p) with
    | none => .next s
    | some (l, g, w0, c, ks) =>
      let l : Launch := if (l.gang? g).isSome then l else { l with gangs := l.gangs ++ [⟨g, .unplaced, 0, 0⟩], next := g + 1 }
      .next { (s.setLaunch l) with
        gathers := s.gathers ++ [⟨c, l.lid, g, max (w0 + 500000) (s.now + 450000), ks, false⟩] }

/-! ### Mid-phase pre-emption (R140, R142) -/

/-- A warp stopped for a save: precisely, its MTILE between steps, its arrivals withdrawn, its undo log gone. A warp the
debugger has stopped stays so. -/
def Block.haltWarp (b : Block) (w : Warp) : Warp := if w.ended then w else { b.stopWarp w with undo := [] }

/-- A block stops issuing (R140, step 1). -/
def Block.halt (b : Block) : Block :=
  let b' := b.dropRefs (b.warps.flatMap fun w => w.undoRefs)
  { b' with st := .saving, boundary := false, warps := b'.warps.map b.haltWarp }.sweepTiles

/-- A gang stops for its save. -/
def State.haltGang (s : State) (lid gang : Nat) : State :=
  { s with blocks := s.blocks.map fun (b : Block) => if b.inGang lid gang && b.st == .resident then b.halt else b }

/-- The gangs that hold some cores of a cluster, with a block or with the allocation of an ended one, and yield to a priority. -/
def State.victims (s : State) (cluster pri : Nat) (cores : List Nat) : List (Nat × Nat) :=
  (cores.flatMap fun k => (s.blocksOn cluster k).filter fun b => b.st != .saving && s.yields b pri).map fun b =>
    (b.key.lid, b.key.gang)

/-- GATHER_PREEMPTION (R305): at the limit, every gang that still holds a block on a target core and yields is stopped to
be saved. -/
def execGatherPreemption (cluster : Nat) (s : State) : Host.Outcome State Fault Refusal :=
  match s.gatherOf cluster with
  | none => .next s
  | some g =>
    if g.preempted = true ∨ s.now < g.limit then .next s else
    let pri := (((s.launch? g.lid).bind (·.rcd)).map (·.pri)).getD 0
    let s' : State := { s with gathers := s.gathers.map fun (x : Gather) => if x.cluster == cluster then { x with preempted := true } else x }
    .next ((s.victims cluster pri g.target).foldl (fun (s : State) v => s.haltGang v.1 v.2) s')

/-- A warp has drained: nothing of PKT, CPY, QRY or MTX is outstanding; COL stays with Tideway (R140, steps 3 and 4). -/
def Warp.drained (w : Warp) : Bool := !(w.ops.any fun o => o.cls != .col && o.st == .pending)

/-- A block can be saved: its warps and its matrix pipeline have drained. -/
def Block.drained (b : Block) : Bool := b.steps.isEmpty && b.xfers.isEmpty && b.warps.all Warp.drained

/-! ### The deadline (R307) and the watchdog (R310, R311) -/

/-- EXPIRY (R300, R307): device time has reached the launch's deadline. -/
def execExpiry (lid : Nat) (s : State) : Host.Outcome State Fault Refusal :=
  match (s.launch? lid).bind (·.rcd) with
  | some r => if r.deadline ≤ s.now then .next (s.recordEbb lid false) else .next s
  | none => .next s

/-- BUDGET_END (R307): the wrap-up budget has passed since the expiry or cancel. -/
def execBudgetEnd (lid : Nat) (s : State) : Host.Outcome State Fault Refusal :=
  match s.launch? lid with
  | none => .next s
  | some l => match l.ebbAt with
    | some e => if l.status.isNone ∧ e + l.budget ≤ s.now then .next (s.endBudget lid) else .next s
    | none => .next s

/-- The watchdog limit of a partition in clocks, none when it is off (R297). -/
def Partition.limit (p : Partition) : Option Nat :=
  let n := (p.wdog.extractLsb' 0 16).toNat
  if n = 0 then none else some (4096 * n)

/-- WATCHDOG (R311): a warp's counter has reached the limit; its gang is killed and not relaunched. -/
def execWatchdog (w : WarpRef) (s : State) : Host.Outcome State Fault Refusal :=
  match s.block? ⟨w.lid, w.gang, w.num⟩ with
  | none => .next s
  | some b => match b.warp? w.warp, (s.part? b.part).bind Partition.limit with
    | some x, some n =>
      if x.ended ∨ !b.onCore ∨ b.kind = .prologue ∨ x.wdog < n then .next s
      else .next ((s.logWarp b x 0x0C 0 0).killGangOf b .firmware 0)
    | _, _ => .next s

end Sys2Proof.Machine
end

