-- ==== Sys2Proof/Machine/Image.lean ====
section
/-! DEFINITION. The context image of a block (R141) with its matrix section (R262): the bytes a stopped block shows the debugger,
a block as an image leaves it, mid-phase saves, and the resume of a parked or saved gang (R71, R140, R303, R307). -/
namespace Sys2Proof.Machine

/-! ### Parts of an image -/

/-- Zero bytes. -/
def pad (n : Nat) : List Byte := List.replicate n 0

/-- Words in little-endian order. -/
def wordsLe (l : List Word) : List Byte := l.flatMap fun w => leBytes 4 w.toNat

/-- Rows that a map, a slot or a saved mapping of the block names, once each (R141). -/
def Block.imageRows (b : Block) : List Nat :=
  let held := b.slots.toList ++ b.warps.flatMap fun w => w.v.toList ++ w.saved.toList
  (b.rows.map (·.1)).filter fun id => held.contains (some id)

/-- The place of a row in the row table, 0xFFFF for none. -/
def rowIndex (rows : List Nat) (r : Option Nat) : Nat :=
  match r with
  | some id => (rows.findIdx? (· == id)).getD 0xFFFF
  | none => 0xFFFF

/-- The tiles of names in use and dirty, warp by warp and name by name. -/
def Block.imageTiles (b : Block) : List (Nat × Nat × Nat) :=
  b.warps.flatMap fun w => w.acc.toList.zipIdx.filterMap fun (a, i) =>
    match a.tile with
    | some id => if a.dirty then some (w.num, i, id) else none
    | none => none

/-- The mask stack, the bottom entry first. -/
def stackBytes (st : List (Mask × Mask)) : List Byte :=
  let l := st.reverse
  (List.range 16).flatMap fun i => match l[i]? with
    | some (a, c) => wordsLe [a, c]
    | none => pad 8

/-- The pending tag fault of a tag. -/
def Warp.tagFault (w : Warp) (t : Nat) : Option OpFault :=
  w.ops.findSome? fun o => match o.st with
    | .faulted f => if o.cls == .pkt && o.tag.toNat == t then some f else none
    | _ => none

/-- The pending fault of a class, PKT apart: the oldest. -/
def Warp.classFault (w : Warp) (code : Nat) : Option (EngOp × OpFault) :=
  w.ops.findSome? fun o => match o.st with
    | .faulted f => if o.cls != .pkt && o.cls.code.toNat == code then some (o, f) else none
    | _ => none

/-- Bits of a number, one for each index that holds. -/
def bitsFrom (n : Nat) (p : Nat → Bool) : Nat := (List.range n).foldl (fun x i => if p i then x + 2 ^ i else x) 0

/-- A warp record (R141). -/
def Warp.record (w : Warp) (rows : List Nat) (tiles : List (Nat × Nat × Nat)) : List Byte :=
  let accFlags := bitsFrom 32 fun i => match w.acc[i / 2]? with
    | some a => if i % 2 = 0 then a.tile.isSome else a.dirty
    | none => false
  wordsLe [w.pc, w.fullFlg, w.launched, w.exited, w.m]
    ++ leBytes 1 w.stack.length ++ leBytes 1 (if w.depth then 1 else 0) ++ pad 2
    ++ leBytes 4 w.ctr ++ leBytes 4 (w.count .col)
    ++ wordsLe [w.tpc, w.tcause, w.tlanes, w.tinfo, w.taddr, w.taddrh] ++ leBytes 4 accFlags ++ pad 4
    ++ stackBytes w.stack ++ wordsLe (w.p.toList.drop 1) ++ pad 4 ++ wordsLe (w.pPoison.toList.drop 1) ++ pad 4
    ++ wordsLe w.s.toList ++ leBytes 8 w.sPoison.toNat
    ++ leBytes 1 (bitsFrom 8 fun t => (w.tagFault t).isSome) ++ leBytes 1 (bitsFrom 8 fun c => (w.classFault c).isSome) ++ pad 6
    ++ w.v.toList.flatMap (fun r => leBytes 2 (rowIndex rows r)) ++ w.saved.toList.flatMap (fun r => leBytes 2 (rowIndex rows r))
    ++ (List.range 16).flatMap (fun i => leBytes 2 ((tiles.findIdx? fun t => t.1 == w.num && t.2.1 == i).getD 0xFFFF))
    ++ (List.range 8).flatMap (fun t => leBytes 8 (((w.tagFault t).map OpFault.addr).getD 0).toNat)
    ++ (List.range 5).flatMap (fun c => match w.classFault c with
        | some (o, f) => leBytes 8 f.addr.toNat ++ leBytes 4 (faultTrap o f).info.toNat ++ leBytes 4 f.kind
        | none => pad 16)
    ++ pad 176

/-- An entry of the row table. -/
def Block.rowEntry (b : Block) (id : Nat) : List Byte :=
  match b.row? id with
  | some r => wordsLe r.lanes.toList ++ leBytes 4 r.poison.toNat ++ pad 4
  | none => pad 0x88

/-- An entry of the accumulator section. -/
def Block.tileEntry (b : Block) (id : Nat) : List Byte :=
  match b.tile? id with
  | some t => wordsLe t.el.toList ++ leBytes 32 t.poison.toNat
  | none => pad 0x420

/-- The matrix section (R262). -/
def OpBuf.section (o : OpBuf) : List Byte :=
  (List.range 8).flatMap (fun i => match (o.resv[i]?).join with
      | some r => wordsLe [r.f ||| 0x80000000#32, r.s]
      | none => pad 8)
    ++ o.cb.toList.flatMap (fun t => t.toList.flatMap fun x => leBytes 2 x.1.toNat)
    ++ (List.range 8).flatMap (fun i => match (o.resv[i]?).join with
      | some r =>
        let lo := 256 * (r.f.extractLsb' 0 8).toNat
        let n := 256 * ((r.f.extractLsb' 8 8).toNat + 1)
        (List.range n).map fun k => match lookupN o.free ((lo + k) / 16) with
          | some seed => Config.freeByte (seed + (lo + k) % 16)
          | none => o.mem.read (lo + k)
      | none => [])

/-- The offsets of the row table, the accumulator section and the scratchpad image. -/
def imageOffsets (w rows tiles : Nat) : Nat × Nat × Nat :=
  let r := 0x100 + 0x400 * w
  let a := r + 0x88 * rows
  (r, a, a + 0x420 * tiles)

/-- The image of a block (R141, R262). -/
def Block.image (b : Block) : List Byte :=
  let rows := b.imageRows
  let tiles := b.imageTiles
  let (ro, ao, so) := imageOffsets b.warps.length rows.length tiles.length
  let flags := (if b.st = .parked then 0 else 1) + (if b.kern.handoff then 2 else 0) + (if b.debug then 4 else 0)
  let waiting := bitsFrom 16 fun n => b.warps.any fun w => w.num == n && (match w.st with | .macq _ => true | _ => false)
  let size := b.scr.size
  let body := leBytes 4 0x0101 ++ leBytes 4 flags ++ leBytes 8 b.key.lid ++ leBytes 4 b.key.gang ++ leBytes 2 b.key.num
    ++ leBytes 1 b.warps.length ++ leBytes 1 (b.holder.getD 0xFF) ++ leBytes 2 waiting ++ leBytes 2 rows.length
    ++ leBytes 4 b.lanes ++ b.slots.toList.flatMap (fun r => leBytes 2 (rowIndex rows r)) ++ leBytes 4 size
    ++ leBytes 4 tiles.length ++ leBytes 8 ro ++ leBytes 8 ao ++ leBytes 8 so ++ pad 160
    ++ b.warps.flatMap (fun w => w.record rows tiles) ++ rows.flatMap b.rowEntry ++ tiles.flatMap (fun t => b.tileEntry t.2.2)
    ++ b.scr.get 0 size
    ++ (List.range ((size + 255) / 256)).map (fun i => BitVec.ofNat 8 (bitsFrom 8 fun k => b.scr.poison.contains (8 * i + k)))
  if b.kern.matrix then body ++ pad ((64 - body.length % 64) % 64) ++ b.ob.section else body

/-! ### A block from an image -/

/-- A 32-bit field of an image. -/
def w32 (bs : List Byte) (off : Nat) : Word := BitVec.ofNat 32 (fieldAt bs off 4)

/-- A row the image names, with the number its rows are held under from `base` on; none when unmapped. -/
def rowFrom (bs : List Byte) (off base n : Nat) : Option Nat :=
  let i := fieldAt bs off 2
  if i < n then some (base + i) else none

/-- The class with a code (R198). -/
def classOf (code : Nat) : Cls :=
  match code with
  | 0 => .pkt | 1 => .cpy | 2 => .mtx | 3 => .col | _ => .qry

/-- A held fault as a record gives it: that of the operation `p` finds, changed or dropped, or of an operation of its own with
the number `seq` (log 32). -/
def Warp.loadFault (w : Warp) (seq : Nat) (cls : Cls) (tag : BitVec 3) (p : EngOp → Bool) (f : Option (OpFault → OpFault)) : Warp :=
  match w.oldestFault p, f with
  | some (o, old), some f => w.setOp o.seq (.faulted (f old))
  | some (o, _), none => w.setOp o.seq .done
  | none, some f => { w with ops := w.ops ++ [⟨seq, cls, tag, [], .faulted (f ⟨0, 0, 0⟩)⟩] }
  | none, none => w

/-- The pending fault of a tag. -/
def Warp.loadTag (bs : List Byte) (seq : Nat) (w : Warp) (t : Nat) : Warp :=
  w.loadFault (seq + t) .pkt (BitVec.ofNat 3 t) (fun o => o.cls == .pkt && o.tag.toNat == t)
    (if fieldAt bs 0x208 1 / 2 ^ t % 2 = 1 then
      some fun f => { f with addr := BitVec.ofNat 64 (fieldAt bs (0x2C0 + 8 * t) 8) }
    else none)

/-- The pending fault of a class. -/
def Warp.loadClass (bs : List Byte) (seq : Nat) (w : Warp) (c : Nat) : Warp :=
  w.loadFault (seq + 8 + c) (classOf c) 0 (fun o => o.cls == classOf c)
    (if fieldAt bs 0x209 1 / 2 ^ c % 2 = 1 then
      let at_ := 0x300 + 16 * c
      some fun _ => ⟨fieldAt bs (at_ + 12) 4, BitVec.ofNat 64 (fieldAt bs at_ 8), fieldAt bs (at_ + 8) 4 % 2 ^ 24⟩
    else none)

/-- The outstanding COL operations as a record counts them: the newest gone, or some more that nothing completes (log 32). -/
def Warp.loadCols (seq : Nat) (w : Warp) (n : Nat) : Warp :=
  let cols := w.classOps .col
  if n < cols.length then { w with ops := w.ops.filter fun o => o.cls != .col || (cols.take n).contains o }
  else { w with ops := w.ops ++ List.replicate (min 64 (n - cols.length)) ⟨seq + 15, .col, 0, [], .pending⟩ }

/-- A warp as its record leaves it; identity, wrap-up and what no field holds stay as they are. Operations that stand for
faults of their own are numbered from `seq` on. Where COL operations stayed with Tideway during a save, `cols` is false:
their count and fault are those credited since (R140, step 4). Its pc is a multiple of 4 (R18): DESIGN CHOICE, the two low bits
of a record's are dropped (log 35). -/
def Warp.load (w : Warp) (bs : List Byte) (base n seq : Nat) (cols : Bool) : Warp :=
  let depth := fieldAt bs 0x14 1
  let at_ (off : Nat) (i : Nat) : Word := w32 bs (off + 4 * i)
  let w := { w with
    pc := w32 bs 0 &&& 0xFFFFFFFC#32, flg := w32 bs 4, launched := w32 bs 8, exited := w32 bs 0x0C, m := w32 bs 0x10
    stack := ((List.range (min 16 depth)).map fun i => (at_ 0x40 (2 * i), at_ 0x40 (2 * i + 1))).reverse
    ctr := fieldAt bs 0x18 4
    tpc := w32 bs 0x20, tcause := w32 bs 0x24, tlanes := w32 bs 0x28, tinfo := w32 bs 0x2C, taddr := w32 bs 0x30,
    taddrh := w32 bs 0x34
    p := Vector.ofFn fun i : Fin 8 => if i.val = 0 then 0 else at_ 0xC0 (i.val - 1)
    pPoison := Vector.ofFn fun i : Fin 8 => if i.val = 0 then 0 else at_ 0xE0 (i.val - 1)
    s := Vector.ofFn fun i : Fin 64 => at_ 0x100 i.val
    sPoison := BitVec.ofNat 64 (fieldAt bs 0x200 8)
    v := Vector.ofFn fun i : Fin 64 => rowFrom bs (0x210 + 2 * i.val) base n
    saved := Vector.ofFn fun i : Fin 8 => rowFrom bs (0x290 + 2 * i.val) base n
    late := [] }
  let w := w.setDepth (fieldAt bs 0x15 1 % 2 == 1)
  let w := if cols then w.loadCols seq (fieldAt bs 0x1C 4) else w
  let w := (List.range 8).foldl (Warp.loadTag bs seq) w
  (if cols then [1, 2, 3, 4] else [1, 2, 4]).foldl (Warp.loadClass bs seq) w

/-- The place of a warp among those that wait for the engine, as an image's header gives it. -/
def Warp.loadWait (w : Warp) (waits : Bool) : Warp :=
  match w.st, waits with
  | .macq _, false => { w with st := .ready }
  | .macq _, true | _, false => w
  | _, true => { w with st := .macq 0 }

/-- A row of the row table. -/
def loadRow (bs : List Byte) (count : Nat) : Row :=
  ⟨Vector.ofFn fun i : Fin 32 => w32 bs (4 * i.val), w32 bs 0x80, count⟩

/-- The accumulator names of a warp record with the tiles they map: contents from the section when dirty, zeros when
clean; none where a fresh tile is wanted and none is free. -/
def Block.loadAcc (bs acc : List Byte) (w : Warp) : List Nat → Block → Option (Block × Warp)
  | [], b => some (b, w)
  | i :: t, b =>
    let a := BitVec.ofNat 4 i
    let used := fieldAt bs 0x38 4 / 2 ^ (2 * i) % 2 == 1
    let dirty := fieldAt bs 0x38 4 / 2 ^ (2 * i + 1) % 2 == 1
    if !used then Block.loadAcc bs acc (w.setAcc a ⟨none, false⟩) t b
    else match (w.aget a).tile.or b.freeTile with
      | none => none
      | some id =>
        let e := (acc.drop (0x420 * fieldAt bs (0x2A0 + 2 * i) 2)).take 0x420
        let tile : Tile := if dirty then
            ⟨id, Vector.ofFn fun k : Fin 256 => w32 e (4 * k.val), BitVec.ofNat 256 (fieldAt e 1024 32)⟩
          else ⟨id, Vector.replicate 256 0, 0⟩
        let b := { b with tiles := tile :: b.tiles.filter fun x => x.id != id }
        Block.loadAcc bs acc (w.setAcc a ⟨some id, dirty⟩) t b

/-- The operand buffer from a matrix section. No field holds the poison of a codebook entry: an entry that reads as before keeps
its poison (log 32). -/
def OpBuf.loadSection (o : OpBuf) (bs : List Byte) : OpBuf :=
  let rs := (List.range 8).map fun i =>
    let f := w32 bs (8 * i)
    if f.getLsbD 31 then some (Resv.mk (f &&& 0x7FFFFFFF#32) (w32 bs (8 * i + 4))) else none
  let o := { o with
    resv := Vector.ofFn fun i : Fin 8 => (rs[i.val]?).join
    cb := Vector.ofFn fun i : Fin 16 => Vector.ofFn fun k : Fin 16 =>
      let x : BitVec 16 := BitVec.ofNat 16 (fieldAt bs (0x40 + 32 * i.val + 2 * k.val) 2)
      (x, o.cb[i][k] == (x, true)) }
  (rs.foldl (fun (x : OpBuf × List Byte) r => match r with
    | none => x
    | some r =>
      let lo := 256 * (r.f.extractLsb' 0 8).toNat
      let n := 256 * ((r.f.extractLsb' 8 8).toNat + 1)
      ({ x.1 with mem := x.1.mem.writeN lo (x.2.take n)
                  free := x.1.free.filter fun u => !decide (lo / 16 ≤ u.1 ∧ u.1 < (lo + n) / 16) }, x.2.drop n)) (o, bs.drop 0x240)).1

/-- A block as an image of it leaves it, none where the image is not one of this block. Rows held back by the undo log
stay; every other row is that of the table, with a count equal to the references the image records (R140). -/
def Block.loadImage (b : Block) (bs : List Byte) (seq : Nat) (cols : Bool) : Option Block :=
  let n := fieldAt bs 0x1A 2
  let nt := fieldAt bs 0x44 4
  let (ro, ao, so) := (fieldAt bs 0x48 8, fieldAt bs 0x50 8, fieldAt bs 0x58 8)
  let size := b.scr.size
  if fieldAt bs 0 4 ≠ 0x0101 ∨ fieldAt bs 8 8 ≠ b.key.lid ∨ fieldAt bs 0x10 4 ≠ b.key.gang ∨ fieldAt bs 0x14 2 ≠ b.key.num
      ∨ fieldAt bs 0x16 1 ≠ b.warps.length ∨ fieldAt bs 0x40 4 ≠ size ∨ (ro, ao, so) ≠ imageOffsets b.warps.length n nt
      ∨ bs.length < so + size + (size + 255) / 256 then none
  else
    let old := b.slots.toList ++ b.warps.flatMap fun w => w.v.toList ++ w.saved.toList
    let base := b.freshRow
    let b := b.dropRefs old
    let slots : Vector (Option Nat) 16 := Vector.ofFn fun i : Fin 16 => rowFrom bs (0x20 + 2 * i.val) base n
    let warps := b.warps.zipIdx.map fun (w, i) => (w.load ((bs.drop (0x100 + 0x400 * i)).take 0x400) base n (seq + 16 * i) cols).loadWait
      (!w.ended && fieldAt bs 0x18 2 / 2 ^ w.num % 2 == 1)
    let held := slots.toList ++ warps.flatMap fun w => w.v.toList ++ w.saved.toList
    let rows := (List.range n).foldl (fun l i =>
      let count := (held.filter (· == some (base + i))).length
      if count = 0 then l else insertN l (base + i) (loadRow ((bs.drop (ro + 0x88 * i)).take 0x88) count)) b.rows
    let poison := (List.range ((size + 31) / 32)).filter fun g => (fieldAt bs (so + size + g / 8) 1) / 2 ^ (g % 8) % 2 == 1
    let holder := fieldAt bs 0x17 1
    let b := { b with
      slots, rows, warps, lanes := fieldAt bs 0x1C 4, holder := if holder < 16 then some holder else none,
      scr := { b.scr with bytes := Memory.empty.writeN 0 ((bs.drop so).take size), poison } }
    let tail := so + size + (size + 255) / 256
    let b := if b.kern.matrix then { b with ob := b.ob.loadSection (bs.drop ((tail + 63) / 64 * 64)) } else b
    (b.warps.foldl (fun (x : Option Block) w => x.bind fun b =>
      let i := (b.warps.findIdx? fun y => y.num == w.num).getD 0
      (Block.loadAcc ((bs.drop (0x100 + 0x400 * i)).take 0x400) (bs.drop ao) w (List.range 16) b).map fun (b, w) =>
        b.setWarp w) (some b)).map Block.sweepTiles

/-! ### Mid-phase saves (R140, R141) -/

/-- Firmware may keep `n` bytes from a place on for an image: they lie in the partition's memory (R141, R370). -/
def State.saveArea (s : State) (part key n : Nat) : Bool :=
  s.stackIn part (key / 2 ^ 36) && decide (key % 2 ^ 36 + n ≤ dramSize)

/-- The images of some blocks written to their areas, which no meter counts (R140). -/
def State.putImages (s : State) (l : List (Block × Nat)) : State :=
  l.foldl (fun (s : State) x => (s.dramWrite x.2 x.1.image fun _ => true).1) s

/-- A saved block keeps its identity and what no field of an image holds; its rows, slots, registers in the image and
scratchpad bytes are freed (R140, step 5). -/
def Block.vacate (b : Block) (area : Nat × Nat) : Block :=
  { b with
    st := .saved, area := some area, rows := [], slots := Vector.replicate 16 none
    tiles := b.tiles.map fun t => ⟨t.id, Vector.replicate 256 0, 0⟩
    scr := { b.scr with bytes := Memory.empty, poison := [] }
    warps := b.warps.map fun (w : Warp) => { w with v := Vector.replicate 64 none, saved := Vector.replicate 8 none } }

/-- PREEMPT_MID (R140): a stopped gang whose operations have completed is saved, an image of each of its blocks stands in
the area firmware gives it, and its cores are free. -/
def execPreemptMid (lid gang : Nat) (places : List Nat) (s : State) : Host.Outcome State Fault Refusal :=
  let bs := (s.gangBlocks lid gang).filter fun b => b.st != .ended
  if !bs.isEmpty && bs.all (fun b => b.st == .saving && b.drained) && places.length == bs.length
    && (bs.zip places).all (fun x => s.saveArea x.1.part x.2 x.1.image.length) then
    let s := (bs.zip places).foldl (fun (s : State) x =>
      (s.setBlock (x.1.vacate (x.2, x.1.image.length))).logBlock x.1 0x06 0 0) (s.putImages (bs.zip places))
    .next (s.setGang lid gang fun g => { g with st := .saved })
  else .next s

/-! ### Resume (R71, R140, R303, R305, R307) -/

/-- A block back on a core: its warps take the lowest-numbered free slots and start counting for the watchdog anew. One that
has ended brings the allocation it left (R157). -/
def State.resumeBlock (s : State) (b : Block) (core : Nat) : State :=
  if b.st = .ended then s.setBlock { b with core } else
  let slots := freeSlots (s.blocksOn b.cluster core) b.live.length
  let warps := (b.warps.foldl (fun (x : List Warp × List Nat) (w : Warp) =>
    if w.ended then (x.1 ++ [w], x.2) else (x.1 ++ [{ w with slot := x.2.headD 0, wdog := 0 }], x.2.drop 1)) ([], slots)).1
  let b := { b with st := .resident, boundary := false, core, warps, area := none }
  (s.setBlock b).logBlock b 0x07 0 0

/-- A block as its image in memory gives it, none where the memory no longer holds an image of it; a parked or ended block
as it stands (R71, R140). -/
def State.rebuilt (s : State) (b : Block) : Option Block :=
  match b.area with
  | none => some b
  | some (key, n) => b.loadImage (s.dram.readN key n) s.nextSeq false

/-- The images of some blocks read: what their granules' code corrects is counted (R165). -/
def State.readImages (s : State) (bs : List Block) : State :=
  bs.foldl (fun (s : State) b => match b.area with
    | some (key, n) => s.correct (granulesOf key n)
    | none => s) s

/-- An image of a block has an uncorrectable granule. -/
def State.imageBad (s : State) (b : Block) : Bool :=
  match b.area with
  | none => false
  | some (key, n) => (granulesOf key n).any s.poison.contains

/-- The cores a parked or saved gang takes in its cluster: outside the target set of a gather, unless its launch is in
EBB; and no other before a gang in EBB. -/
def State.resumePlace (s : State) (l : Launch) (cluster : Nat) (bs : List Block) : Option (List Nat) :=
  let ebb := l.ebbAt.isSome
  if !ebb && s.ebbWaits cluster then none else
  let away (k : Nat) : Bool := ebb || match s.gatherOf cluster with | some g => !g.target.contains k | none => true
  s.assign cluster away (bs.map Block.need) []

/-- A gang restored, and in EBB diverted into wrap-up at once (R307). -/
def State.restore (s : State) (l : Launch) (gang : Nat) (bs : List Block) (cores : List Nat) : State :=
  let s := (bs.zip cores).foldl (fun (s : State) x => s.resumeBlock x.1 x.2) s
  let s := s.setGang l.lid gang fun g => { g with st := .placed }
  match l.ebbAt, l.wrap with
  | some _, some entry =>
    let f (b : Block) : Block := if b.inGang l.lid gang && b.st == .resident then b.divert (BitVec.ofNat 32 entry) else b
    { s with blocks := s.blocks.map f }
  | _, _ => s

/-- The parked and saved gangs of launches in EBB in a cluster: those that take room there (R307). -/
def State.ebbGangs (s : State) (cluster : Nat) : List (Launch × Nat) :=
  s.launches.flatMap fun l => if l.ebbAt.isNone then [] else
    (l.gangs.filter fun g => g.cluster == cluster && (g.st == .parked || g.st == .saved)).map fun g => (l, g.idx)

/-- The cores that the gangs in EBB before one of them take. -/
def State.ebbClaims (s : State) (l : Launch) (gang cluster : Nat) : List Nat :=
  ((s.ebbGangs cluster).takeWhile fun x => !(x.1.lid == l.lid && x.2 == gang)).foldl (fun (used : List Nat) x =>
    match s.targetApart cluster ((x.1.rcd.map (·.pri)).getD 0) ((s.gangBlocks x.1.lid x.2).map Block.need) used with
    | some ks => ks ++ used
    | none => used) []

/-- A gang of a launch in EBB takes its room at once: the gangs that yield on a target set, apart from those of gangs in EBB
before it, are stopped to be saved (R307, log 32). A gang already being saved is not stopped again. -/
def State.takeRoom (s : State) (l : Launch) (gang cluster : Nat) (bs : List Block) : State :=
  let pri := (l.rcd.map (·.pri)).getD 0
  match s.targetApart cluster pri (bs.map Block.need) (s.ebbClaims l gang cluster) with
  | none => s
  | some ks => (s.victims cluster pri ks).foldl (fun (s : State) v => s.haltGang v.1 v.2) s

/-- A gang that cannot come back from its images. The spec does not say what becomes of it: DESIGN CHOICE, an uncorrectable
granule of an image is poison consumed, a machine check; where an image is no longer one, firmware kills the gang (log 32). -/
def State.loseGang (s : State) (bs : List Block) : State :=
  match bs.find? fun b => b.st == .saved with
  | none => s
  | some b => if bs.any s.imageBad then (s.logBlock b 0x02 0x21 0).killGangOf b .mcheck 0x21 else s.killGangOf b .firmware 0

/-- RESUME (R140, R303, R307): a parked or saved gang is restored, all of its blocks before any warp issues: parked ones from
their phase records, saved ones from their images in memory. -/
def execResume (lid gang : Nat) (s : State) : Host.Outcome State Fault Refusal :=
  match s.launch? lid with
  | none => .next s
  | some l => match l.gang? gang with
    | none => .next s
    | some g =>
      if g.st ≠ .parked ∧ g.st ≠ .saved then .next s else
      let bs := s.gangBlocks lid gang
      match s.resumePlace l g.cluster bs with
      | none => if l.ebbAt.isSome then .next (s.takeRoom l gang g.cluster bs) else .next s
      | some ks =>
        let s := s.readImages bs
        match bs.mapM s.rebuilt, bs.any s.imageBad with
        | some bs, false => .next (({ s with nextSeq := s.nextSeq + 256 } : State).restore l gang bs ks)
        | _, _ => .next (s.loseGang bs)

end Sys2Proof.Machine
end

