-- ==== Sys2Proof/Machine/Debug.lean ====
section
/-! DEFINITION. Debug mode (R143, R144), machine checks that name no instruction (R138, R352), fatal events (R146), and the tide
tick (R212, R318). -/
namespace Sys2Proof.Machine

/-! ### Debug mode (R143, R144) -/

/-- The blocks of a gang that have not ended stand in debug mode, and a property holds of every live warp of them. -/
def State.gangAll (s : State) (lid gang : Nat) (p : Warp → Bool) : Bool :=
  let bs := (s.gangBlocks lid gang).filter fun b => b.st != .ended
  !bs.isEmpty && bs.all fun b => b.debug && b.live.all p

/-- The debugger has stopped a gang; it may have let some of its warps run one instruction. -/
def State.gangStopped (s : State) (lid gang : Nat) : Bool := s.gangAll lid gang fun w => w.halted

/-- The debugger has stopped a gang, and no warp of it runs. -/
def State.gangStill (s : State) (lid gang : Nat) : Bool := s.gangAll lid gang fun w => w.halted && !w.stepOne

/-- A stopped warp passes a BRK it stands at, which retires (R326). -/
def State.passBrk (s : State) (b : Block) (w : Warp) : Warp :=
  if s.fetch b w = .brk then { w with pc := w.pc + 4, wdog := 0, st := .ready, stepOne := false } else w

/-- A stopped warp that goes on, from where it waited if it waits for the engine or a barrier (R141). -/
def State.resumeWarp (s : State) (b : Block) (w : Warp) : Warp :=
  if w.ended then w else { s.passBrk b w with halted := false, stepOne := false, wdog := 0 }

/-- DEBUG_RESUME (R143): the debugger selects the causes that stop a gang of a launch in debug mode, and a gang that has stopped
goes on. -/
def execDebugResume (lid gang : Nat) (causes : List Nat) (s : State) : Host.Outcome State Fault Refusal :=
  match s.launch? lid with
  | none => .next s
  | some l =>
    if !((l.rcd.map (·.debug)).getD false) then .next s else
    let s := s.setLaunch { l with dbgCauses := causes }
    if s.gangStopped lid gang then
      let go (b : Block) : Block := if b.inGang lid gang then { b with warps := b.warps.map (s.resumeWarp b) } else b
      .next { s with blocks := s.blocks.map go }
    else .next s

/-- DEBUG_STEP_FORWARD (R143): a stopped warp may run one instruction; a BRK retires at once. -/
def execDebugStepForward (w : WarpRef) (s : State) : Host.Outcome State Fault Refusal :=
  if s.gangStopped w.lid w.gang then
    let one (b : Block) (x : Warp) : Warp :=
      if x.num == w.warp && !x.ended then
        (if s.fetch b x = .brk then s.passBrk b x else { x with stepOne := true })
      else x
    let step (b : Block) : Block := { b with warps := b.warps.map (one b) }
    .next { s with blocks := s.blocks.map fun b => if b.key == ⟨w.lid, w.gang, w.num⟩ && b.kind == .kernel then step b else b }
  else .next s

/-- A warp with its youngest undo entry undone (R144): names, masks and flags as they were, rows back from the log. -/
def Block.undoWarp (b : Block) (w : Warp) (u : Undo) (rest : List Undo) : Block :=
  let b := u.v.foldl (fun (b : Block) (x : Nat × Option Nat) => b.dropRef (w.vmap (BitVec.ofNat 6 x.1))) b
  let w := u.v.foldl (fun (w : Warp) (x : Nat × Option Nat) => w.setVmap (BitVec.ofNat 6 x.1) x.2) w
  let w := u.s.foldl (fun (w : Warp) (x : Nat × Word × Bool) => w.sput (BitVec.ofNat 6 x.1) x.2.1 x.2.2) w
  let w := u.p.foldl (fun (w : Warp) (x : Nat × Mask × Mask) =>
    { w with p := w.p.setIfInBounds x.1 x.2.1, pPoison := w.pPoison.setIfInBounds x.1 x.2.2 }) w
  let w := u.acc.foldl (fun (w : Warp) (x : Nat × AccName) => w.setAcc (BitVec.ofNat 4 x.1) x.2) w
  let w := { b.stopMtile w with pc := u.pc, flg := u.flg.getD w.flg, st := .ready, ctr := u.ctr, undo := rest }
  let w := match u.masks with
    | some (exited, m, st) => { w with exited, m, stack := st }
    | none => w
  let b := { b with scr := { b.scr with bytes := u.scr.foldl (fun (m : Memory) (x : Nat × Byte) => m.write x.1 x.2) b.scr.bytes } }
  let b := u.tiles.foldl (fun (b : Block) (x : Nat × Vector Word 256 × BitVec 256) => b.setTile ⟨x.1, x.2.1, x.2.2⟩) b
  (b.setWarp w).sweepTiles

/-- Nothing that the engine still holds is of a warp. -/
def Block.engineDone (b : Block) (w : WarpId) : Bool :=
  (b.steps.all fun t => t.wid != w) && b.xfers.all fun x => x.wid != w

/-- DEBUG_STEP_BACK (R144): the youngest entry of a stopped warp's log is undone, and the pc is that instruction. The spec does
not say what it does to an engine operation in flight: DESIGN CHOICE, it waits until the warp has none (log 35). -/
def execDebugStepBack (w : WarpRef) (s : State) : Host.Outcome State Fault Refusal :=
  match s.block? ⟨w.lid, w.gang, w.num⟩ with
  | none => .next s
  | some b => match b.warp? w.warp with
    | none => .next s
    | some x => match x.undo with
      | [] => .next s
      | u :: rest =>
        if s.gangStill w.lid w.gang && !x.ended && b.engineDone ⟨b.key, x.num⟩ then .next (s.setBlock (b.undoWarp x u rest))
        else .next s

/-- DEBUG_IMAGE_ACCESS (R141, R143): the image of a stopped block goes to the debugger, or the debugger writes it. -/
def execDebugImageAccess (lid gang num : Nat) (image : Option (List Byte)) (s : State) : Host.Outcome State Fault Refusal :=
  match s.block? ⟨lid, gang, num⟩ with
  | none => .next s
  | some b =>
    if !s.gangStill lid gang || b.st == .ended then .next s else
    match image with
    | none => .next { s with hostData := s.hostData ++ [b.image] }
    | some bs => match b.loadImage bs s.nextSeq true with
      | some b => .next (State.setBlock { s with nextSeq := s.nextSeq + 256 } b)
      | none => .next s

/-! ### HW_INTERNAL (R138, R352) -/

/-- A machine check at a core or cluster where no gang is resident (R138, R145). -/
def State.logInternal (s : State) (cluster : Nat) (core : Option Nat) : State :=
  s.logEvent (s.dieOfCluster cluster)
    ⟨s.now, 0x02, stackOfCluster cluster, cluster, core.getD 0xFF, 0xFF, MCheck.hwInternal.code, 0, 0, 0, 0⟩

/-- Every gang with a block resident on a core or cluster is killed (R138). -/
def State.killResident (s : State) (cluster : Nat) (core : Option Nat) : State :=
  let hit := s.blocks.filter fun b => b.kind == .kernel && b.onCore && b.cluster == cluster
    && (match core with | some k => b.core == k | none => true)
  if hit.isEmpty then s.logInternal cluster core else
  hit.foldl (fun (s : State) b => match s.block? b.key with
    | some b => (s.logBlock b 0x02 MCheck.hwInternal.code 0).killGangOf b .mcheck MCheck.hwInternal.code
    | none => s) s

/-- HW_INTERNAL (R138): the warp it names is checked, or where it names none the gangs of the core or cluster are
killed. -/
def execHwInternal (w : Option WarpRef) (cluster : Nat) (core : Option Nat) (s : State) : Host.Outcome State Fault Refusal :=
  match w with
  | some w => .next (s.asyncMCheck ⟨⟨w.lid, w.gang, w.num⟩, w.warp⟩ .hwInternal)
  | none => .next (s.killResident cluster core)

/-! ### FATAL (R146) -/

/-- A dump kept among 16: the oldest not retained makes room; with none, nothing is written. -/
def addDump (l : List Dump) (d : Dump) : List Dump :=
  if l.length < 16 then l ++ [d]
  else match l.findIdx? fun x => !x.retained with
    | some i => l.eraseIdx i ++ [d]
    | none => l

/-- The standby complex takes over where the active one has failed (R146, R294). -/
def State.takeOver (s : State) (active : Bool) : State := { s with activeB := if active then !s.activeB else s.activeB }

/-- FATAL (R146, R294): the event is recorded, the rings freeze and are copied to flash by the standby, which takes over
where the active complex has failed. Frozen rings accept no further event, and have been copied; a takeover goes on. The ring and
the place of the event are the model's choice (log 37). -/
def execFatalEvent (active : Bool) (detail : Word) (s : State) : Host.Outcome State Fault Refusal :=
  if s.frozen then .next (s.takeOver active) else
  let s := s.logEvent 0 ⟨s.now, 0x0E, 0x80, 0xFF, 0xFF, 0xFF, 0, 0, 0, 0, detail⟩
  .next (State.takeOver { s with frozen := true, dumps := addDump s.dumps ⟨s.coreRings, s.devRings.toList, false⟩ } active)

/-! ### The tide tick (R212, R318) -/

/-- A warp that the tick lets go on: TICK with the tick's number, FENCE.sc at its completion. -/
def Ctx.onTick (c : Ctx) (tick : Word) : State :=
  match c.w.st with
  | .tick d => c.retired (c.sput d tick) (.tick d) (c.next 4)
  | .fenceSc => c.retired c (.fence true .device) (c.next 4)
  | _ => c.s

/-- TIDE_TICK (R212): the next tick begins at every core, and capped mode is entered or left (R364). -/
def execTideTick (s : State) : Host.Outcome State Fault Refusal :=
  let s : State := { s with ticks := s.ticks + 1, capped := s.capWant }
  let ids := s.blocks.flatMap fun b => b.warps.map fun w => (⟨b.key, w.num⟩ : WarpId)
  .next (ids.foldl (fun (s : State) a => match s.ctxAt a with
    | some c => c.onTick (BitVec.ofNat 32 s.ticks)
    | none => s) s)

end Sys2Proof.Machine
end

