-- ==== Sys2Proof/Machine/HandOver.lean ====
section
/-! DEFINITION. HANDED_OVER (R147): an engine instruction that waits at hand-over tries again. -/
namespace Sys2Proof.Machine

/-- What an instruction does at hand-over, none for one that hands nothing over (R56, R147). -/
def Ctx.engineOp (c : Ctx) (i : Instr) : Option Eff :=
  match i with
  | .pkrd r => some (c.pkrdOp r)
  | .pkwr r => some (c.pkwrOp r)
  | .pkatom r => some (c.pkatomOp r)
  | .copy f => some (c.copyOp f)
  | .getwork sig f => some (c.getworkOp sig f)
  | .coll f sn => some (c.collOp f sn)
  | .azero first last => some (c.azeroOp first last)
  | .mma fmt scr d f sn => some (c.mmaOp fmt scr d f sn)
  | .mtile fmt d f sn => some (c.mtileOp i fmt d f sn)
  | .ald first last f sn => some (c.aldOp i first last f sn)
  | .ast first last f sn => some (c.astOp i first last f sn)
  | _ => none

/-- The identity of a warp an event names. -/
def warpOf (w : WarpRef) : WarpId := ⟨⟨w.lid, w.gang, w.num⟩, w.warp⟩

/-- HANDED_OVER (R147): a warp that waits for a tag, a counter, a presence count or a tile. -/
def execHandedOver (w : WarpRef) (s : State) : Host.Outcome State Fault Refusal :=
  match s.ctxAt (warpOf w) with
  | none => .next s
  | some c =>
    if c.w.st ≠ .handOver then .next s else
    let i := s.fetch c.b c.w
    match c.engineOp i with
    | none => .next s
    | some e => .next (c.finish i e)

end Sys2Proof.Machine
end

