-- ==== Sys2Proof/Machine/Prologue.lean ====
section
/-! DEFINITION. The prologue-only instructions LGO, LCANCEL and LREPEAT (R328). -/
namespace Sys2Proof.Machine

/-- The pass's packets have completed, and the oldest fault one holds ends it PROLOGUE_FAULT (R292, R328). -/
def Ctx.passWait (c : Ctx) (k : Eff) : Eff :=
  if c.w.ops.any fun o => o.st == .pending then .stay c (.waitc .pkt 0) else c.deliver (fun _ => true) k

/-- The record at 0x000 to 0x0BF submitted. -/
def Ctx.submitOp (c : Ctx) (again : Option (List (Nat × Byte))) : Eff :=
  c.passWait <|
    match c.s.submit c.b.key.lid (c.b.scr.get 0 0xC0) again with
    | (s, true) => .goto s
    | (s, false) => .stay { c with s } .oldest

/-- LGO (R328). -/
def execLgo (s : State) : Host.Outcome State Fault Refusal := s.run .lgo fun c => c.submitOp none

/-- LCANCEL (R328): the launch completes CANCELLED. -/
def execLcancel (s : State) : Host.Outcome State Fault Refusal :=
  s.run .lcancel fun c => .goto (c.commit.endPass c.b.key.lid .cancelled 0)

/-- LREPEAT (R292, R328): scratch bytes from 0x0C0 on are kept for the next pass. -/
def execLrepeat (s : State) : Host.Outcome State Fault Refusal :=
  s.run .lrepeat fun c => c.submitOp (some (c.b.scr.bytes.cells.filter fun x => decide (0xC0 ≤ x.1 ∧ x.1 < 0x1000)))

end Sys2Proof.Machine
end

