-- ==== Sys2Proof/Machine/Queries.lean ====
section
/-! DEFINITION. The work distributor (R272, R321): a GETWORK request answered, and the answer's arrival. -/
namespace Sys2Proof.Machine

/-- A query by its number. -/
def State.query? (s : State) (seq : Nat) : Option Query := s.queries.find? fun q => q.seq == seq

/-- The end token (R272). -/
def endToken : Word := 0xFFFFFFFF#32

/-- The next answer of a launch's distributor: an index dispensed once, or the end token once the work is given out or an
expiry or cancel is recorded (R272). -/
def Launch.dispense (l : Launch) : Launch × Word :=
  if l.ebbAt.isNone ∧ l.work < (l.rcd.map (·.work)).getD 0 then ({ l with work := l.work + 1 }, BitVec.ofNat 32 l.work)
  else (l, endToken)

/-- WORK_DISTRIBUTOR_ANSWER (R272): the requests of a warp are answered in their order. With `bad` the answer is delivered
with an uncorrectable error (R321). -/
def execWorkDistributorAnswer (seq : Nat) (bad : Bool) (s : State) : Host.Outcome State Fault Refusal :=
  match s.query? seq with
  | none => .next s
  | some q =>
    if q.answer.isSome ∨ s.queries.any (fun o => o.wid == q.wid && o.dead == q.dead && o.answer.isNone && decide (o.seq < seq)) then .next s
    else match s.launch? q.wid.blk.lid with
      | none => .next s
      | some l =>
        let (l, x) := l.dispense
        let q : Query := { q with answer := some (if bad then endToken else x, bad) }
        .next { (s.setLaunch l) with queries := s.queries.map fun o => if o.seq == seq then q else o }

/-- A scratchpad place as an address of a block of its gang (R155). -/
def scrAddr (own : BlockId) (l : ScrLoc) : DWord :=
  BitVec.ofNat 64 (if l.blk = own then l.off else 2 ^ 31 + 2 ^ 25 * l.blk.num + l.off)

/-- GETWORK_ANSWER (R321): the answer stands in scratchpad, then the barrier is signalled and QRY completes. -/
def execGetworkAnswer (seq : Nat) (s : State) : Host.Outcome State Fault Refusal :=
  match s.query? seq with
  | none => .next s
  | some q => match q.answer with
    | none => .next s
    | some (x, bad) =>
      let s := { s with queries := s.queries.filter fun (o : Query) => o.seq != seq }
      if q.dead then .next s else
      let s := s.putScr q.dest ((leBytes 4 x.toNat).map fun b => (b, bad))
      let s := s.unpendAll (linesAt q.dest 4)
      let s := match q.sig with
        | some l => s.barEvent l 0 4 0 bad
        | none => s
      .next (s.completeOp q.wid seq (if bad then some ⟨2, scrAddr q.wid.blk q.dest, 0⟩ else none))

end Sys2Proof.Machine
end

