-- ==== Sys2Proof/Machine/RowMap.lean ====
section
/-! DEFINITION. The mask stack (R63, R91), the map edits (R85) and the handoff slots (R46, R86). -/
namespace Sys2Proof.Machine

/-! ### The mask stack (R63) -/

/-- SPLIT (R63); a poisoned bit that drives it is consumed (R102). -/
def execSplit (a : Name) (s : State) : Host.Outcome State Fault Refusal :=
  s.run (.split a) fun c =>
    let p : PName := a.setWidth 3
    let w := c.w
    if w.stack.length = 16 then .trap c { cause := .stackOverflow, info := 16 }
    else if w.pbad p &&& w.m &&& w.liveMask ≠ 0 then .mcheck c .poisonConsumed
    else
      let live := w.m &&& ~~~w.exited
      (c.setW { w with m := live &&& w.pget p, stack := (w.m, live &&& ~~~(w.pget p)) :: w.stack }).done 4

/-- FLIP (R63). -/
def execFlip (s : State) : Host.Outcome State Fault Refusal :=
  s.run .flip fun c =>
    match c.w.stack with
    | [] => .trap c { cause := .illegalConvergence, info := Instr.flip.firstWord }
    | (saved, alt) :: t => (c.setW { c.w with m := alt, stack := (saved, c.w.m) :: t }).done 4

/-- JOIN (R63). -/
def execJoin (s : State) : Host.Outcome State Fault Refusal :=
  s.run .join fun c =>
    match c.w.stack with
    | [] => .trap c { cause := .illegalConvergence, info := Instr.join.firstWord }
    | (saved, _) :: t => (c.setW { c.w with m := saved &&& ~~~c.w.exited, stack := t }).done 4

/-! ### Map edits (R85) -/

/-- ALIAS (R85). -/
def execAliasName (d a : Name) (s : State) : Host.Outcome State Fault Refusal :=
  s.run (.aliasName d a) fun c =>
    match c.w.vmap a with
    | none => c.unmapped a
    | some r =>
      if d = a then c.done 4
      else ({ c with b := (c.b.incRow r).dropRef (c.w.vmap d), w := c.w.setVmap d (some r) } : Ctx).done 4

/-- DROP (R85). -/
def execDrop (d : Name) (s : State) : Host.Outcome State Fault Refusal :=
  s.run (.drop d) fun c => ({ c with b := c.b.dropRef (c.w.vmap d), w := c.w.setVmap d none } : Ctx).done 4

/-- SWAPN (R85). -/
def execSwapn (d a : Name) (s : State) : Host.Outcome State Fault Refusal :=
  s.run (.swapn d a) fun c =>
    (c.setW ((c.w.setVmap d (c.w.vmap a)).setVmap a (c.w.vmap d))).done 4

/-- MAPQ (R85): whether the name maps a row, and that row's count. -/
def execMapq (d a : Name) (s : State) : Host.Outcome State Fault Refusal :=
  s.run (.mapq d a) fun c =>
    let x : Word := match c.w.vmap a with
      | none => 0
      | some r => 0x80000000#32 ||| BitVec.ofNat 32 (((c.b.row? r).map (·.count)).getD 0)
    (c.sput d x).done 4

/-! ### Handoff (R46, R86) -/

/-- The slot an s-name names. -/
def slotOf (x : Word) : Nat := x.toNat % 16

/-- A slot of the block. -/
def Block.slot (b : Block) (k : Nat) : Option Nat := b.slots[k]?.join
/-- A slot written. -/
def Block.setSlot (b : Block) (k : Nat) (r : Option Nat) : Block := { b with slots := b.slots.setIfInBounds k r }

/-- A handoff instruction can proceed on a slot: GIVE and GIVEX on an empty one, TAKE on a full one (R86). -/
def HandOp.ready (op : HandOp) (slot : Option Nat) : Bool :=
  match op with
  | .give _ | .givex _ => slot.isNone
  | .take _ => slot.isSome

/-- What a handoff instruction does to the block and the warp (R86). -/
def HandOp.act (op : HandOp) (b : Block) (w : Warp) (k : Nat) : Block × Warp :=
  match op with
  | .give a => (b.setSlot k (w.vmap a), w.setVmap a none)
  | .givex a => match w.vmap a with
    | some r => ((b.incRow r).setSlot k (some r), w)
    | none => (b, w)
  | .take d => ((b.dropRef (w.vmap d)).setSlot k none, w.setVmap d (b.slot k))

/-- A parked warp's handoff instruction retires: its undo log is cleared in debug mode (R144), and the warp goes on. -/
def Block.retireHand (b : Block) (w : Warp) (k : Nat) (op : HandOp) : Block :=
  let (b, w) := op.act b w k
  let b := b.dropRefs w.undoRefs
  b.setWarp { w with pc := w.pc + 4, st := .ready, stepOne := false, wdog := 0, undo := [] }

/-- The lowest-numbered parked warp that can proceed on a slot, with its instruction. -/
def Block.nextHand (b : Block) (k : Nat) : Option (Warp × HandOp) :=
  (List.range 16).findSome? fun n => match b.warp? n with
    | some w => match w.st with
      | .handoff j op => if !w.ended && j == k && op.ready (b.slot k) then some (w, op) else none
      | _ => none
    | none => none

/-- Parked warps proceed one at a time on a slot event, the lowest-numbered first (R86). -/
def Block.slotEvents (k : Nat) : Nat → Block → Block
  | 0, b => b
  | n + 1, b => match b.nextHand k with
    | some (w, op) => slotEvents k n (b.retireHand w k op)
    | none => b

/-- A handoff instruction (R86): the check of its name, the wait, the transfer, and the parked warps it lets go on. A kernel
without the handoff flag can reach such a word as an extension word alone (R20), and the spec does not say what it does there
(R82): DESIGN CHOICE, its block has 16 slots like any other (log 52). -/
def Ctx.handoff (c : Ctx) (i : Instr) (op : HandOp) (read? : Option Name) (sb : Name) : Eff :=
  match read?.bind fun a => if (c.w.vmap a).isNone then some a else none with
  | some a => c.unmapped a
  | none =>
    if c.w.sbad sb then .mcheck c .poisonConsumed else
    let k := slotOf (c.w.sget sb)
    if op.ready (c.b.slot k) then
      let (b, w) := op.act c.b c.w k
      let s := Ctx.retired c { c with b, w } i (c.next 4)
      .goto (match s.block? c.b.key with
        | some b => s.setBlock (b.slotEvents k 16)
        | none => s)
    else .stay c (.handoff k op)

/-- GIVE (R86). -/
def execGive (a b : Name) (s : State) : Host.Outcome State Fault Refusal :=
  s.run (.give a b) fun c => c.handoff (.give a b) (.give a) (some a) b
/-- GIVEX (R86). -/
def execGivex (a b : Name) (s : State) : Host.Outcome State Fault Refusal :=
  s.run (.givex a b) fun c => c.handoff (.givex a b) (.givex a) (some a) b
/-- TAKE (R86). -/
def execTake (d b : Name) (s : State) : Host.Outcome State Fault Refusal :=
  s.run (.take d b) fun c => c.handoff (.take d b) (.take d) none b

end Sys2Proof.Machine
end

