-- ==== Sys2Proof/Machine/Uniform.lean ====
section
/-! DEFINITION. The uniform ALU (R122 to R124) and its conditions (R28). -/
namespace Sys2Proof.Machine

/-- The uniform conditions of R28. -/
def ucondHolds (c : UCond) (x y : Word) : Bool :=
  match c with
  | .eq => x == y
  | .ne => x != y
  | .ltS => x.slt y
  | .leS => x.sle y
  | .gtS => y.slt x
  | .geS => y.sle x
  | .ltN => x.ult y
  | .leN => x.ule y
  | .gtN => y.ult x
  | .geN => y.ule x

/-- A shift amount: b modulo 32 (R123). -/
def amount (b : Word) : Nat := b.toNat % 32
/-- The high word of the signed product. -/
def mulhS (a b : Word) : Word := BitVec.ofInt 32 ((a.toInt * b.toInt) >>> (32 : Nat))
/-- The high word of the natural product. -/
def mulhN (a b : Word) : Word := BitVec.ofNat 32 ((a.toNat * b.toNat) >>> 32)
/-- SSHL. -/
def uShl (a b : Word) : Word := a <<< amount b
/-- SSHR. -/
def uShr (a b : Word) : Word := a >>> amount b
/-- SSRA. -/
def uSra (a b : Word) : Word := a.sshiftRight (amount b)
/-- SMIN.s32. -/
def minS (a b : Word) : Word := if a.sle b then a else b
/-- SMIN.n32. -/
def minN (a b : Word) : Word := if a.ule b then a else b
/-- SMAX.s32. -/
def maxS (a b : Word) : Word := if a.sle b then b else a
/-- SMAX.n32. -/
def maxN (a b : Word) : Word := if a.ule b then b else a

/-- d := f(a, b) on s-names; poison travels (R102, R122). -/
def Ctx.uni (c : Ctx) (d a b : Name) (f : Word → Word → Word) : Eff :=
  (c.sput d (f (c.w.sget a) (c.w.sget b)) (c.w.sbad a || c.w.sbad b)).done 4
/-- d := f(a, imm). -/
def Ctx.uniImm (c : Ctx) (d a : Name) (imm : Word) (f : Word → Word → Word) : Eff :=
  (c.sput d (f (c.w.sget a) imm) (c.w.sbad a)).done 4

/-- SADD (R123). -/
def execSadd (d a b : Name) (s : State) : Host.Outcome State Fault Refusal :=
  s.run (.sadd d a b) fun c => c.uni d a b (· + ·)

/-- SSUB (R123). -/
def execSsub (d a b : Name) (s : State) : Host.Outcome State Fault Refusal :=
  s.run (.ssub d a b) fun c => c.uni d a b (· - ·)

/-- SMUL (R123). -/
def execSmul (d a b : Name) (s : State) : Host.Outcome State Fault Refusal :=
  s.run (.smul d a b) fun c => c.uni d a b (· * ·)

/-- SMULH.s32 (R123). -/
def execSmulhS32 (d a b : Name) (s : State) : Host.Outcome State Fault Refusal :=
  s.run (.smulhS32 d a b) fun c => c.uni d a b mulhS

/-- SMULH.n32 (R123). -/
def execSmulhN32 (d a b : Name) (s : State) : Host.Outcome State Fault Refusal :=
  s.run (.smulhN32 d a b) fun c => c.uni d a b mulhN

/-- SAND (R123). -/
def execSand (d a b : Name) (s : State) : Host.Outcome State Fault Refusal :=
  s.run (.sand d a b) fun c => c.uni d a b (· &&& ·)

/-- SOR (R123). -/
def execSor (d a b : Name) (s : State) : Host.Outcome State Fault Refusal :=
  s.run (.sor d a b) fun c => c.uni d a b (· ||| ·)

/-- SXOR (R123). -/
def execSxor (d a b : Name) (s : State) : Host.Outcome State Fault Refusal :=
  s.run (.sxor d a b) fun c => c.uni d a b (· ^^^ ·)

/-- SSHL (R123). -/
def execSshl (d a b : Name) (s : State) : Host.Outcome State Fault Refusal :=
  s.run (.sshl d a b) fun c => c.uni d a b uShl

/-- SSHR (R123). -/
def execSshr (d a b : Name) (s : State) : Host.Outcome State Fault Refusal :=
  s.run (.sshr d a b) fun c => c.uni d a b uShr

/-- SSRA (R123). -/
def execSsra (d a b : Name) (s : State) : Host.Outcome State Fault Refusal :=
  s.run (.ssra d a b) fun c => c.uni d a b uSra

/-- SMIN.s32 (R123). -/
def execSminS32 (d a b : Name) (s : State) : Host.Outcome State Fault Refusal :=
  s.run (.sminS32 d a b) fun c => c.uni d a b minS

/-- SMIN.n32 (R123). -/
def execSminN32 (d a b : Name) (s : State) : Host.Outcome State Fault Refusal :=
  s.run (.sminN32 d a b) fun c => c.uni d a b minN

/-- SMAX.s32 (R123). -/
def execSmaxS32 (d a b : Name) (s : State) : Host.Outcome State Fault Refusal :=
  s.run (.smaxS32 d a b) fun c => c.uni d a b maxS

/-- SMAX.n32 (R123). -/
def execSmaxN32 (d a b : Name) (s : State) : Host.Outcome State Fault Refusal :=
  s.run (.smaxN32 d a b) fun c => c.uni d a b maxN

/-- SCMP (R123). -/
def execScmp (k : UCond) (d a b : Name) (s : State) : Host.Outcome State Fault Refusal :=
  s.run (.scmp k d a b) fun c => c.uni d a b fun x y => if ucondHolds k x y then 1 else 0

/-- SSEL (R123): a where any bit of the p-name is set; a poisoned bit it selects by is consumed (R102). DESIGN CHOICE: the poison of
the name not selected does not travel (log 52). -/
def execSsel (p : PName) (d a b : Name) (s : State) : Host.Outcome State Fault Refusal :=
  s.run (.ssel p d a b) fun c =>
    if c.w.pbad p ≠ 0 then .mcheck c .poisonConsumed
    else
      let n := if c.w.pget p ≠ 0 then a else b
      (c.sput d (c.w.sget n) (c.w.sbad n)).done 4

/-- SADD with a literal (R124). -/
def execSaddImm (d a : Name) (imm : BitVec 13) (s : State) : Host.Outcome State Fault Refusal :=
  s.run (.saddImm d a imm) fun c => c.uniImm d a (imm.signExtend 32) (· + ·)

/-- SMUL with a literal (R124). -/
def execSmulImm (d a : Name) (imm : BitVec 13) (s : State) : Host.Outcome State Fault Refusal :=
  s.run (.smulImm d a imm) fun c => c.uniImm d a (imm.signExtend 32) (· * ·)

/-- SAND with a literal (R124). -/
def execSandImm (d a : Name) (imm : BitVec 13) (s : State) : Host.Outcome State Fault Refusal :=
  s.run (.sandImm d a imm) fun c => c.uniImm d a (imm.signExtend 32) (· &&& ·)

/-- SOR with a literal (R124). -/
def execSorImm (d a : Name) (imm : BitVec 13) (s : State) : Host.Outcome State Fault Refusal :=
  s.run (.sorImm d a imm) fun c => c.uniImm d a (imm.signExtend 32) (· ||| ·)

/-- SXOR with a literal (R124). -/
def execSxorImm (d a : Name) (imm : BitVec 13) (s : State) : Host.Outcome State Fault Refusal :=
  s.run (.sxorImm d a imm) fun c => c.uniImm d a (imm.signExtend 32) (· ^^^ ·)

/-- SSHL by a literal (R124). -/
def execSshlImm (d a : Name) (k : BitVec 5) (s : State) : Host.Outcome State Fault Refusal :=
  s.run (.sshlImm d a k) fun c => c.uniImm d a (k.setWidth 32) uShl

/-- SSHR by a literal (R124). -/
def execSshrImm (d a : Name) (k : BitVec 5) (s : State) : Host.Outcome State Fault Refusal :=
  s.run (.sshrImm d a k) fun c => c.uniImm d a (k.setWidth 32) uShr

/-- SSRA by a literal (R124). -/
def execSsraImm (d a : Name) (k : BitVec 5) (s : State) : Host.Outcome State Fault Refusal :=
  s.run (.ssraImm d a k) fun c => c.uniImm d a (k.setWidth 32) uSra

/-- SMIN.s32 with a literal (R124). -/
def execSminS32Imm (d a : Name) (imm : BitVec 11) (s : State) : Host.Outcome State Fault Refusal :=
  s.run (.sminS32Imm d a imm) fun c => c.uniImm d a (imm.signExtend 32) minS

/-- SMIN.n32 with a literal (R124). -/
def execSminN32Imm (d a : Name) (imm : BitVec 11) (s : State) : Host.Outcome State Fault Refusal :=
  s.run (.sminN32Imm d a imm) fun c => c.uniImm d a (imm.signExtend 32) minN

/-- SMAX.s32 with a literal (R124). -/
def execSmaxS32Imm (d a : Name) (imm : BitVec 11) (s : State) : Host.Outcome State Fault Refusal :=
  s.run (.smaxS32Imm d a imm) fun c => c.uniImm d a (imm.signExtend 32) maxS

/-- SMAX.n32 with a literal (R124). -/
def execSmaxN32Imm (d a : Name) (imm : BitVec 11) (s : State) : Host.Outcome State Fault Refusal :=
  s.run (.smaxN32Imm d a imm) fun c => c.uniImm d a (imm.signExtend 32) maxN

/-- SCMP with a literal (R124). -/
def execScmpImm (k : UCond) (d a : Name) (imm : BitVec 9) (s : State) : Host.Outcome State Fault Refusal :=
  s.run (.scmpImm k d a imm) fun c => c.uniImm d a (imm.signExtend 32) fun x y => if ucondHolds k x y then 1 else 0

/-- SMOVI (R124). -/
def execSmovi (d : Name) (imm : BitVec 13) (s : State) : Host.Outcome State Fault Refusal :=
  s.run (.smovi d imm) fun c => (c.sput d (imm.signExtend 32)).done 4

/-- SMOVI with an extension word (R124). -/
def execSmoviLong (d : Name) (imm : Word) (s : State) : Host.Outcome State Fault Refusal :=
  s.run (.smoviLong d imm) fun c => (c.sput d imm).done 8

end Sys2Proof.Machine
end

