-- ==== Sys2Proof/Machine/Dispatch.lean ====
section
/-! DEFINITION. One arm for each constructor of `Instr`: the call of its meaning. -/
namespace Sys2Proof.Machine

def exec (i : Instr) (s : State) : Host.Outcome State Fault Refusal :=
  match i with
  | .iadd r => Sys2Proof.Machine.execIadd r s
  | .iaddModw r => Sys2Proof.Machine.execIaddModw r s
  | .isub r => Sys2Proof.Machine.execIsub r s
  | .isubModw r => Sys2Proof.Machine.execIsubModw r s
  | .imul r => Sys2Proof.Machine.execImul r s
  | .imulModw r => Sys2Proof.Machine.execImulModw r s
  | .imulh r => Sys2Proof.Machine.execImulh r s
  | .imulhModw r => Sys2Proof.Machine.execImulhModw r s
  | .imad r => Sys2Proof.Machine.execImad r s
  | .imin r => Sys2Proof.Machine.execImin r s
  | .iminModw r => Sys2Proof.Machine.execIminModw r s
  | .imax r => Sys2Proof.Machine.execImax r s
  | .imaxModw r => Sys2Proof.Machine.execImaxModw r s
  | .icmp c pd r => Sys2Proof.Machine.execIcmp c pd r s
  | .icmpModw c pd r => Sys2Proof.Machine.execIcmpModw c pd r s
  | .andLane r => Sys2Proof.Machine.execAndLane r s
  | .andLaneModw r => Sys2Proof.Machine.execAndLaneModw r s
  | .orLane r => Sys2Proof.Machine.execOrLane r s
  | .orLaneModw r => Sys2Proof.Machine.execOrLaneModw r s
  | .xorLane r => Sys2Proof.Machine.execXorLane r s
  | .xorLaneModw r => Sys2Proof.Machine.execXorLaneModw r s
  | .shl r => Sys2Proof.Machine.execShl r s
  | .shlModw r => Sys2Proof.Machine.execShlModw r s
  | .shr r => Sys2Proof.Machine.execShr r s
  | .shrModw r => Sys2Proof.Machine.execShrModw r s
  | .sra r => Sys2Proof.Machine.execSra r s
  | .sraModw r => Sys2Proof.Machine.execSraModw r s
  | .rot r => Sys2Proof.Machine.execRot r s
  | .rotModw r => Sys2Proof.Machine.execRotModw r s
  | .bfe r => Sys2Proof.Machine.execBfe r s
  | .bfeModw r => Sys2Proof.Machine.execBfeModw r s
  | .bfi r => Sys2Proof.Machine.execBfi r s
  | .sel r => Sys2Proof.Machine.execSel r s
  | .iabs r => Sys2Proof.Machine.execIabs r s
  | .iabsModw r => Sys2Proof.Machine.execIabsModw r s
  | .ineg r => Sys2Proof.Machine.execIneg r s
  | .inegModw r => Sys2Proof.Machine.execInegModw r s
  | .popc r => Sys2Proof.Machine.execPopc r s
  | .popcModw r => Sys2Proof.Machine.execPopcModw r s
  | .clz r => Sys2Proof.Machine.execClz r s
  | .clzModw r => Sys2Proof.Machine.execClzModw r s
  | .brev r => Sys2Proof.Machine.execBrev r s
  | .brevModw r => Sys2Proof.Machine.execBrevModw r s
  | .dp4 r => Sys2Proof.Machine.execDp4 r s
  | .unt5 r => Sys2Proof.Machine.execUnt5 r s
  | .asa r => Sys2Proof.Machine.execAsa r s
  | .packi r => Sys2Proof.Machine.execPacki r s
  | .unpki r => Sys2Proof.Machine.execUnpki r s
  | .iaddImm d a imm g => Sys2Proof.Machine.execIaddImm d a imm g s
  | .andImm d a imm g => Sys2Proof.Machine.execAndImm d a imm g s
  | .orImm d a imm g => Sys2Proof.Machine.execOrImm d a imm g s
  | .xorImm d a imm g => Sys2Proof.Machine.execXorImm d a imm g s
  | .shlImm d a k g => Sys2Proof.Machine.execShlImm d a k g s
  | .shrImm d a k g => Sys2Proof.Machine.execShrImm d a k g s
  | .sraImm d a k g => Sys2Proof.Machine.execSraImm d a k g s
  | .rotImm d a k g => Sys2Proof.Machine.execRotImm d a k g s
  | .icmpS32Imm c pd a imm g => Sys2Proof.Machine.execIcmpS32Imm c pd a imm g s
  | .icmpN32Imm c pd a imm g => Sys2Proof.Machine.execIcmpN32Imm c pd a imm g s
  | .movi d imm g => Sys2Proof.Machine.execMovi d imm g s
  | .moviLong d g imm => Sys2Proof.Machine.execMoviLong d g imm s
  | .fadd r => Sys2Proof.Machine.execFadd r s
  | .faddModw r => Sys2Proof.Machine.execFaddModw r s
  | .fsub r => Sys2Proof.Machine.execFsub r s
  | .fsubModw r => Sys2Proof.Machine.execFsubModw r s
  | .fmul r => Sys2Proof.Machine.execFmul r s
  | .fmulModw r => Sys2Proof.Machine.execFmulModw r s
  | .ffma r => Sys2Proof.Machine.execFfma r s
  | .fmin r => Sys2Proof.Machine.execFmin r s
  | .fminModw r => Sys2Proof.Machine.execFminModw r s
  | .fmax r => Sys2Proof.Machine.execFmax r s
  | .fmaxModw r => Sys2Proof.Machine.execFmaxModw r s
  | .fcmp c pd r => Sys2Proof.Machine.execFcmp c pd r s
  | .fcmpModw c pd r => Sys2Proof.Machine.execFcmpModw c pd r s
  | .fdiv r => Sys2Proof.Machine.execFdiv r s
  | .fdivModw r => Sys2Proof.Machine.execFdivModw r s
  | .fclass r => Sys2Proof.Machine.execFclass r s
  | .fclassModw r => Sys2Proof.Machine.execFclassModw r s
  | .frnd r => Sys2Proof.Machine.execFrnd r s
  | .frndModw r => Sys2Proof.Machine.execFrndModw r s
  | .fsqrt r => Sys2Proof.Machine.execFsqrt r s
  | .fsqrtModw r => Sys2Proof.Machine.execFsqrtModw r s
  | .frcp r => Sys2Proof.Machine.execFrcp r s
  | .frcpModw r => Sys2Proof.Machine.execFrcpModw r s
  | .frsq r => Sys2Proof.Machine.execFrsq r s
  | .frsqModw r => Sys2Proof.Machine.execFrsqModw r s
  | .fexp2 r => Sys2Proof.Machine.execFexp2 r s
  | .fexp2Modw r => Sys2Proof.Machine.execFexp2Modw r s
  | .flog2 r => Sys2Proof.Machine.execFlog2 r s
  | .flog2Modw r => Sys2Proof.Machine.execFlog2Modw r s
  | .fsin r => Sys2Proof.Machine.execFsin r s
  | .fsinModw r => Sys2Proof.Machine.execFsinModw r s
  | .fcos r => Sys2Proof.Machine.execFcos r s
  | .fcosModw r => Sys2Proof.Machine.execFcosModw r s
  | .cvt r t2 => Sys2Proof.Machine.execCvt r t2 s
  | .pkf8 r k => Sys2Proof.Machine.execPkf8 r k s
  | .upf8 r k => Sys2Proof.Machine.execUpf8 r k s
  | .mov r => Sys2Proof.Machine.execMov r s
  | .splat d b g => Sys2Proof.Machine.execSplat d b g s
  | .shfl m r => Sys2Proof.Machine.execShfl m r s
  | .vote m r => Sys2Proof.Machine.execVote m r s
  | .ballot r => Sys2Proof.Machine.execBallot r s
  | .bcast toS r => Sys2Proof.Machine.execBcast toS r s
  | .laneid d g => Sys2Proof.Machine.execLaneid d g s
  | .plop pd pa pb pc lut g => Sys2Proof.Machine.execPlop pd pa pb pc lut g s
  | .split a => Sys2Proof.Machine.execSplit a s
  | .flip => Sys2Proof.Machine.execFlip s
  | .join => Sys2Proof.Machine.execJoin s
  | .aliasName d a => Sys2Proof.Machine.execAliasName d a s
  | .drop d => Sys2Proof.Machine.execDrop d s
  | .swapn d a => Sys2Proof.Machine.execSwapn d a s
  | .mapq d a => Sys2Proof.Machine.execMapq d a s
  | .give a b => Sys2Proof.Machine.execGive a b s
  | .givex a b => Sys2Proof.Machine.execGivex a b s
  | .take d b => Sys2Proof.Machine.execTake d b s
  | .ld r z => Sys2Proof.Machine.execLd r z s
  | .ldLong r w => Sys2Proof.Machine.execLdLong r w s
  | .st r z => Sys2Proof.Machine.execSt r z s
  | .stLong r w => Sys2Proof.Machine.execStLong r w s
  | .atom r w => Sys2Proof.Machine.execAtom r w s
  | .spill d k => Sys2Proof.Machine.execSpill d k s
  | .fill d k => Sys2Proof.Machine.execFill d k s
  | .sadd d a b => Sys2Proof.Machine.execSadd d a b s
  | .ssub d a b => Sys2Proof.Machine.execSsub d a b s
  | .smul d a b => Sys2Proof.Machine.execSmul d a b s
  | .smulhS32 d a b => Sys2Proof.Machine.execSmulhS32 d a b s
  | .smulhN32 d a b => Sys2Proof.Machine.execSmulhN32 d a b s
  | .sand d a b => Sys2Proof.Machine.execSand d a b s
  | .sor d a b => Sys2Proof.Machine.execSor d a b s
  | .sxor d a b => Sys2Proof.Machine.execSxor d a b s
  | .sshl d a b => Sys2Proof.Machine.execSshl d a b s
  | .sshr d a b => Sys2Proof.Machine.execSshr d a b s
  | .ssra d a b => Sys2Proof.Machine.execSsra d a b s
  | .sminS32 d a b => Sys2Proof.Machine.execSminS32 d a b s
  | .sminN32 d a b => Sys2Proof.Machine.execSminN32 d a b s
  | .smaxS32 d a b => Sys2Proof.Machine.execSmaxS32 d a b s
  | .smaxN32 d a b => Sys2Proof.Machine.execSmaxN32 d a b s
  | .scmp c d a b => Sys2Proof.Machine.execScmp c d a b s
  | .ssel p d a b => Sys2Proof.Machine.execSsel p d a b s
  | .saddImm d a imm => Sys2Proof.Machine.execSaddImm d a imm s
  | .smulImm d a imm => Sys2Proof.Machine.execSmulImm d a imm s
  | .sandImm d a imm => Sys2Proof.Machine.execSandImm d a imm s
  | .sorImm d a imm => Sys2Proof.Machine.execSorImm d a imm s
  | .sxorImm d a imm => Sys2Proof.Machine.execSxorImm d a imm s
  | .sshlImm d a k => Sys2Proof.Machine.execSshlImm d a k s
  | .sshrImm d a k => Sys2Proof.Machine.execSshrImm d a k s
  | .ssraImm d a k => Sys2Proof.Machine.execSsraImm d a k s
  | .sminS32Imm d a imm => Sys2Proof.Machine.execSminS32Imm d a imm s
  | .sminN32Imm d a imm => Sys2Proof.Machine.execSminN32Imm d a imm s
  | .smaxS32Imm d a imm => Sys2Proof.Machine.execSmaxS32Imm d a imm s
  | .smaxN32Imm d a imm => Sys2Proof.Machine.execSmaxN32Imm d a imm s
  | .scmpImm c d a imm => Sys2Proof.Machine.execScmpImm c d a imm s
  | .smovi d imm => Sys2Proof.Machine.execSmovi d imm s
  | .smoviLong d imm => Sys2Proof.Machine.execSmoviLong d imm s
  | .sld d a imm => Sys2Proof.Machine.execSld d a imm s
  | .sst d a imm => Sys2Proof.Machine.execSst d a imm s
  | .sldk d k => Sys2Proof.Machine.execSldk d k s
  | .bra off => Sys2Proof.Machine.execBra off s
  | .brc c n off => Sys2Proof.Machine.execBrc c n off s
  | .loopn n off => Sys2Proof.Machine.execLoopn n off s
  | .call off => Sys2Proof.Machine.execCall off s
  | .nop => Sys2Proof.Machine.execNop s
  | .jmpi a => Sys2Proof.Machine.execJmpi a s
  | .ret => Sys2Proof.Machine.execRet s
  | .exit => Sys2Proof.Machine.execExit s
  | .pkrd r => Sys2Proof.Machine.execPkrd r s
  | .pkwr r => Sys2Proof.Machine.execPkwr r s
  | .pkatom r => Sys2Proof.Machine.execPkatom r s
  | .pkwait mask => Sys2Proof.Machine.execPkwait mask s
  | .copy f => Sys2Proof.Machine.execCopy f s
  | .barinit f sn => Sys2Proof.Machine.execBarinit f sn s
  | .bararv f => Sys2Proof.Machine.execBararv f s
  | .barexp f sn => Sys2Proof.Machine.execBarexp f sn s
  | .barwt f ph => Sys2Proof.Machine.execBarwt f ph s
  | .waitc c n => Sys2Proof.Machine.execWaitc c n s
  | .fence sc scope => Sys2Proof.Machine.execFence sc scope s
  | .macq p => Sys2Proof.Machine.execMacq p s
  | .macqWait p => Sys2Proof.Machine.execMacqWait p s
  | .mrel => Sys2Proof.Machine.execMrel s
  | .mpass a => Sys2Proof.Machine.execMpass a s
  | .obres idx f sn => Sys2Proof.Machine.execObres idx f sn s
  | .obrel idx => Sys2Proof.Machine.execObrel idx s
  | .cbld idx f => Sys2Proof.Machine.execCbld idx f s
  | .scld idx f sn => Sys2Proof.Machine.execScld idx f sn s
  | .azero first last => Sys2Proof.Machine.execAzero first last s
  | .mma fmt scr d f sn => Sys2Proof.Machine.execMma fmt scr d f sn s
  | .mtile fmt d f sn => Sys2Proof.Machine.execMtile fmt d f sn s
  | .ald first last f sn => Sys2Proof.Machine.execAld first last f sn s
  | .ast first last f sn => Sys2Proof.Machine.execAst first last f sn s
  | .amovv r => Sys2Proof.Machine.execAmovv r s
  | .phase k => Sys2Proof.Machine.execPhase k s
  | .barb k => Sys2Proof.Machine.execBarb k s
  | .getwork sig f => Sys2Proof.Machine.execGetwork sig f s
  | .valid f => Sys2Proof.Machine.execValid f s
  | .wrapend => Sys2Proof.Machine.execWrapend s
  | .cancel => Sys2Proof.Machine.execCancel s
  | .cancelJob => Sys2Proof.Machine.execCancelJob s
  | .lcntLaunch d => Sys2Proof.Machine.execLcntLaunch d s
  | .lcntJob d => Sys2Proof.Machine.execLcntJob d s
  | .coll f sn => Sys2Proof.Machine.execColl f sn s
  | .srd d sr => Sys2Proof.Machine.execSrd d sr s
  | .swr d sr => Sys2Proof.Machine.execSwr d sr s
  | .time d => Sys2Proof.Machine.execTime d s
  | .tick d => Sys2Proof.Machine.execTick d s
  | .tickNow d => Sys2Proof.Machine.execTickNow d s
  | .trap code => Sys2Proof.Machine.execTrap code s
  | .tretRetry => Sys2Proof.Machine.execTretRetry s
  | .tretSkip => Sys2Proof.Machine.execTretSkip s
  | .brk => Sys2Proof.Machine.execBrk s
  | .lgo => Sys2Proof.Machine.execLgo s
  | .lcancel => Sys2Proof.Machine.execLcancel s
  | .lrepeat => Sys2Proof.Machine.execLrepeat s
  | .illegalOpcode w => Sys2Proof.Machine.execIllegalOpcode w s
  | .handedOver w => Sys2Proof.Machine.execHandedOver w s
  | .memoryRequest seq remote kind => Sys2Proof.Machine.execMemoryRequest seq remote kind s
  | .packetReply seq => Sys2Proof.Machine.execPacketReply seq s
  | .packetAcknowledgement seq => Sys2Proof.Machine.execPacketAcknowledgement seq s
  | .faultResolution stack asid page entries frame => Sys2Proof.Machine.execFaultResolution stack asid page entries frame s
  | .translationInvalidation stack asid page n entries => Sys2Proof.Machine.execTranslationInvalidation stack asid page n entries s
  | .copyOut stack frame loc pframe => Sys2Proof.Machine.execCopyOut stack frame loc pframe s
  | .copyBack stack frame => Sys2Proof.Machine.execCopyBack stack frame s
  | .migrationSwitch stack frame => Sys2Proof.Machine.execMigrationSwitch stack frame s
  | .mqAck stack frame => Sys2Proof.Machine.execMqAck stack frame s
  | .scrub stack granule => Sys2Proof.Machine.execScrub stack granule s
  | .copySignal seq entry pass => Sys2Proof.Machine.execCopySignal seq entry pass s
  | .copyCompletion seq => Sys2Proof.Machine.execCopyCompletion seq s
  | .workDistributorAnswer seq bad => Sys2Proof.Machine.execWorkDistributorAnswer seq bad s
  | .getworkAnswer seq => Sys2Proof.Machine.execGetworkAnswer seq s
  | .matrixStepComplete lid gang num ix => Sys2Proof.Machine.execMatrixStepComplete lid gang num ix s
  | .accumulatorTransferComplete lid gang num seq => Sys2Proof.Machine.execAccumulatorTransferComplete lid gang num seq s
  | .mergeTake group => Sys2Proof.Machine.execMergeTake group s
  | .doorbell ring => Sys2Proof.Machine.execDoorbell ring s
  | .wptrReread => Sys2Proof.Machine.execWptrReread s
  | .launchPacket group => Sys2Proof.Machine.execLaunchPacket group s
  | .jobPacket group => Sys2Proof.Machine.execJobPacket group s
  | .waitcnt group => Sys2Proof.Machine.execWaitcnt group s
  | .waitcntTimeout group => Sys2Proof.Machine.execWaitcntTimeout group s
  | .signalWrite group => Sys2Proof.Machine.execSignalWrite group s
  | .signalStart group => Sys2Proof.Machine.execSignalStart group s
  | .cancelLaunch group => Sys2Proof.Machine.execCancelLaunch group s
  | .cancelJobPacket group => Sys2Proof.Machine.execCancelJobPacket group s
  | .metersnap group => Sys2Proof.Machine.execMetersnap group s
  | .skipPacket ring => Sys2Proof.Machine.execSkipPacket ring s
  | .prologueTimeout lid => Sys2Proof.Machine.execPrologueTimeout lid s
  | .repetitionPass ring => Sys2Proof.Machine.execRepetitionPass ring s
  | .completionRecord ix => Sys2Proof.Machine.execCompletionRecord ix s
  | .gangPlacement part => Sys2Proof.Machine.execGangPlacement part s
  | .gatherGrant part => Sys2Proof.Machine.execGatherGrant part s
  | .gatherPreemption cluster => Sys2Proof.Machine.execGatherPreemption cluster s
  | .preemptMid lid gang places => Sys2Proof.Machine.execPreemptMid lid gang places s
  | .resume lid gang => Sys2Proof.Machine.execResume lid gang s
  | .expiry lid => Sys2Proof.Machine.execExpiry lid s
  | .budgetEnd lid => Sys2Proof.Machine.execBudgetEnd lid s
  | .watchdog w => Sys2Proof.Machine.execWatchdog w s
  | .hwInternal w cluster core => Sys2Proof.Machine.execHwInternal w cluster core s
  | .fatalEvent active detail => Sys2Proof.Machine.execFatalEvent active detail s
  | .tideTick => Sys2Proof.Machine.execTideTick s
  | .debugResume lid gang causes => Sys2Proof.Machine.execDebugResume lid gang causes s
  | .debugStepForward w => Sys2Proof.Machine.execDebugStepForward w s
  | .debugStepBack w => Sys2Proof.Machine.execDebugStepBack w s
  | .debugImageAccess lid gang num image => Sys2Proof.Machine.execDebugImageAccess lid gang num image s
  | .instanceStart die => Sys2Proof.Machine.execInstanceStart die s
  | .chunkSend op => Sys2Proof.Machine.execChunkSend op s
  | .chunkRecv op => Sys2Proof.Machine.execChunkRecv op s
  | .chunkRed op => Sys2Proof.Machine.execChunkRed op s
  | .chunkRedDispatch op => Sys2Proof.Machine.execChunkRedDispatch op s
  | .chunkCopy op => Sys2Proof.Machine.execChunkCopy op s
  | .chunkWait op => Sys2Proof.Machine.execChunkWait op s
  | .dataChunk die rank hdr data check => Sys2Proof.Machine.execDataChunk die rank hdr data check s
  | .tokenChunk die rank hdr check => Sys2Proof.Machine.execTokenChunk die rank hdr check s
  | .ackChunk die rank hdr => Sys2Proof.Machine.execAckChunk die rank hdr s
  | .nackSoft die rank hdr => Sys2Proof.Machine.execNackSoft die rank hdr s
  | .nackHard die rank hdr => Sys2Proof.Machine.execNackHard die rank hdr s
  | .nackFailed die rank hdr => Sys2Proof.Machine.execNackFailed die rank hdr s
  | .failChunk die rank hdr check => Sys2Proof.Machine.execFailChunk die rank hdr check s
  | .ackTimeout op => Sys2Proof.Machine.execAckTimeout op s
  | .instanceIdleTimeout die sched inst => Sys2Proof.Machine.execInstanceIdleTimeout die sched inst s
  | .reduceBlockEnd lid => Sys2Proof.Machine.execReduceBlockEnd lid s
  | .scheduleLoad part die addr => Sys2Proof.Machine.execScheduleLoad part die addr s
  | .scheduleUnload part die sched => Sys2Proof.Machine.execScheduleUnload part die sched s
  | .ringRegistration ring hdr body k group part vec => Sys2Proof.Machine.execRingRegistration ring hdr body k group part vec s
  | .ringDeregistration ring => Sys2Proof.Machine.execRingDeregistration ring s
  | .ringReset ring rptr => Sys2Proof.Machine.execRingReset ring rptr s
  | .codeObjectRegistration part asid addr => Sys2Proof.Machine.execCodeObjectRegistration part asid addr s
  | .asidEnable part asid roots => Sys2Proof.Machine.execAsidEnable part asid roots s
  | .asidDisable part asid => Sys2Proof.Machine.execAsidDisable part asid s
  | .tenancyRequest part num key => Sys2Proof.Machine.execTenancyRequest part num key s
  | .meterRequest meter part tenancy => Sys2Proof.Machine.execMeterRequest meter part tenancy s
  | .releaseRequest meter => Sys2Proof.Machine.execReleaseRequest meter s
  | .holdRequest group ns part => Sys2Proof.Machine.execHoldRequest group ns part s
  | .liveUpdate slot imported => Sys2Proof.Machine.execLiveUpdate slot imported s
  | .partitionCut cut => Sys2Proof.Machine.execPartitionCut cut s
  | .partitionReset part => Sys2Proof.Machine.execPartitionReset part s
  | .setDeviceTime ns => Sys2Proof.Machine.execSetDeviceTime ns s
  | .ppsInput offset locked => Sys2Proof.Machine.execPpsInput offset locked s
  | .ptpEventMessage port domain offset locked => Sys2Proof.Machine.execPtpEventMessage port domain offset locked s
  | .attestation nonce => Sys2Proof.Machine.execAttestation nonce s
  | .measurementLogRead => Sys2Proof.Machine.execMeasurementLogRead s
  | .chipRetirement => Sys2Proof.Machine.execChipRetirement s
  | .finalStatement => Sys2Proof.Machine.execFinalStatement s
  | .meterRefresh meter allow => Sys2Proof.Machine.execMeterRefresh meter allow s
  | .journalWrite meter allow => Sys2Proof.Machine.execJournalWrite meter allow s
  | .resetMachine stop => Sys2Proof.Machine.execResetMachine stop s
  | .powerLoss => Sys2Proof.Machine.execPowerLoss s
  | .cappedMode on => Sys2Proof.Machine.execCappedMode on s
  | .hostWindowAccess part off n data => Sys2Proof.Machine.execHostWindowAccess part off n data s
  | .transmitCommand part asid addr n => Sys2Proof.Machine.execTransmitCommand part asid addr n s
  | .registerWrite off x firmware => Sys2Proof.Machine.execRegisterWrite off x firmware s
  | .copyElementWrite seq entry pass elem targ remote rkind wkind => Sys2Proof.Machine.execCopyElementWrite seq entry pass elem targ remote rkind wkind s
  | .migrationGranuleCopy stack frame => Sys2Proof.Machine.execMigrationGranuleCopy stack frame s
  | .linkCredit die rank grant => Sys2Proof.Machine.execLinkCredit die rank grant s
  | .holdover us => Sys2Proof.Machine.execHoldover us s
  | .domainConfiguration rank x y z => Sys2Proof.Machine.execDomainConfiguration rank x y z s

end Sys2Proof.Machine
end

