-- ==== Sys2Proof/Machine/Place.lean ====
section
/-! DEFINITION. An instruction laid down where the next step fetches (log 7): at the current agent's pc where its code
object has room there, else in a code object of its own, run by a block of its own. -/
namespace Sys2Proof.Machine

/-- Bytes stored in the DRAM places of a code object from an offset on. -/
def State.putCode (s : State) (co : CodeObj) : Nat → List Byte → State
  | _, [] => s
  | off, b :: t => State.putCode (match s.codePlace co off with
      | some k => { s with dram := s.dram.write k b }
      | none => s) co (off + 1) t

/-- The code object and offset of the current agent's pc, where eight bytes can be stored there. -/
def State.codeSpot (s : State) : Option (CodeObj × Nat) :=
  s.ctx.bind fun c =>
    if c.b.kern.codeSize < c.w.pc.toNat + 8 then none
    else (s.code? c.b.part c.b.code).bind fun co =>
      let off := c.b.kern.codeOff + c.w.pc.toNat
      if (List.range 8).all fun i => (s.codePlace co (off + i)).isSome then some (co, off) else none

/-- The code object an instruction is laid down in when no agent can take it: eight bytes at the start of stack 0. -/
def spotCode : CodeObj := ⟨0, 0, 8, 0, 0, [], []⟩

/-- The body that runs it: one warp of 32 lanes with every v-name mapped and 4 KiB of scratchpad. -/
def spotBody : Kernel := ⟨0, 8, 1, 1, true, true, 0x1000, 0, 0, none, none, 0, BitVec.allOnes 64, []⟩

/-- The launch it belongs to. -/
def spotLaunch (lid : Nat) (pass : Bool) : Launch :=
  { lid, origin := .ring none, tag := 0, compl := 0, irq := false, vec := 0, pass := 0, part := 0, job := none,
    packet := List.replicate 256 0, rcd := none, kern := none, asid := none, wrap := none, budget := 0,
    repeats := false, st := if pass then .prologue else .running, counter := 1, work := 0, used := 0, ebbAt := none,
    cancelled := false, gangFailed := false, overBudget := false, flags := [], dbgCauses := [], next := 1, w0 := none,
    gangs := if pass then [] else [⟨0, .placed, 0, 0⟩], status := none }

/-- The block that runs it. -/
def spotBlock (lid : Nat) (pass : Bool) : Block :=
  (Block.start ⟨lid, 0, 0⟩ (if pass then .prologue else .kernel) 0 0 spotBody none 32 false 0 0 0x1000).startRows
    (Warp.start 0 0 0xFFFFFFFF#32 fun _ => 0)

/-- A launch, a code object with its page mapped, and a block or pass of one warp, which is the current agent. -/
def State.makeSpot (s : State) (pass : Bool) : State :=
  let lid := s.nextLid
  { s with
    nextLid := lid + 1
    codes := spotCode :: s.codes
    launches := spotLaunch lid pass :: s.launches
    passes := if pass then ⟨lid, 0, 0, some s.now⟩ :: s.passes else s.passes
    blocks := spotBlock lid pass :: s.blocks
    dies := s.dies.setIfInBounds 0 { s.die 0 with tlb := ⟨0, 0, 1, 3⟩ :: (s.die 0).tlb }
    cur := some ⟨⟨lid, 0, 0⟩, 0⟩ }

/-- The instructions only a prologue may run (R293). -/
def prologueOnly (bytes : List Byte) : Bool :=
  match decodeBytes bytes with
  | .ok (i, _) => i.privInKernel && i.inPrologue
  | .error _ => false

/-- Eight bytes laid down where the next step fetches. -/
def State.layDown (s : State) (bytes : List Byte) : State :=
  let s : State := { s with agenda := [] }
  match s.codeSpot with
  | some (co, off) => s.putCode co off bytes
  | none => (s.makeSpot (prologueOnly bytes)).putCode spotCode 0 bytes

end Sys2Proof.Machine
end

