-- ==== Sys2Proof/Machine/Step.lean ====
section
/-! DEFINITION. One step of the package: the turn at the head of the agenda, and the instruction or event it brings. -/
namespace Sys2Proof.Machine

/-- One step (log 2): what it leaves keeps every core's pool (R81). -/
def step (s : State) : Host.Outcome State Fault Refusal :=
  match s.turn with
  | (s', some i) => settle (exec i s')
  | (s', none) => .next s'

/-- The state with an instruction of the opcode table's bits stored where `step` fetches next, bits above `nbits` zero
(log 7). -/
def State.withFetchWord (s : State) (nbits w : Nat) : State := s.layDown (leBytes 8 (w % 2 ^ nbits))

end Sys2Proof.Machine
end

