-- ==== Sys2Proof/Safety.lean ====
section
/-! DEFINITION. The terms the statements use: when a warp may execute an instruction, what a retired instruction leaves, and
what it may have changed of the warp and its block. -/
namespace Sys2Proof.Machine

/-! ### Before an instruction -/

/-- The warp may execute the instruction: the checks of R43 pass, and it consumes no poisoned guard bit (R102). -/
def Ctx.admits (c : Ctx) (i : Instr) : Bool := (c.gate i).isNone && !(i.isL && c.guardBad i.guard)

/-- Every v-name of a list maps a row, or no lane is active (R79). -/
def Ctx.mapped (c : Ctx) (act : Mask) (ns : List Name) : Bool := decide (act = 0) || ns.all fun n => (c.w.vmap n).isSome

/-- No older access of the warp holds a scratchpad access back (R204, R205); `read` says that it is an LD. -/
def Ctx.free (c : Ctx) (sem : Sem) (scope : Scope) (read : Bool := false) : Bool :=
  !c.acqPending && !c.strongPending sem scope read fun _ => true

/-! ### Operand values -/

/-- The word lane `i` reads of a v-name, or of an s-name (R100). -/
def Ctx.word (c : Ctx) (n : Name) (s : Bool) (i : Nat) : Word :=
  if s then c.w.sget n else (c.vlanes n)[i]?.getD 0

/-- The double word lane `i` reads of an operand: of an even pair, or of one name zero-extended (R100). -/
def Ctx.dbl (c : Ctx) (n : Name) (s wide : Bool) (i : Nat) : BitVec 64 :=
  if wide then c.word (n + 1) s i ++ c.word n s i else (c.word n s i).setWidth 64

/-- The lanes in which an operand of one name is poisoned (R139). -/
def Ctx.badWord (c : Ctx) (n : Name) (s : Bool) : Mask :=
  if s then (if c.w.sbad n then 0xFFFFFFFF#32 else 0) else c.vbad n

/-- The lanes in which an operand is poisoned. -/
def Ctx.badDbl (c : Ctx) (n : Name) (s wide : Bool) : Mask :=
  if wide then c.badWord n s ||| c.badWord (n + 1) s else c.badWord n s

/-- The v-names of a source operand. -/
def srcNames (n : Name) (s wide : Bool) : List Name := if s then [] else if wide then [n, n + 1] else [n]

/-! ### What an instruction leaves -/

/-- `c1` is `c` with a v-name written (R17, R52, R77): the name maps a fresh row of one reference that holds `x` in the
lanes of `act`, the old row's value in the other launched lanes and zero in lanes that never launched, each lane with
its poison; the old mapping's reference is dropped; every other row, name, register and state is as it was. -/
def Ctx.Wrote (c : Ctx) (n : Name) (act : Mask) (x : Nat → Word) (bad : Mask) (c1 : Ctx) : Prop :=
  ∃ id row, c.b.row? id = none ∧ c1.s = c.s ∧ c1.w = c.w.setVmap n (some id)
    ∧ c1.b = { c.b with rows := c1.b.rows }
    ∧ c1.b.row? id = some row ∧ row.count = 1
    ∧ (∀ k, k ≠ id → c1.b.row? k = (c.b.dropRef (c.w.vmap n)).row? k)
    ∧ (∀ i : Fin 32, row.lanes[i] = if c.w.launched.getLsbD i then
        (if act.getLsbD i then x i else (c.vlanes n)[i]) else 0)
    ∧ row.poison = c.w.launched &&& ((bad &&& act) ||| (c.vbad n &&& ~~~act))

/-- `c1` is `c` with a name or an even pair written. -/
def Ctx.WroteDbl (c : Ctx) (n : Name) (wide : Bool) (act : Mask) (x : Nat → BitVec 64) (bad : Mask) (c1 : Ctx) : Prop :=
  ∃ c0, c.Wrote n act (fun i => (x i).setWidth 32) bad c0
    ∧ if wide then c0.Wrote (n + 1) act (fun i => (x i).extractLsb' 32 32) bad c1 else c1 = c0

/-- `c1` is `c` with an s-name written: every other name and all other state is as it was. -/
def Ctx.SetS (c : Ctx) (n : Name) (x : Word) (bad : Bool) (c1 : Ctx) : Prop :=
  c1 = { c with w := { c.w with s := c1.w.s, sPoison := c1.w.sPoison } }
    ∧ ∀ k, (c1.w.sget k = if k = n then x else c.w.sget k) ∧ (c1.w.sbad k = if k = n then bad else c.w.sbad k)

/-- `c1` is `c` with a p-name written in the lanes of a mask: p0 discards it (R89), every other p-name and all other state
is as it was. -/
def Ctx.SetP (c : Ctx) (n : PName) (lanes x bad : Mask) (c1 : Ctx) : Prop :=
  c1 = { c with w := { c.w with p := c1.w.p, pPoison := c1.w.pPoison } }
    ∧ (c1.w.pget 0 = 0xFFFFFFFF#32)
    ∧ (∀ k, k ≠ n ∨ k = 0 → c1.w.pget k = c.w.pget k ∧ c1.w.pbad k = c.w.pbad k)
    ∧ (n ≠ 0 → c1.w.pget n = (c.w.pget n &&& ~~~lanes) ||| (x &&& lanes)
        ∧ c1.w.pbad n = (c.w.pbad n &&& ~~~lanes) ||| (bad &&& lanes))

/-- In `s` the instruction of the executing warp `c` completes and the warp goes on at `pc`: the next state is the one
`Ctx.retired` makes of a `c1` of which `P` holds. -/
def State.Runs (s : State) (c : Ctx) (i : Instr) (pc : Word) (P : Ctx → Prop) : Prop :=
  ∃ c1, P c1 ∧ exec i s = .next (c.retired c1 i pc)

end Sys2Proof.Machine
end

