-- ==== Sys2Proof/Certificates/Slice0/Obligations.lean ====
section
/-! DEFINITION. The statements for the provers: `Obligations.<Name>`, in the terms of Safety and of the `Spec` definitions that
stand beside them, which say a rule of the spec again without the model's meanings where they can. A part that several
instructions share stands under `Spec`; the statements of several parts are at the end. -/
open Sys2Proof Sys2Proof.Machine

/-! ### Lane integer instructions (R88, R101, R103, R104) -/

/-- BFE at .s32 (R104): no bit for a length of 0; else the source shifted right by the position, cut to the length and
extended by its sign. -/
def Sys2Proof.Spec.bfe (x y : Word) : Word :=
  let pos := (y.extractLsb' 0 8).toNat
  let len := (y.extractLsb' 8 8).toNat
  let f := x.sshiftRight pos
  if len = 0 then 0 else if 32 ≤ len then f else (f <<< (32 - len)).sshiftRight (32 - len)

/-- An instruction of two sources completes: each active lane of a fresh row takes `f` of its words. -/
def Sys2Proof.Spec.Binary (s : State) (c : Ctx) (r : LrA) (i : Instr) (f : Word → Word → Word) : Prop :=
  c.admits i = true → s.Runs c i (c.next 4) (c.Wrote r.d (c.active r.g)
    (fun k => f (c.word r.a false k) (c.word r.b r.bs k)) (c.badWord r.a false ||| c.badWord r.b r.bs))

/-- An instruction of one source completes. -/
def Sys2Proof.Spec.Unary (s : State) (c : Ctx) (d a : Name) (g : Guard) (i : Instr) (f : Word → Word) : Prop :=
  c.admits i = true → s.Runs c i (c.next 4) (c.Wrote d (c.active g) (fun k => f (c.word a false k)) (c.badWord a false))

/-- R103, R104: IADD, ISUB, IMUL, IMULH, IMIN, IMAX, AND, OR, XOR, SHL, SHR, SRA, ROT and BFE without a modifier word, at
.s32: each active lane of a fresh row takes the value of the table, for every pair of operands and the s-name form of b;
no flag, predicate, s-name, memory or other row changes. -/
def Sys2Proof.Spec.IntBinaryWordResults : Prop :=
  ∀ (s : State) (c : Ctx) (r : LrA), s.ctx = some c →
    c.mapped (c.active r.g) (r.a :: srcNames r.b r.bs false) = true →
    Spec.Binary s c r (.iadd r) (fun x y => x + y) ∧ Spec.Binary s c r (.isub r) (fun x y => x - y)
    ∧ Spec.Binary s c r (.imul r) (fun x y => x * y)
    ∧ Spec.Binary s c r (.imulh r) (fun x y => BitVec.ofInt 32 (x.toInt * y.toInt / 2 ^ 32))
    ∧ Spec.Binary s c r (.imin r) (fun x y => if x.sle y then x else y)
    ∧ Spec.Binary s c r (.imax r) (fun x y => if x.sle y then y else x)
    ∧ Spec.Binary s c r (.andLane r) (fun x y => x &&& y) ∧ Spec.Binary s c r (.orLane r) (fun x y => x ||| y)
    ∧ Spec.Binary s c r (.xorLane r) (fun x y => x ^^^ y)
    ∧ Spec.Binary s c r (.shl r) (fun x y => x <<< (y.toNat % 32))
    ∧ Spec.Binary s c r (.shr r) (fun x y => x >>> (y.toNat % 32))
    ∧ Spec.Binary s c r (.sra r) (fun x y => x.sshiftRight (y.toNat % 32))
    ∧ Spec.Binary s c r (.rot r) (fun x y => x.rotateLeft (y.toNat % 32))
    ∧ Spec.Binary s c r (.bfe r) Spec.bfe

/-- R101, R88, R104: the LI forms act as the instruction of the same name at .s32 with the sign-extended literal, or shift
by the amount; IABS, INEG, POPC, CLZ, BREV and MOV of one source name, without a modifier word. -/
def Sys2Proof.Spec.IntUnaryWordResults : Prop :=
  ∀ (s : State) (c : Ctx) (d a : Name) (imm : BitVec 9) (k : BitVec 5) (g : Guard), s.ctx = some c →
    c.mapped (c.active g) [a] = true →
    Spec.Unary s c d a g (.iaddImm d a imm g) (fun x => x + imm.signExtend 32)
    ∧ Spec.Unary s c d a g (.andImm d a imm g) (fun x => x &&& imm.signExtend 32)
    ∧ Spec.Unary s c d a g (.orImm d a imm g) (fun x => x ||| imm.signExtend 32)
    ∧ Spec.Unary s c d a g (.xorImm d a imm g) (fun x => x ^^^ imm.signExtend 32)
    ∧ Spec.Unary s c d a g (.shlImm d a k g) (fun x => x <<< k.toNat)
    ∧ Spec.Unary s c d a g (.shrImm d a k g) (fun x => x >>> k.toNat)
    ∧ Spec.Unary s c d a g (.sraImm d a k g) (fun x => x.sshiftRight k.toNat)
    ∧ Spec.Unary s c d a g (.rotImm d a k g) (fun x => x.rotateLeft k.toNat)
    ∧ Spec.Unary s c d a g (.iabs ⟨d, a, g⟩) (fun x => if x.msb then -x else x)
    ∧ Spec.Unary s c d a g (.ineg ⟨d, a, g⟩) (fun x => -x)
    ∧ Spec.Unary s c d a g (.popc ⟨d, a, g⟩) (fun x => BitVec.ofNat 32 ((List.range 32).filter fun i => x.getLsbD i).length)
    ∧ Spec.Unary s c d a g (.clz ⟨d, a, g⟩) (fun x => BitVec.ofNat 32 (if x = 0 then 32 else 31 - x.toNat.log2))
    ∧ Spec.Unary s c d a g (.brev ⟨d, a, g⟩) (fun x => x.reverse)
    ∧ Spec.Unary s c d a g (.mov ⟨d, a, g⟩) (fun x => x)

/-! ### Typed integer instructions (R100, R103, R104, R263 to R271) -/

/-- An instruction of two sources with a modifier word completes: each active lane of a fresh row or pair takes `f` of its
operands, b as wide as the type where `bw`. -/
def Sys2Proof.Spec.BinaryT (s : State) (c : Ctx) (r : LrM) (bw : Bool) (i : Instr)
    (f : BitVec 64 → BitVec 64 → BitVec 64) : Prop :=
  c.admits i = true →
  c.mapped (c.active r.g) (srcNames r.a false r.m.t.wide ++ srcNames r.b r.bs (bw && r.m.t.wide)) = true →
  s.Runs c i (c.next 8) (c.WroteDbl r.d r.m.t.wide (c.active r.g)
    (fun k => f (c.dbl r.a false r.m.t.wide k) (c.dbl r.b r.bs (bw && r.m.t.wide) k))
    (c.badDbl r.a false r.m.t.wide ||| c.badDbl r.b r.bs (bw && r.m.t.wide)))

/-- An instruction of one source with a modifier word completes; the result is a pair at a wide type where `dw`. -/
def Sys2Proof.Spec.UnaryT (s : State) (c : Ctx) (r : LrUM) (dw : Bool) (i : Instr) (f : BitVec 64 → BitVec 64) : Prop :=
  c.admits i = true → c.mapped (c.active r.g) (srcNames r.a false r.m.t.wide) = true →
  s.Runs c i (c.next 8) (c.WroteDbl r.d (dw && r.m.t.wide) (c.active r.g)
    (fun k => f (c.dbl r.a false r.m.t.wide k)) (c.badDbl r.a false r.m.t.wide))

/-- The bits a type reads of an operand. -/
def Sys2Proof.Spec.bits (t : Ty) (x : BitVec 64) : BitVec t.bits := x.setWidth t.bits

/-- BFE of R104 at a type: `f` the source shifted right exactly, cut to the length, extended by signedness. -/
def Sys2Proof.Spec.bfeT (t : Ty) (x y : BitVec 64) : BitVec 64 :=
  let pos := (y.extractLsb' 0 8).toNat
  let len := (y.extractLsb' 8 8).toNat
  let f : Int := t.toInt x / 2 ^ pos
  if len = 0 then 0 else if t.bits ≤ len then t.ofInt f
  else if t.signed ∧ 2 ^ (len - 1) ≤ f % 2 ^ len then t.ofInt (f % 2 ^ len - 2 ^ len) else t.ofInt (f % 2 ^ len)

/-- BFI of R104 at a type. -/
def Sys2Proof.Spec.bfiT (t : Ty) (x y z : BitVec 64) : BitVec 64 :=
  let pos := (z.extractLsb' 0 8).toNat
  let len := (z.extractLsb' 8 8).toNat
  let m : BitVec 64 := BitVec.ofNat 64 ((2 ^ min len t.bits - 1) * 2 ^ pos % 2 ^ t.bits)
  (x &&& ~~~m) ||| ((y <<< pos) &&& m)

/-- R103, R104: the integer instructions with a modifier word, at every type they list, with .sat where they take it: the
exact value limited or wrapped to the type and extended to the lane or pair (R100). -/
def Sys2Proof.Spec.IntTypedBinaryResults : Prop :=
  ∀ (s : State) (c : Ctx) (r : LrM), s.ctx = some c →
    let t := r.m.t
    Spec.BinaryT s c r true (.iaddModw r) (fun x y => t.result r.m.sat (t.toInt x + t.toInt y))
    ∧ Spec.BinaryT s c r true (.isubModw r) (fun x y => t.result r.m.sat (t.toInt x - t.toInt y))
    ∧ Spec.BinaryT s c r true (.imulModw r) (fun x y => t.result r.m.sat (t.toInt x * t.toInt y))
    ∧ Spec.BinaryT s c r true (.imulhModw r) (fun x y => t.ofInt (t.toInt x * t.toInt y / 2 ^ t.bits))
    ∧ Spec.BinaryT s c r true (.iminModw r) (fun x y => t.ofInt (min (t.toInt x) (t.toInt y)))
    ∧ Spec.BinaryT s c r true (.imaxModw r) (fun x y => t.ofInt (max (t.toInt x) (t.toInt y)))
    ∧ Spec.BinaryT s c r true (.andLaneModw r) (fun x y => x &&& y)
    ∧ Spec.BinaryT s c r true (.orLaneModw r) (fun x y => x ||| y)
    ∧ Spec.BinaryT s c r true (.xorLaneModw r) (fun x y => x ^^^ y)
    ∧ Spec.BinaryT s c r false (.shlModw r) (fun x y => t.ofInt (t.toInt x * 2 ^ (y.toNat % t.bits)))
    ∧ Spec.BinaryT s c r false (.shrModw r) (fun x y => t.ofInt ((Spec.bits t x).toNat / 2 ^ (y.toNat % t.bits) : Nat))
    ∧ Spec.BinaryT s c r false (.sraModw r) (fun x y => t.ofInt ((Spec.bits t x).toInt / 2 ^ (y.toNat % t.bits)))
    ∧ Spec.BinaryT s c r false (.rotModw r) (fun x y => t.ofInt ((Spec.bits t x).rotateLeft (y.toNat % t.bits)).toNat)
    ∧ Spec.BinaryT s c r false (.bfeModw r) (Spec.bfeT t)

/-- R103, R104: IMAD, BFI and SEL, of three sources, and the unary instructions with a modifier word; SEL writes a where its
p-name's bit is set, with that source's poison alone (log 52: the model's choice), while no active lane's bit is poisoned (R102). -/
def Sys2Proof.Spec.IntTypedOtherResults : Prop :=
  ∀ (s : State) (c : Ctx) (r : LrM) (u : LrUM), s.ctx = some c →
    let t := r.m.t
    let w := t.wide
    let x := c.dbl r.a false w
    let y := c.dbl r.b r.bs w
    let ab := srcNames r.a false w ++ srcNames r.b r.bs w
    let bad := c.badDbl r.a false w ||| c.badDbl r.b r.bs w
    let p : PName := r.m.c.setWidth 3
    (c.admits (.imad r) = true → c.mapped (c.active r.g) (ab ++ srcNames r.m.c r.m.cs w) = true →
      s.Runs c (.imad r) (c.next 8) (c.WroteDbl r.d w (c.active r.g)
        (fun k => t.result r.m.sat (t.toInt (x k) * t.toInt (y k) + t.toInt (c.dbl r.m.c r.m.cs w k)))
        (bad ||| c.badDbl r.m.c r.m.cs w)))
    ∧ (c.admits (.bfi r) = true → c.mapped (c.active r.g) (ab ++ srcNames r.m.c r.m.cs false) = true →
      s.Runs c (.bfi r) (c.next 8) (c.WroteDbl r.d w (c.active r.g)
        (fun k => Spec.bfiT t (x k) (y k) (c.dbl r.m.c r.m.cs false k)) (bad ||| c.badDbl r.m.c r.m.cs false)))
    ∧ (c.admits (.sel r) = true → c.mapped (c.active r.g) ab = true → c.w.pbad p &&& c.active r.g = 0 →
      s.Runs c (.sel r) (c.next 8) (c.WroteDbl r.d w (c.active r.g)
        (fun k => if (c.w.pget p).getLsbD k then x k else y k)
        ((c.w.pget p &&& c.badDbl r.a false w) ||| (~~~(c.w.pget p) &&& c.badDbl r.b r.bs w))))
    ∧ Spec.UnaryT s c u true (.iabsModw u) (fun x => u.m.t.result u.m.sat (u.m.t.toInt x).natAbs)
    ∧ Spec.UnaryT s c u true (.inegModw u) (fun x => u.m.t.result u.m.sat (-u.m.t.toInt x))
    ∧ Spec.UnaryT s c u false (.popcModw u)
        (fun x => BitVec.ofNat 64 ((List.range u.m.t.bits).filter fun i => x.getLsbD i).length)
    ∧ Spec.UnaryT s c u false (.clzModw u) (fun x => BitVec.ofNat 64
        (if Spec.bits u.m.t x = 0 then u.m.t.bits else u.m.t.bits - 1 - (Spec.bits u.m.t x).toNat.log2))
    ∧ Spec.UnaryT s c u true (.brevModw u) (fun x => (Spec.bits u.m.t x).reverse.setWidth 64)

/-- R89, R101, R104: ICMP in its three forms writes its condition into the active lanes of the p-name and nothing else; the
bit is poisoned where an operand is (R102). -/
def Obligations.IntCompareResults : Prop :=
  ∀ (s : State) (c : Ctx) (k : ICond) (pd : PName) (r : SrcA) (m : SrcM) (a : Name) (imm : BitVec 9) (g : Guard),
    s.ctx = some c →
    let t := m.m.t
    let lit := imm.signExtend 32
    (c.admits (.icmp k pd r) = true → c.mapped (c.active r.g) (r.a :: srcNames r.b r.bs false) = true →
      s.Runs c (.icmp k pd r) (c.next 4) (c.SetP pd (c.active r.g)
        (maskOf fun i => icondHolds k (c.word r.a false i).toInt (c.word r.b r.bs i).toInt)
        (c.badWord r.a false ||| c.badWord r.b r.bs)))
    ∧ (c.admits (.icmpModw k pd m) = true →
      c.mapped (c.active m.g) (srcNames m.a false t.wide ++ srcNames m.b m.bs t.wide) = true →
      s.Runs c (.icmpModw k pd m) (c.next 8) (c.SetP pd (c.active m.g)
        (maskOf fun i => icondHolds k (t.toInt (c.dbl m.a false t.wide i)) (t.toInt (c.dbl m.b m.bs t.wide i)))
        (c.badDbl m.a false t.wide ||| c.badDbl m.b m.bs t.wide)))
    ∧ (c.admits (.icmpS32Imm k pd a imm g) = true → c.mapped (c.active g) [a] = true →
      s.Runs c (.icmpS32Imm k pd a imm g) (c.next 4) (c.SetP pd (c.active g)
        (maskOf fun i => icondHolds k (c.word a false i).toInt lit.toInt) (c.badWord a false)))
    ∧ (c.admits (.icmpN32Imm k pd a imm g) = true → c.mapped (c.active g) [a] = true →
      s.Runs c (.icmpN32Imm k pd a imm g) (c.next 4) (c.SetP pd (c.active g)
        (maskOf fun i => icondHolds k (c.word a false i).toNat lit.toNat) (c.badWord a false)))

/-- The exact sum of DP4 (R268): c and the four byte products, at the signedness of T. -/
def Sys2Proof.Spec.dp4 (t : Ty) (x y z : Word) : Int :=
  let b (v : Word) (k : Nat) : Int := if t.signed then (v.extractLsb' (8 * k) 8).toInt else (v.extractLsb' (8 * k) 8).toNat
  (if t.signed then z.toInt else z.toNat) + b x 0 * b y 0 + b x 1 * b y 1 + b x 2 * b y 2 + b x 3 * b y 3

/-- The exact sum of ASA (R264): code 0 subtracts the activation, 2 adds it, 1 and 3 leave c. -/
def Sys2Proof.Spec.asa (x y z : Word) : Int :=
  let act := (y.extractLsb' 0 8).toInt
  if x.extractLsb' 0 2 = 0#2 then z.toInt - act else if x.extractLsb' 0 2 = 2#2 then z.toInt + act else z.toInt

/-- The exact sum of an active unpoisoned lane lies outside the range of a 32-bit type. -/
def Sys2Proof.Spec.overflows (t : Ty) (live : Mask) (e : Nat → Int) : Prop :=
  ∃ i, i < 32 ∧ live.getLsbD i = true ∧ (e i < t.lo ∨ t.hi < e i)

/-- A 32-bit accumulation completes: the lanes written, IOV set where a live lane overflows and else as it was (R266). -/
def Sys2Proof.Spec.Accumulates (s : State) (c : Ctx) (r : LrM) (i : Instr) (t : Ty) (f : Word → Word → Word → Int) : Prop :=
  c.admits i = true → c.mapped (c.active r.g) (r.a :: srcNames r.b r.bs false ++ srcNames r.m.c r.m.cs false) = true →
  let e (k : Nat) : Int := f (c.word r.a false k) (c.word r.b r.bs k) (c.word r.m.c r.m.cs k)
  let bad := c.badWord r.a false ||| c.badWord r.b r.bs ||| c.badWord r.m.c r.m.cs
  s.Runs c i (c.next 8) fun c1 => ∃ c0 flg,
    c.Wrote r.d (c.active r.g) (fun k => BitVec.ofInt 32 (if r.m.sat then clampInt t.lo t.hi (e k) else e k)) bad c0
    ∧ c1 = { c0 with w := { c0.w with flg } }
    ∧ (Spec.overflows t (c.active r.g &&& ~~~bad) e → flg = c.w.flg ||| 0x40#32)
    ∧ (¬ Spec.overflows t (c.active r.g &&& ~~~bad) e → flg = c.w.flg)

/-- `c1` is `c` with the names from `d` on written in turn, name `d + j` with `x j`. -/
def Sys2Proof.Spec.WroteGroup (c : Ctx) (d : Name) (act : Mask) (x : Nat → Nat → Word) (bad : Nat → Mask) :
    Nat → Ctx → Prop
  | 0, c1 => c1 = c
  | n + 1, c1 => ∃ c0, Spec.WroteGroup c d act x bad n c0 ∧ c0.Wrote (d + BitVec.ofNat 6 n) act (x n) (bad n) c1

/-- The five codes of a T5 byte (R226, R263): its base-3 digits, or 1 each where the byte is above 242. -/
def Sys2Proof.Spec.t5 (b : Nat) : Nat :=
  if b < 243 then b % 3 + 4 * (b / 3 % 3) + 16 * (b / 9 % 3) + 64 * (b / 27 % 3) + 256 * (b / 81) else 0x155

/-- The width of a packed element (R269). -/
def Sys2Proof.Spec.packW (m : ModWord) : Nat :=
  match m.t with | .s16 | .n16 => 16 | _ => if m.c == 1 then 4 else 8

/-- R263 to R271: DP4 and ASA accumulate and set IOV; UNT5 gives a byte's five codes and sets BADCODE for an illegal byte of
a live lane while the enable is clear, and else traps with BADCODE and writes nothing; PACKI joins a field of each name of its groups; UNPKI writes each element to its
own name. -/
def Obligations.PackedIntegerResults : Prop :=
  ∀ (s : State) (c : Ctx) (r : LrM) (u : LrA), s.ctx = some c →
    (Spec.Accumulates s c r (.dp4 r) (if r.m.t.signed then .s32 else .n32) (Spec.dp4 r.m.t))
    ∧ (Spec.Accumulates s c r (.asa r) .s32 Spec.asa)
    ∧ (c.admits (.unt5 u) = true → c.mapped (c.active u.g) (u.a :: srcNames u.b u.bs false) = true →
      let byte (k : Nat) : Nat := ((c.word u.a false k) >>> (8 * ((c.word u.b u.bs k).toNat % 4))).toNat % 256
      let bad := c.badWord u.a false ||| c.badWord u.b u.bs
      let illegal : Prop := ∃ k, k < 32 ∧ (c.active u.g &&& ~~~bad).getLsbD k = true ∧ 243 ≤ byte k
      (illegal → c.w.flg.getLsbD 13 = false) →
      s.Runs c (.unt5 u) (c.next 4) fun c1 => ∃ c0 flg,
        c.Wrote u.d (c.active u.g) (fun k => BitVec.ofNat 32 (Spec.t5 (byte k))) bad c0
        ∧ c1 = { c0 with w := { c0.w with flg } }
        ∧ (illegal → flg = c.w.flg ||| 0x20#32) ∧ (¬ illegal → flg = c.w.flg))
    ∧ (c.admits (.unt5 u) = true → c.mapped (c.active u.g) (u.a :: srcNames u.b u.bs false) = true →
      let byte (k : Nat) : Nat := ((c.word u.a false k) >>> (8 * ((c.word u.b u.bs k).toNat % 4))).toNat % 256
      let off : Mask := c.active u.g &&& ~~~(c.badWord u.a false ||| c.badWord u.b u.bs) &&& maskOf fun k => decide (243 ≤ byte k)
      c.w.flg.getLsbD 13 = true → ∀ j, off.getLsbD j = true → (∀ k, k < j → off.getLsbD k = false) →
      exec (.unt5 u) s = .next
        (c.takeTrap { cause := .badcode, info := BitVec.ofNat 32 (byte j), lanes := some off } off false))
    ∧ (let w := Spec.packW r.m
      let g := 16 / w
      let name (j : Nat) : Name := if j < g then r.a + BitVec.ofNat 6 j else r.b + BitVec.ofNat 6 (j - g)
      let isS (j : Nat) : Bool := decide (g ≤ j) && r.bs
      let fieldOf (x : Word) : Nat :=
        let v : Int := if r.m.t.signed then x.toInt else x.toNat
        let lo : Int := if r.m.t.signed then -2 ^ (w - 1) else 0
        let hi : Int := if r.m.t.signed then 2 ^ (w - 1) - 1 else 2 ^ w - 1
        ((if r.m.sat then min (max v lo) hi else v) % 2 ^ w).toNat
      c.admits (.packi r) = true →
      c.mapped (c.active r.g) (((List.range (2 * g)).filter fun j => !isS j).map name) = true →
      s.Runs c (.packi r) (c.next 8) (c.Wrote r.d (c.active r.g)
        (fun k => BitVec.ofNat 32 ((List.range (2 * g)).foldr (fun j n => fieldOf (c.word (name j) (isS j) k) + 2 ^ w * n) 0))
        ((List.range (2 * g)).foldl (fun m j => m ||| c.badWord (name j) (isS j)) 0)))
    ∧ (let w := Spec.packW r.m
      let elem (j k : Nat) : Word :=
        let v := (c.word r.a false k).toNat / 2 ^ (w * j) % 2 ^ w
        if r.m.t.signed ∧ 2 ^ (w - 1) ≤ v then BitVec.ofInt 32 ((v : Int) - 2 ^ w) else BitVec.ofNat 32 v
      c.admits (.unpki r) = true → c.mapped (c.active r.g) [r.a] = true →
      s.Runs c (.unpki r) (c.next 8)
        (Spec.WroteGroup c r.d (c.active r.g) elem (fun _ => c.badWord r.a false) (32 / w)))

/-! ### Floating-point instructions (R105 to R121, R126) -/

/-- Element `j` of each source in lane `k`, after its modifiers and the flush of R108 (R14, R100). -/
def Sys2Proof.Spec.ins (c : Ctx) (t : Ty) (srcs : List FSrc) (k j : Nat) : List Nat :=
  srcs.map fun x => x.elem c.w t ((elems t (c.dbl x.o.n x.o.s x.o.wide k)).getD j 0)

/-- The lanes in which some source is poisoned. -/
def Sys2Proof.Spec.badIns (c : Ctx) (srcs : List FSrc) : Mask :=
  srcs.foldl (fun m x => m ||| c.badDbl x.o.n x.o.s x.o.wide) 0

/-- The lanes of a mask in which an element's exceptions meet the enables, and the union of all of them (R106, R107). -/
def Sys2Proof.Spec.union (live : Mask) (exc : Nat → Exc) : Exc :=
  (lanesOf live).foldl (fun e k => e ||| exc k) 0

/-- No exception of a live lane is enabled (R107). -/
def Sys2Proof.Spec.quiet (c : Ctx) (live : Mask) (exc : Nat → Exc) : Bool :=
  (List.range 32).all fun k => !live.getLsbD k || (exc k &&& c.w.enables) == 0

/-- The instruction raises FP_ENABLED (R107) and writes nothing: sr.tinfo has the union of the exceptions, enabled or not, and the
trap's lanes are those with an enabled one. -/
def Sys2Proof.Spec.FpTraps (s : State) (c : Ctx) (i : Instr) (live : Mask) (exc : Nat → Exc) : Prop :=
  let hit : Mask := maskOf fun k => live.getLsbD k && (exc k &&& c.w.enables) != 0
  exec i s = .next (c.takeTrap { cause := .fpEnabled, info := (Spec.union live exc).setWidth 32, lanes := some hit } hit (i.len == 8))

/-- The exceptions of a lane: of its one element, or of both at a packed type. -/
def Sys2Proof.Spec.laneExc (t : Ty) (res : Nat → FRes) : Exc :=
  if t.packed then (res 0).exc ||| (res 1).exc else (res 0).exc

/-- `c1` is `c0` with the exceptions ORed into sr.flg (R106). -/
def Sys2Proof.Spec.Flagged (c0 : Ctx) (e : Exc) (c1 : Ctx) : Prop :=
  c1 = { c0 with w := { c0.w with flg := c0.w.flg ||| e.setWidth 32 } }

/-- A floating-point instruction completes (R111): with no enabled exception, each element of each active lane takes `f` of the
sources' elements, and the exceptions of the unpoisoned lanes are ORed into sr.flg; with one it raises FP_ENABLED (R107). -/
def Sys2Proof.Spec.FloatRuns (s : State) (c : Ctx) (i : Instr) (g : Guard) (len : Nat) (d : Name) (t : Ty)
    (srcs : List FSrc) (f : List Nat → FRes) : Prop :=
  let res (k j : Nat) : FRes := f (Spec.ins c t srcs k j)
  let live := c.active g &&& ~~~(Spec.badIns c srcs)
  let exc (k : Nat) : Exc := Spec.laneExc t (res k)
  c.admits i = true → c.mapped (c.active g) (srcs.flatMap fun x => srcNames x.o.n x.o.s x.o.wide) = true →
  (Spec.quiet c live exc = true →
    s.Runs c i (c.next len) fun c1 => ∃ c0,
      c.WroteDbl d t.wide (c.active g)
        (fun k => joinElems t (if t.packed then [(res k 0).bits, (res k 1).bits] else [(res k 0).bits])) (Spec.badIns c srcs) c0
      ∧ Spec.Flagged c0 (Spec.union live exc) c1)
  ∧ (Spec.quiet c live exc = false → Spec.FpTraps s c i live exc)

/-- No element of a live lane diverges from its shadow (R126, R127). -/
def Sys2Proof.Spec.agree (live : Mask) (n : Nat) (bits : Nat → Nat → Nat) (sh : Nat → Nat → Shadow) : Prop :=
  ∀ k j, live.getLsbD k = true → j < n → (sh k j).differs (bits k j) = false

/-- What the shadow unit has of an operation (R127): the operation on the cut operands, its top bits, and the exponents of its
addends. -/
def Sys2Proof.Spec.shadowOf (f : Fmt) (rm : Rm) (op : List Nat → FRes) (addends : List Nat → List (Option Int)) (l : List Nat) :
    Shadow :=
  { fmt := f, h := f.top7 rm (op (l.map f.cut8)).bits, addends := (addends l).filterMap id }

/-- No addends. -/
def Sys2Proof.Spec.noAdds (_ : List Nat) : List (Option Int) := []
/-- The first two operands are addends. -/
def Sys2Proof.Spec.twoAdds (f : Fmt) (l : List Nat) : List (Option Int) :=
  [(f.unpack (l.getD 0 0)).expo?, (f.unpack (l.getD 1 0)).expo?]
/-- The exact product and the third operand are addends (R127). -/
def Sys2Proof.Spec.fmaAdds (f : Fmt) (l : List Nat) : List (Option Int) :=
  [match f.unpack (l.getD 0 0), f.unpack (l.getD 1 0) with
    | .fin _ m1 e1, .fin _ m2 e2 => (FVal.fin false (m1 * m2) (e1 + e2)).expo?
    | _, _ => none, (f.unpack (l.getD 2 0)).expo?]

/-- A shadow-checked instruction with no soft error waiting (R126): it completes where every active, unpoisoned element agrees
with its shadow, and else raises SHADOW and writes nothing. What the shadow is compared by is the model's choice of log 9. -/
def Sys2Proof.Spec.CheckedRuns (s : State) (c : Ctx) (i : Instr) (g : Guard) (len : Nat) (d : Name) (t : Ty)
    (srcs : List FSrc) (f : List Nat → FRes) (sh : List Nat → Shadow) : Prop :=
  let live := c.active g &&& ~~~(Spec.badIns c srcs)
  let ok : Prop := Spec.agree live (if t.packed then 2 else 1) (fun k j => (f (Spec.ins c t srcs k j)).bits)
    fun k j => sh (Spec.ins c t srcs k j)
  s.upset = none →
  (ok → Spec.FloatRuns s c i g len d t srcs f)
  ∧ (¬ ok → c.admits i = true → c.mapped (c.active g) (srcs.flatMap fun x => srcNames x.o.n x.o.s x.o.wide) = true →
      exec i s = .next (c.takeMCheck .shadow))

/-- The sources of a short form: b negated by mod[1] (R24). -/
def Sys2Proof.Spec.shortSrcs (r : LrF) : List FSrc :=
  [{ o := ⟨r.a, false, false⟩ }, { o := ⟨r.b, r.bs, false⟩, neg := r.nb }]

/-- The sources of a form with a modifier word (R25). -/
def Sys2Proof.Spec.modSrcs (r : LrM) : List FSrc :=
  [{ o := ⟨r.a, false, r.m.t.wide⟩, neg := r.m.na, abs := r.m.aa }, { o := ⟨r.b, r.bs, r.m.t.wide⟩, neg := r.m.nb, abs := r.m.ab }]

/-- The third source (R25). -/
def Sys2Proof.Spec.modC (r : LrM) : FSrc := { o := ⟨r.m.c, r.m.cs, r.m.t.wide⟩, neg := r.m.nc, abs := r.m.ac }

/-- The source of a unary form with a modifier word. -/
def Sys2Proof.Spec.modU (r : LrUM) : List FSrc := [{ o := ⟨r.a, false, r.m.t.wide⟩, neg := r.m.na, abs := r.m.aa }]

/-- Whether results of a type are flushed (R108). -/
def Sys2Proof.Spec.ftz (c : Ctx) (t : Ty) : Bool := c.w.ftz && decide (t ≠ .f64)

/-- R111, R112, R114, R126: FADD, FSUB, FMUL, FDIV, FFMA, FMIN and FMAX, with and without a modifier word. What the operations on
elements give is stated by RoundingIsExactOnce. -/
def Sys2Proof.Spec.FloatArithmeticResults : Prop :=
  ∀ (s : State) (c : Ctx) (q : LrF) (r : LrM), s.ctx = some c →
    let x (l : List Nat) := l.getD 0 0
    let y (l : List Nat) := l.getD 1 0
    let z0 := Spec.ftz c .f32
    let zt := Spec.ftz c r.m.t
    let f := fmtOf r.m.t
    let short (i : Instr) (op : List Nat → FRes) (adds : List Nat → List (Option Int)) : Prop :=
      Spec.CheckedRuns s c i q.g 4 q.d .f32 (Spec.shortSrcs q) op (Spec.shadowOf .f32 .rn op adds)
    let long (i : Instr) (op : List Nat → FRes) (adds : List Nat → List (Option Int)) : Prop :=
      Spec.CheckedRuns s c i r.g 8 r.d r.m.t (Spec.modSrcs r) op (Spec.shadowOf f r.m.rm op adds)
    short (.fadd q) (fun l => Fmt.f32.add .rn z0 false (x l) (y l)) (Spec.twoAdds .f32)
    ∧ short (.fsub q) (fun l => Fmt.f32.add .rn z0 true (x l) (y l)) (Spec.twoAdds .f32)
    ∧ short (.fmul q) (fun l => Fmt.f32.mul .rn z0 (x l) (y l)) Spec.noAdds
    ∧ short (.fdiv q) (fun l => Fmt.f32.div .rn z0 (x l) (y l)) Spec.noAdds
    ∧ Spec.FloatRuns s c (.fmin q) q.g 4 q.d .f32 (Spec.shortSrcs q) (fun l => Fmt.f32.minmax false (x l) (y l))
    ∧ Spec.FloatRuns s c (.fmax q) q.g 4 q.d .f32 (Spec.shortSrcs q) (fun l => Fmt.f32.minmax true (x l) (y l))
    ∧ long (.faddModw r) (fun l => f.add r.m.rm zt false (x l) (y l)) (Spec.twoAdds f)
    ∧ long (.fsubModw r) (fun l => f.add r.m.rm zt true (x l) (y l)) (Spec.twoAdds f)
    ∧ long (.fmulModw r) (fun l => f.mul r.m.rm zt (x l) (y l)) Spec.noAdds
    ∧ long (.fdivModw r) (fun l => f.div r.m.rm zt (x l) (y l)) Spec.noAdds
    ∧ Spec.FloatRuns s c (.fminModw r) r.g 8 r.d r.m.t (Spec.modSrcs r) (fun l => f.minmax false (x l) (y l))
    ∧ Spec.FloatRuns s c (.fmaxModw r) r.g 8 r.d r.m.t (Spec.modSrcs r) (fun l => f.minmax true (x l) (y l))
    ∧ (let op (l : List Nat) : FRes := f.fma r.m.rm zt (x l) (y l) (l.getD 2 0)
      Spec.CheckedRuns s c (.ffma r) r.g 8 r.d r.m.t (Spec.modSrcs r ++ [Spec.modC r]) op
        (Spec.shadowOf f r.m.rm op (Spec.fmaAdds f)))

/-- A special function completes in both its forms (R117). Which of the results within the bounds of R117 it gives is the model's
choice (log 8: `Sfu.result` takes it from Config.special, of which nothing is known), and so is the shadow of FEXP2, FLOG2, FSIN and
FCOS (log 9). -/
def Sys2Proof.Spec.SpecialRuns (s : State) (c : Ctx) (q : LrU) (r : LrUM) (i j : Instr) (u : Sfu) (cut : Bool) : Prop :=
  let op (l : List Nat) : FRes := u.result c.w.ftz (l.getD 0 0)
  let sh (l : List Nat) : Shadow :=
    let x := l.getD 0 0
    { fmt := .f32, h := Fmt.f32.top7 .rn (if cut then u.nearest c.w.ftz (Fmt.f32.cut8 x) else u.result c.w.ftz x).bits }
  Spec.CheckedRuns s c i q.g 4 q.d .f32 [{ o := ⟨q.a, false, false⟩ }] op sh
  ∧ (r.m.t = .f32 → Spec.CheckedRuns s c j r.g 8 r.d .f32 (Spec.modU r) op sh)

/-- R111, R112, R116, R117: FRND, FSQRT, FCLASS and the six special functions, with and without a modifier word; FCLASS
writes its mask to one name, flushes nothing and sets no flag. The special functions' results are the model's choice (log 8). -/
def Sys2Proof.Spec.FloatUnaryResults : Prop :=
  ∀ (s : State) (c : Ctx) (q : LrU) (r : LrUM), s.ctx = some c →
    let f := fmtOf r.m.t
    let src : List FSrc := [{ o := ⟨q.a, false, false⟩ }]
    Spec.FloatRuns s c (.frnd q) q.g 4 q.d .f32 src (fun l => Fmt.f32.rint .rn (l.getD 0 0))
    ∧ Spec.FloatRuns s c (.frndModw r) r.g 8 r.d r.m.t (Spec.modU r) (fun l => f.rint r.m.rm (l.getD 0 0))
    ∧ (let op (l : List Nat) : FRes := Fmt.f32.sqrt .rn (Spec.ftz c .f32) (l.getD 0 0)
      Spec.CheckedRuns s c (.fsqrt q) q.g 4 q.d .f32 src op (Spec.shadowOf .f32 .rn op Spec.noAdds))
    ∧ (let op (l : List Nat) : FRes := f.sqrt r.m.rm (Spec.ftz c r.m.t) (l.getD 0 0)
      Spec.CheckedRuns s c (.fsqrtModw r) r.g 8 r.d r.m.t (Spec.modU r) op (Spec.shadowOf f r.m.rm op Spec.noAdds))
    ∧ (c.admits (.fclass q) = true → c.mapped (c.active q.g) [q.a] = true →
      s.Runs c (.fclass q) (c.next 4) (c.Wrote q.d (c.active q.g)
        (fun k => BitVec.ofNat 32 (Fmt.f32.classOf (c.word q.a false k).toNat)) (c.badWord q.a false)))
    ∧ (c.admits (.fclassModw r) = true → c.mapped (c.active r.g) (srcNames r.a false r.m.t.wide) = true →
      let one (k j : Nat) : Nat := f.classOf (f.modify r.m.na r.m.aa ((elems r.m.t (c.dbl r.a false r.m.t.wide k)).getD j 0))
      s.Runs c (.fclassModw r) (c.next 8) (c.Wrote r.d (c.active r.g)
        (fun k => BitVec.ofNat 32 (one k 0 + if r.m.t.packed then 65536 * one k 1 else 0)) (c.badDbl r.a false r.m.t.wide)))
    ∧ Spec.SpecialRuns s c q r (.frcp q) (.frcpModw r) .rcp true ∧ Spec.SpecialRuns s c q r (.frsq q) (.frsqModw r) .rsq true
    ∧ Spec.SpecialRuns s c q r (.fexp2 q) (.fexp2Modw r) .exp2 false
    ∧ Spec.SpecialRuns s c q r (.flog2 q) (.flog2Modw r) .log2 false
    ∧ Spec.SpecialRuns s c q r (.fsin q) (.fsinModw r) .sin false ∧ Spec.SpecialRuns s c q r (.fcos q) (.fcosModw r) .cos false

/-- A floating compare completes (R115): the p-name's active lanes take whether the condition holds for every element, and
its exceptions are ORed into sr.flg, or it raises FP_ENABLED (R107). -/
def Sys2Proof.Spec.CompareRuns (s : State) (c : Ctx) (i : Instr) (g : Guard) (len : Nat) (pd : PName) (t : Ty) (k : FCond)
    (srcs : List FSrc) : Prop :=
  let one (l j : Nat) : Bool × Exc :=
    (fmtOf t).cmp k ((Spec.ins c t srcs l j).getD 0 0) ((Spec.ins c t srcs l j).getD 1 0)
  let live := c.active g &&& ~~~(Spec.badIns c srcs)
  let exc (l : Nat) : Exc := if t.packed then (one l 0).2 ||| (one l 1).2 else (one l 0).2
  c.admits i = true → c.mapped (c.active g) (srcs.flatMap fun x => srcNames x.o.n x.o.s x.o.wide) = true →
  (Spec.quiet c live exc = true →
    s.Runs c i (c.next len) fun c1 => ∃ c0,
      c.SetP pd (c.active g) (maskOf fun l => (one l 0).1 && (!t.packed || (one l 1).1)) (Spec.badIns c srcs) c0
      ∧ Spec.Flagged c0 (Spec.union live exc) c1)
  ∧ (Spec.quiet c live exc = false → Spec.FpTraps s c i live exc)

/-- R115: FCMP with and without a modifier word. -/
def Obligations.FloatCompareResults : Prop :=
  ∀ (s : State) (c : Ctx) (k : FCond) (pd : PName) (q : SrcF) (r : SrcM), s.ctx = some c →
    Spec.CompareRuns s c (.fcmp k pd q) q.g 4 pd .f32 k
      [{ o := ⟨q.a, false, false⟩ }, { o := ⟨q.b, q.bs, false⟩, neg := q.nb }]
    ∧ Spec.CompareRuns s c (.fcmpModw k pd r) r.g 8 pd r.m.t k
      [{ o := ⟨r.a, false, r.m.t.wide⟩, neg := r.m.na, abs := r.m.aa },
       { o := ⟨r.b, r.bs, r.m.t.wide⟩, neg := r.m.nb, abs := r.m.ab }]

/-! ### Conversions (R118 to R121) -/

/-- The element conversion of CVT (R119): from a double word read as the source type, element `j`. -/
def Sys2Proof.Spec.cvt (c : Ctx) (m : ModWord) (t2 : Ty) (neg abs : Bool) (x : BitVec 64) (j : Nat) : FRes :=
  let t := m.t
  if t.isInt then (fmtOf t2).ofIntVal m.rm c.w.ftz (t.toInt x)
  else (fmtOf t).convert (fmtOf t2) m.rm m.sat c.w.ftz
    ((fmtOf t).flushIn c.w.ftz ((fmtOf t).modify neg abs ((elems t x).getD j 0)))

/-- The shadow of a conversion to a floating type (R126, R127): the conversion of the source cut to 8 significant bits. -/
def Sys2Proof.Spec.cvtShadow (c : Ctx) (m : ModWord) (t2 : Ty) (neg abs : Bool) (x : BitVec 64) (j : Nat) : Shadow :=
  let t := m.t
  let f := fmtOf t
  let r : FRes :=
    if t.isInt then
      let v := t.toInt x
      let k := bitLen v.natAbs - 8
      (fmtOf t2).ofIntVal m.rm c.w.ftz ((if v < 0 then -1 else 1) * (((v.natAbs >>> k) <<< k : Nat) : Int))
    else f.convert (fmtOf t2) m.rm m.sat c.w.ftz (f.cut8 (f.flushIn c.w.ftz (f.modify neg abs ((elems t x).getD j 0))))
  { fmt := fmtOf t2, h := (fmtOf t2).top7 m.rm r.bits }

/-- No clean element of an active lane diverges from its shadow (R102, R126). -/
def Sys2Proof.Spec.agreeClean (act : Mask) (n : Nat) (dirty : Nat → Nat → Bool) (bits : Nat → Nat → Nat) (sh : Nat → Nat → Shadow) :
    Prop :=
  ∀ k j, act.getLsbD k = true → j < n → dirty k j = false → (sh k j).differs (bits k j) = false

/-- R102, R107, R118, R119, R126: CVT between every pair of types: an integer result is the wrapped or clamped value, or the value
rounded to an integer; each floating result element is the source element rounded once, and shadow-checked; exceptions as FP
instructions raise them. An element from a poisoned source raises nothing and is not checked. What the shadow is compared by is the
model's choice of log 9. -/
def Sys2Proof.Spec.ConvertResults : Prop :=
  ∀ (s : State) (c : Ctx) (r : LrM) (t2 : Ty), s.ctx = some c → c.admits (.cvt r t2) = true → s.upset = none →
    let m := r.m
    let t := m.t
    let mix := t2.packed && !t.packed
    let sel := if r.b = 1 then 1 else 0
    let xa (k : Nat) := c.dbl r.a false t.wide k
    let xb (k : Nat) := c.dbl r.b r.bs t.wide k
    let act := c.active r.g
    let badA := c.badDbl r.a false t.wide
    let badB := if mix then c.badDbl r.b r.bs t.wide else badA
    let dirty (k j : Nat) : Bool := if j = 0 then badA.getLsbD k else badB.getLsbD k
    let toInt (k : Nat) : Int × Exc := toIntTy t2 m.rm ((fmtOf t).unpack
      ((fmtOf t).flushIn c.w.ftz ((fmtOf t).modify m.na m.aa ((elems t (xa k)).getD (if t.packed then sel else 0) 0))))
    let first (k : Nat) : FRes := Spec.cvt c m t2 m.na m.aa (xa k) (if t.packed && !t2.packed then sel else 0)
    let second (k : Nat) : FRes := if mix then Spec.cvt c m t2 m.nb m.ab (xb k) 0 else Spec.cvt c m t2 m.na m.aa (xa k) 1
    let clean (k j : Nat) (e : Exc) : Exc := if dirty k j then 0 else e
    let exc (k : Nat) : Exc :=
      if t2.isInt then (if t.isInt then 0 else clean k 0 (toInt k).2)
      else clean k 0 (first k).exc ||| if t2.packed then clean k 1 (second k).exc else 0
    let value (k : Nat) : BitVec 64 :=
      if t2.isInt then (if t.isInt then t2.result m.sat (t.toInt (xa k)) else t2.ofInt (toInt k).1)
      else joinElems t2 (if t2.packed then [(first k).bits, (second k).bits] else [(first k).bits])
    let s1 (k : Nat) : Shadow := Spec.cvtShadow c m t2 m.na m.aa (xa k) (if t.packed && !t2.packed then sel else 0)
    let s2 (k : Nat) : Shadow :=
      if mix then Spec.cvtShadow c m t2 m.nb m.ab (xb k) 0 else Spec.cvtShadow c m t2 m.na m.aa (xa k) 1
    let ok : Prop := t2.isInt = true ∨ Spec.agreeClean act (if t2.packed then 2 else 1) dirty
      (fun k j => if j = 0 then (first k).bits else (second k).bits) fun k j => if j = 0 then s1 k else s2 k
    c.mapped (c.active r.g) (srcNames r.a false t.wide ++ if mix then srcNames r.b r.bs t.wide else []) = true →
    (ok → Spec.quiet c act exc = true → s.Runs c (.cvt r t2) (c.next 8) fun c1 => ∃ c0,
      c.WroteDbl r.d t2.wide act value (badA ||| badB) c0 ∧ Spec.Flagged c0 (Spec.union act exc) c1)
    ∧ (ok → Spec.quiet c act exc = false → Spec.FpTraps s c (.cvt r t2) act exc)
    ∧ (¬ ok → exec (.cvt r t2) s = .next (c.takeMCheck .shadow))

/-- R102, R107, R120, R121, R126: PKF8 packs the four values of its sources into a lane's bytes, by the F8 rounding, its sources as FP32
shadow-checked, a value of a poisoned source aside, which raises nothing; UPF8 gives each byte's value to its own name at .f32, or to an element of two names, and raises nothing. That PKF8
takes the negate and absolute-value bits of its modifier word is the model's choice (log 15), and so is what the shadow is compared
by (log 9). -/
def Sys2Proof.Spec.PackF8Results : Prop :=
  ∀ (s : State) (c : Ctx) (r : LrM) (k : F8), s.ctx = some c →
    let t := r.m.t
    let f := fmtOf t
    let pr : Bool := decide (t = .f32)
    let srcs : List FSrc := [{ o := ⟨r.a, false, pr⟩, neg := r.m.na, abs := r.m.aa },
      { o := ⟨r.b, r.bs, pr⟩, neg := r.m.nb, abs := r.m.ab }]
    let val (x : BitVec 64) (j : Nat) : Nat := (if pr then x >>> (32 * j) else x >>> (16 * j)).toNat % (if pr then 2 ^ 32 else 2 ^ 16)
    let q (l j : Nat) : FRes :=
      let x := srcs.getD (j / 2) { o := ⟨0, false, false⟩ }
      f8Pack k f r.m.rm r.m.sat (x.elem c.w t (val (c.dbl x.o.n x.o.s pr l) (j % 2)))
    let v (l j : Nat) : Nat :=
      let x := srcs.getD (j / 2) { o := ⟨0, false, false⟩ }
      x.elem c.w t (val (c.dbl x.o.n x.o.s pr l) (j % 2))
    let as32 (x : Nat) : Nat := (f.convert .f32 .rn false false x).bits
    let act := c.active r.g
    let dirty (l j : Nat) : Bool :=
      let x := srcs.getD (j / 2) { o := ⟨0, false, false⟩ }
      (c.badWord (if pr && j % 2 == 1 then x.o.n + 1 else x.o.n) x.o.s).getLsbD l
    let exc (l : Nat) : Exc := (List.range 4).foldl (fun e j => if dirty l j then e else e ||| (q l j).exc) 0
    (c.admits (.pkf8 r k) = true → c.mapped (c.active r.g) (srcs.flatMap fun x => srcNames x.o.n x.o.s x.o.wide) = true →
      s.upset = none →
      let ok : Prop := Spec.agreeClean act 4 dirty (fun l j => as32 (v l j)) fun l j =>
        { fmt := .f32, h := Fmt.f32.top7 .rn (as32 (f.cut8 (v l j))) }
      (ok → Spec.quiet c act exc = true → s.Runs c (.pkf8 r k) (c.next 8) fun c1 => ∃ c0,
        c.Wrote r.d (c.active r.g)
          (fun l => BitVec.ofNat 32 ((q l 0).bits + 256 * (q l 1).bits + 65536 * (q l 2).bits + 16777216 * (q l 3).bits))
          (Spec.badIns c srcs) c0
        ∧ Spec.Flagged c0 (Spec.union act exc) c1)
      ∧ (ok → Spec.quiet c act exc = false → Spec.FpTraps s c (.pkf8 r k) act exc)
      ∧ (¬ ok → exec (.pkf8 r k) s = .next (c.takeMCheck .shadow)))
    ∧ (c.admits (.upf8 r k) = true → c.mapped (c.active r.g) [r.a] = true →
      let wide (l j : Nat) : Nat := f8Widen k f ((c.word r.a false l).toNat / 256 ^ j % 256)
      s.Runs c (.upf8 r k) (c.next 8) (Spec.WroteGroup c r.d (c.active r.g)
        (fun j l => BitVec.ofNat 32 (if pr then wide l j else wide l (2 * j) + 65536 * wide l (2 * j + 1)))
        (fun _ => c.badWord r.a false) (if pr then 4 else 2)))

/-! ### Moves, predicates and cross-lane instructions (R88 to R95) -/

/-- A trap that reports an address over the retire mask. -/
def Sys2Proof.Spec.trapAt (cause : Cause) (info : Word) (addr : DWord) : TrapInfo :=
  { cause := cause, info := info, addr := some addr }

/-- The instruction traps: the next state is that of the trap taken over the instruction's retire mask. -/
def Sys2Proof.Spec.Traps (s : State) (c : Ctx) (i : Instr) (t : TrapInfo) : Prop :=
  exec i s = .next (c.takeTrap t (c.retireMask i) (i.len == 8))

/-- The instruction raises a machine check. -/
def Sys2Proof.Spec.Checks (s : State) (c : Ctx) (i : Instr) (m : MCheck) : Prop := exec i s = .next (c.takeMCheck m)

/-- The word lane `j` of a source row gives another lane: zero where it never launched (R92). -/
def Sys2Proof.Spec.other (c : Ctx) (a : Name) (j : Nat) : Word :=
  if c.w.launched.getLsbD j then c.word a false j else 0

/-- Whether that word is poisoned. -/
def Sys2Proof.Spec.otherBad (c : Ctx) (a : Name) (j : Nat) : Bool :=
  c.w.launched.getLsbD j && (c.vbad a).getLsbD j

/-- The lane SHFL reads in lane `i` (R93). -/
def Sys2Proof.Spec.shfl (m : ShflMode) (i b : Nat) : Nat :=
  match m with
  | .idx => b % 32
  | .up => if b ≤ i then i - b else i
  | .dn => if i + b ≤ 31 then i + b else i
  | .xor => i ^^^ (b % 32)

/-- Every lane of a mask, or none. -/
def Sys2Proof.Spec.full (b : Bool) : Mask := if b then 0xFFFFFFFF#32 else 0

/-- R88, R93 to R95: MOVI, SPLAT and LANEID write a fresh row; SHFL reads another lane as it stands, whether that lane is
active or not; BALLOT writes the predicate's active lanes; BCAST gives one lane's word to a v-name, or to an s-name that
keeps its value when no lane is active. -/
def Sys2Proof.Spec.MoveAndShuffleResults : Prop :=
  ∀ (s : State) (c : Ctx) (d b : Name) (g : Guard) (imm : BitVec 9) (word : Word) (r : LrA) (u : LrU) (m : ShflMode),
    s.ctx = some c →
    (c.admits (.movi d imm g) = true →
      s.Runs c (.movi d imm g) (c.next 4) (c.Wrote d (c.active g) (fun _ => imm.signExtend 32) 0))
    ∧ (c.admits (.moviLong d g word) = true →
      s.Runs c (.moviLong d g word) (c.next 8) (c.Wrote d (c.active g) (fun _ => word) 0))
    ∧ (c.admits (.splat d b g) = true →
      s.Runs c (.splat d b g) (c.next 4) (c.Wrote d (c.active g) (fun _ => c.w.sget b) (Spec.full (c.w.sbad b))))
    ∧ (c.admits (.laneid d g) = true →
      s.Runs c (.laneid d g) (c.next 4) (c.Wrote d (c.active g) (fun i => BitVec.ofNat 32 i) 0))
    ∧ (c.admits (.shfl m r) = true → c.mapped (c.active r.g) (r.a :: srcNames r.b r.bs false) = true →
      let from_ (i : Nat) : Nat := Spec.shfl m i (c.word r.b r.bs i).toNat
      s.Runs c (.shfl m r) (c.next 4) (c.Wrote r.d (c.active r.g)
        (fun i => if from_ i = i then c.word r.a false i else Spec.other c r.a (from_ i))
        (maskOf fun i => (c.badWord r.b r.bs).getLsbD i
          || if from_ i = i then (c.vbad r.a).getLsbD i else Spec.otherBad c r.a (from_ i))))
    ∧ (c.admits (.ballot u) = true →
      let p : PName := u.a.setWidth 3
      s.Runs c (.ballot u) (c.next 4) (c.Wrote u.d (c.active u.g) (fun _ => c.w.pget p &&& c.active u.g)
        (Spec.full (c.w.pbad p &&& c.active u.g != 0))))
    ∧ (let j : Nat := (if r.bs then (c.w.sget r.b).toNat else r.b.toNat) % 32
      let bad : Bool := Spec.otherBad c r.a j || (r.bs && c.w.sbad r.b)
      c.mapped (c.active r.g) [r.a] = true →
      (c.admits (.bcast false r) = true → s.Runs c (.bcast false r) (c.next 4)
        (c.Wrote r.d (c.active r.g) (fun _ => Spec.other c r.a j) (Spec.full bad)))
      ∧ (c.admits (.bcast true r) = true → c.active r.g ≠ 0 → s.Runs c (.bcast true r) (c.next 4)
        (c.SetS r.d (Spec.other c r.a j) bad))
      ∧ (c.admits (.bcast true r) = true → c.active r.g = 0 → s.Runs c (.bcast true r) (c.next 4) (fun c1 => c1 = c)))

/-- R63, R89, R90, R94: VOTE and PLOP write only the active lanes of their p-name; SPLIT pushes the mask and its other
half, FLIP takes the other half, JOIN restores the saved lanes that have not exited; SPLIT at depth 16 raises STACK_OVERFLOW, FLIP
and JOIN at depth 0 ILLEGAL_CONVERGENCE, and SPLIT by a predicate poisoned in an active lane POISON_CONSUMED (R102). -/
def Sys2Proof.Spec.PredicateAndDivergenceResults : Prop :=
  ∀ (s : State) (c : Ctx) (m : VoteMode) (u : LrU) (pd pa pb pc : PName) (lut : Byte) (g : Guard) (a : Name),
    s.ctx = some c →
    (c.admits (.vote m u) = true →
      let p : PName := u.a.setWidth 3
      let act := c.active u.g
      let all : Prop := c.w.pget p &&& act = act
      let none_ : Prop := c.w.pget p &&& act = 0
      let holds : Prop := match m with | .all => all | .any => ¬ none_ | .eq => all ∨ none_
      s.Runs c (.vote m u) (c.next 4) fun c1 =>
        (holds → c.SetP (u.d.setWidth 3) act 0xFFFFFFFF#32 (Spec.full (c.w.pbad p &&& act != 0)) c1)
        ∧ (¬ holds → c.SetP (u.d.setWidth 3) act 0 (Spec.full (c.w.pbad p &&& act != 0)) c1))
    ∧ (c.admits (.plop pd pa pb pc lut g) = true →
      s.Runs c (.plop pd pa pb pc lut g) (c.next 4) (c.SetP pd (c.active g)
        (maskOf fun i => lut.getLsbD (4 * ((c.w.pget pa).getLsbD i).toNat + 2 * ((c.w.pget pb).getLsbD i).toNat
          + ((c.w.pget pc).getLsbD i).toNat))
        (c.w.pbad pa ||| c.w.pbad pb ||| c.w.pbad pc)))
    ∧ (let p : PName := a.setWidth 3
      c.admits (.split a) = true → c.w.stack.length ≠ 16 → c.w.pbad p &&& c.w.m &&& c.w.liveMask = 0 →
      s.Runs c (.split a) (c.next 4) (fun c1 => c1 = { c with w := { c.w with
        m := c.w.m &&& ~~~c.w.exited &&& c.w.pget p
        stack := (c.w.m, c.w.m &&& ~~~c.w.exited &&& ~~~(c.w.pget p)) :: c.w.stack } }))
    ∧ (∀ saved alt t, c.admits .flip = true → c.w.stack = (saved, alt) :: t →
      s.Runs c .flip (c.next 4) (fun c1 => c1 = { c with w := { c.w with m := alt, stack := (saved, c.w.m) :: t } }))
    ∧ (∀ saved alt t, c.admits .join = true → c.w.stack = (saved, alt) :: t →
      s.Runs c .join (c.next 4) (fun c1 => c1 = { c with w := { c.w with m := saved &&& ~~~c.w.exited, stack := t } }))
    ∧ (c.admits (.split a) = true → c.w.stack.length = 16 → Spec.Traps s c (.split a) { cause := .stackOverflow, info := 16 })
    ∧ (c.admits (.split a) = true → c.w.stack.length ≠ 16 → c.w.pbad (a.setWidth 3) &&& c.w.m &&& c.w.liveMask ≠ 0 →
      Spec.Checks s c (.split a) .poisonConsumed)
    ∧ (∀ i : Instr, i = .flip ∨ i = .join → c.admits i = true → c.w.stack = [] →
      Spec.Traps s c i { cause := .illegalConvergence, info := i.firstWord })

/-- The v-names that a lane or cross-lane instruction reads, in the order in which they are checked (R49, R79). -/
def Sys2Proof.Spec.reads (i : Instr) : List Name :=
  let two (r : LrM) (bw : Bool) : List Name := srcNames r.a false r.m.t.wide ++ srcNames r.b r.bs (bw && r.m.t.wide)
  let group (n : Name) (s : Bool) (k : Nat) : List Name := if s then [] else (List.range k).map fun j => n + BitVec.ofNat 6 j
  match i with
  | .iadd r | .isub r | .imul r | .imulh r | .imin r | .imax r | .andLane r | .orLane r | .xorLane r | .shl r | .shr r | .sra r
  | .rot r | .bfe r | .unt5 r | .shfl _ r => r.a :: srcNames r.b r.bs false
  | .iaddModw r | .isubModw r | .imulModw r | .imulhModw r | .iminModw r | .imaxModw r | .andLaneModw r | .orLaneModw r
  | .xorLaneModw r | .faddModw r | .fsubModw r | .fmulModw r | .fdivModw r | .fminModw r | .fmaxModw r | .sel r => two r true
  | .shlModw r | .shrModw r | .sraModw r | .rotModw r | .bfeModw r => two r false
  | .imad r | .ffma r => two r true ++ srcNames r.m.c r.m.cs r.m.t.wide
  | .bfi r => two r true ++ srcNames r.m.c r.m.cs false
  | .dp4 r | .asa r => r.a :: srcNames r.b r.bs false ++ srcNames r.m.c r.m.cs false
  | .packi r => group r.a false (16 / Spec.packW r.m) ++ group r.b r.bs (16 / Spec.packW r.m)
  | .iabs u | .ineg u | .popc u | .clz u | .brev u | .mov u | .fclass u | .frnd u | .fsqrt u | .frcp u | .frsq u | .fexp2 u
  | .flog2 u | .fsin u | .fcos u => [u.a]
  | .iabsModw u | .inegModw u | .popcModw u | .clzModw u | .brevModw u | .fclassModw u | .frndModw u | .fsqrtModw u | .frcpModw u
  | .frsqModw u | .fexp2Modw u | .flog2Modw u | .fsinModw u | .fcosModw u => srcNames u.a false u.m.t.wide
  | .iaddImm _ a _ _ | .andImm _ a _ _ | .orImm _ a _ _ | .xorImm _ a _ _ | .shlImm _ a _ _ | .shrImm _ a _ _ | .sraImm _ a _ _
  | .rotImm _ a _ _ | .icmpS32Imm _ _ a _ _ | .icmpN32Imm _ _ a _ _ => [a]
  | .icmp _ _ r => r.a :: srcNames r.b r.bs false
  | .fcmp _ _ r => r.a :: srcNames r.b r.bs false
  | .icmpModw _ _ r | .fcmpModw _ _ r => srcNames r.a false r.m.t.wide ++ srcNames r.b r.bs r.m.t.wide
  | .fadd r | .fsub r | .fmul r | .fdiv r | .fmin r | .fmax r => r.a :: srcNames r.b r.bs false
  | .cvt r t2 => srcNames r.a false r.m.t.wide ++ if t2.packed && !r.m.t.packed then srcNames r.b r.bs r.m.t.wide else []
  | .pkf8 r _ => srcNames r.a false (r.m.t == .f32) ++ srcNames r.b r.bs (r.m.t == .f32)
  | .upf8 r _ | .unpki r => [r.a]
  | .bcast _ r => [r.a]
  | _ => []

/-- R49, R79, R85, R86: an instruction of the lane and cross-lane families that reads a name which maps no row in an active lane
raises UNMAPPED_NAME with the first such name in sr.tinfo, and writes nothing; so do ALIAS, GIVE and GIVEX of such a name, whatever
the mask and before any parking. -/
def Sys2Proof.Spec.UnmappedNameTraps : Prop :=
  ∀ (s : State) (c : Ctx) (i : Instr) (m : Name), s.ctx = some c → c.admits i = true →
    (c.active i.guard ≠ 0 → (Spec.reads i).find? (fun k => (c.w.vmap k).isNone) = some m →
      exec i s = .next (c.takeTrap { cause := .unmappedName, info := m.setWidth 32 } (c.active i.guard) (i.len == 8)))
    ∧ (∀ n, (i = .aliasName n m ∨ (i = .give m n ∨ i = .givex m n) ∧ c.w.sbad n = false) → c.w.vmap m = none →
      Spec.Traps s c i { cause := .unmappedName, info := m.setWidth 32 })

/-! ### Map edits and handoff (R83 to R86) -/

/-- The count of a row, 0 where it is not in use. -/
def Sys2Proof.Spec.count (b : Block) (id : Nat) : Nat := ((b.row? id).map (·.count)).getD 0

/-- `c1` is `c` with a name's mapping replaced: one reference more to the new row, one fewer to the old one, which is freed
at none; no row's lanes and nothing else changes (R83, R85). -/
def Sys2Proof.Spec.Remapped (c : Ctx) (d : Name) (row : Option Nat) (more : Bool) (c1 : Ctx) : Prop :=
  c1.s = c.s ∧ c1.w = c.w.setVmap d row ∧ c1.b = { c.b with rows := c1.b.rows }
    ∧ ∀ id, (∀ r, c.b.row? id = some r →
      let n := r.count + (if more ∧ row = some id then 1 else 0)
      c1.b.row? id = if c.w.vmap d = some id then (if n ≤ 1 then none else some { r with count := n - 1 })
        else some { r with count := n })
    ∧ (c.b.row? id = none → c1.b.row? id = none)

/-- R85: ALIAS, DROP, SWAPN and MAPQ, whatever the mask. -/
def Sys2Proof.Spec.MapEditResults : Prop :=
  ∀ (s : State) (c : Ctx) (d a : Name), s.ctx = some c →
    (∀ id, c.admits (.aliasName d a) = true → c.w.vmap a = some id →
      (d ≠ a → s.Runs c (.aliasName d a) (c.next 4) (Spec.Remapped c d (some id) true))
      ∧ (d = a → s.Runs c (.aliasName d a) (c.next 4) (fun c1 => c1 = c)))
    ∧ (c.admits (.drop d) = true → s.Runs c (.drop d) (c.next 4) (Spec.Remapped c d none false))
    ∧ (c.admits (.swapn d a) = true → s.Runs c (.swapn d a) (c.next 4) (fun c1 =>
      c1 = { c with w := { c.w with v := c1.w.v } } ∧ c1.w.vmap d = c.w.vmap a ∧ c1.w.vmap a = c.w.vmap d
        ∧ ∀ n, n ≠ d → n ≠ a → c1.w.vmap n = c.w.vmap n))
    ∧ (c.admits (.mapq d a) = true → s.Runs c (.mapq d a) (c.next 4) (c.SetS d
      (match c.w.vmap a with
        | none => 0
        | some id => 0x80000000#32 ||| BitVec.ofNat 32 (Spec.count c.b id)) false))

/-- A handoff instruction that can proceed: the state it leaves before any warp parked on the slot goes on. -/
def Sys2Proof.Spec.handed (c : Ctx) (i : Instr) (k : Nat) (op : HandOp) : State :=
  c.retired { c with b := (op.act c.b c.w k).1, w := (op.act c.b c.w k).2 } i (c.next 4)

/-- R86: GIVE moves its mapping into an empty slot, GIVEX shares it, TAKE empties a full slot into its name; then the warps
parked on the slot go on, the lowest-numbered first. A slot that stands the other way parks the warp, unretired. -/
def Sys2Proof.Spec.HandoffResults : Prop :=
  ∀ (s : State) (c : Ctx) (a b : Name) (op : HandOp) (i : Instr), s.ctx = some c →
    (op = .give a ∧ i = .give a b ∨ op = .givex a ∧ i = .givex a b ∨ op = .take a ∧ i = .take a b) →
    c.admits i = true → c.w.sbad b = false → ((op = .give a ∨ op = .givex a) → (c.w.vmap a).isSome = true) →
    let k := (c.w.sget b).toNat % 16
    let full := (c.b.slot k).isSome
    (full = decide (op = .take a) → ∃ t, exec i s = .next t ∧
      (∀ b0, (Spec.handed c i k op).block? c.b.key = some b0 → t = (Spec.handed c i k op).setBlock (b0.slotEvents k 16))
      ∧ (op = .give a → (op.act c.b c.w k).2 = c.w.setVmap a none ∧ (op.act c.b c.w k).1.slot k = c.w.vmap a
        ∧ (op.act c.b c.w k).1.rows = c.b.rows)
      ∧ (op = .givex a → (op.act c.b c.w k).2 = c.w ∧ (op.act c.b c.w k).1.slot k = c.w.vmap a)
      ∧ (op = .take a → (op.act c.b c.w k).2 = c.w.setVmap a (c.b.slot k) ∧ (op.act c.b c.w k).1.slot k = none))
    ∧ (full ≠ decide (op = .take a) →
      exec i s = .next (c.setW { c.w with st := .handoff k op }).commit)

/-! ### The uniform ALU (R122 to R124) -/

/-- The instruction gives an s-name a value and touches nothing else. -/
def Sys2Proof.Spec.Uniform (s : State) (c : Ctx) (i : Instr) (len : Nat) (d : Name) (x : Word) (bad : Bool) : Prop :=
  c.admits i = true → s.Runs c i (c.next len) (c.SetS d x bad)

/-- The conditions of R28. -/
def Sys2Proof.Spec.ucond (k : UCond) (x y : Word) : Bool :=
  match k with
  | .eq => decide (x = y)
  | .ne => decide (x ≠ y)
  | .ltS => decide (x.toInt < y.toInt)
  | .leS => decide (x.toInt ≤ y.toInt)
  | .gtS => decide (y.toInt < x.toInt)
  | .geS => decide (y.toInt ≤ x.toInt)
  | .ltN => decide (x.toNat < y.toNat)
  | .leN => decide (x.toNat ≤ y.toNat)
  | .gtN => decide (y.toNat < x.toNat)
  | .geN => decide (y.toNat ≤ x.toNat)

/-- What SCMP gives. -/
def Sys2Proof.Spec.ucmp (k : UCond) (x y : Word) : Word := if Spec.ucond k x y then 1 else 0

/-- R122, R123: the uniform instructions of three s-names, whatever the mask; a poisoned source poisons the result. -/
def Sys2Proof.Spec.UniformBinaryResults : Prop :=
  ∀ (s : State) (c : Ctx) (d a b : Name) (k : UCond), s.ctx = some c →
    let x := c.w.sget a
    let y := c.w.sget b
    let bad := c.w.sbad a || c.w.sbad b
    Spec.Uniform s c (.sadd d a b) 4 d (x + y) bad
    ∧ Spec.Uniform s c (.ssub d a b) 4 d (x - y) bad
    ∧ Spec.Uniform s c (.smul d a b) 4 d (x * y) bad
    ∧ Spec.Uniform s c (.smulhS32 d a b) 4 d (BitVec.ofInt 32 (x.toInt * y.toInt / 2 ^ 32)) bad
    ∧ Spec.Uniform s c (.smulhN32 d a b) 4 d (BitVec.ofNat 32 (x.toNat * y.toNat / 2 ^ 32)) bad
    ∧ Spec.Uniform s c (.sand d a b) 4 d (x &&& y) bad
    ∧ Spec.Uniform s c (.sor d a b) 4 d (x ||| y) bad
    ∧ Spec.Uniform s c (.sxor d a b) 4 d (x ^^^ y) bad
    ∧ Spec.Uniform s c (.sshl d a b) 4 d (BitVec.ofNat 32 (x.toNat * 2 ^ (y.toNat % 32))) bad
    ∧ Spec.Uniform s c (.sshr d a b) 4 d (BitVec.ofNat 32 (x.toNat / 2 ^ (y.toNat % 32))) bad
    ∧ Spec.Uniform s c (.ssra d a b) 4 d (BitVec.ofInt 32 (x.toInt / 2 ^ (y.toNat % 32))) bad
    ∧ Spec.Uniform s c (.sminS32 d a b) 4 d (BitVec.ofInt 32 (min x.toInt y.toInt)) bad
    ∧ Spec.Uniform s c (.sminN32 d a b) 4 d (BitVec.ofNat 32 (min x.toNat y.toNat)) bad
    ∧ Spec.Uniform s c (.smaxS32 d a b) 4 d (BitVec.ofInt 32 (max x.toInt y.toInt)) bad
    ∧ Spec.Uniform s c (.smaxN32 d a b) 4 d (BitVec.ofNat 32 (max x.toNat y.toNat)) bad
    ∧ Spec.Uniform s c (.scmp k d a b) 4 d (Spec.ucmp k x y) bad

/-- R88, R124: the uniform instructions with a literal, SMOVI with its sign-extended literal or its extension word, and
SSEL, which takes a name, with its poison alone (log 52: the model's choice), by whether any bit of a predicate is set. -/
def Sys2Proof.Spec.UniformLiteralResults : Prop :=
  ∀ (s : State) (c : Ctx) (d a b : Name) (k : UCond) (l13 : BitVec 13) (l11 : BitVec 11) (l9 : BitVec 9) (n : BitVec 5)
    (word : Word) (p : PName), s.ctx = some c →
    let x := c.w.sget a
    let bad := c.w.sbad a
    let y : Word := l13.signExtend 32
    let z : Word := l11.signExtend 32
    Spec.Uniform s c (.saddImm d a l13) 4 d (x + y) bad
    ∧ Spec.Uniform s c (.smulImm d a l13) 4 d (x * y) bad
    ∧ Spec.Uniform s c (.sandImm d a l13) 4 d (x &&& y) bad
    ∧ Spec.Uniform s c (.sorImm d a l13) 4 d (x ||| y) bad
    ∧ Spec.Uniform s c (.sxorImm d a l13) 4 d (x ^^^ y) bad
    ∧ Spec.Uniform s c (.sshlImm d a n) 4 d (BitVec.ofNat 32 (x.toNat * 2 ^ n.toNat)) bad
    ∧ Spec.Uniform s c (.sshrImm d a n) 4 d (BitVec.ofNat 32 (x.toNat / 2 ^ n.toNat)) bad
    ∧ Spec.Uniform s c (.ssraImm d a n) 4 d (BitVec.ofInt 32 (x.toInt / 2 ^ n.toNat)) bad
    ∧ Spec.Uniform s c (.sminS32Imm d a l11) 4 d (BitVec.ofInt 32 (min x.toInt z.toInt)) bad
    ∧ Spec.Uniform s c (.sminN32Imm d a l11) 4 d (BitVec.ofNat 32 (min x.toNat z.toNat)) bad
    ∧ Spec.Uniform s c (.smaxS32Imm d a l11) 4 d (BitVec.ofInt 32 (max x.toInt z.toInt)) bad
    ∧ Spec.Uniform s c (.smaxN32Imm d a l11) 4 d (BitVec.ofNat 32 (max x.toNat z.toNat)) bad
    ∧ Spec.Uniform s c (.scmpImm k d a l9) 4 d (Spec.ucmp k x (l9.signExtend 32)) bad
    ∧ Spec.Uniform s c (.smovi d l13) 4 d y false
    ∧ Spec.Uniform s c (.smoviLong d word) 8 d word false
    ∧ (c.w.pbad p = 0 → let from_ := if c.w.pget p = 0 then b else a
        Spec.Uniform s c (.ssel p d a b) 4 d (c.w.sget from_) (c.w.sbad from_))

/-! ### Control flow (R96 to R99) and EXIT (R64) -/

/-- A branch goes to the instruction's address plus four times its offset. -/
def Sys2Proof.Spec.target (c : Ctx) (off : Int) : Word := BitVec.ofInt 32 (c.w.pc.toNat + 4 * off)

/-- The BRC conditions of R29: on an s-name, or on a p-name over the active lanes. -/
def Sys2Proof.Spec.branches (c : Ctx) (k : BrCond) (n : Name) : Prop :=
  let x := c.w.sget n
  let p := c.w.pget (n.setWidth 3)
  let act := c.w.m &&& c.w.liveMask
  match k with
  | .nz => x ≠ 0
  | .z => x = 0
  | .neg => x.toInt < 0
  | .nneg => 0 ≤ x.toInt
  | .all => p &&& act = act
  | .any => p &&& act ≠ 0
  | .noneOf => p &&& act = 0

/-- The operand of a BRC condition holds no poison that it would consume (R99). -/
def Sys2Proof.Spec.branchClean (c : Ctx) (k : BrCond) (n : Name) : Bool :=
  match k with
  | .all | .any | .noneOf => c.w.pbad (n.setWidth 3) &&& (c.w.m &&& c.w.liveMask) == 0
  | _ => !c.w.sbad n

/-- R97 to R99: where control goes after BRA, BRC, LOOPN, CALL, JMPI, RET and NOP, what LOOPN and CALL write, and the trap
of an unaligned JMPI or RET target; a poisoned count of LOOPN is consumed (R99). -/
def Sys2Proof.Spec.ControlResults : Prop :=
  ∀ (s : State) (c : Ctx) (n : Name) (k : BrCond) (o21 : BitVec 21) (o15 : BitVec 15), s.ctx = some c →
    (c.admits (.bra o21) = true → s.Runs c (.bra o21) (Spec.target c o21.toInt) (fun c1 => c1 = c))
    ∧ (c.admits (.brc k n o15) = true → Spec.branchClean c k n = true →
      (Spec.branches c k n → s.Runs c (.brc k n o15) (Spec.target c o15.toInt) (fun c1 => c1 = c))
      ∧ (¬ Spec.branches c k n → s.Runs c (.brc k n o15) (c.next 4) (fun c1 => c1 = c)))
    ∧ (c.admits (.loopn n o15) = true → c.w.sbad n = false →
      (c.w.sget n ≠ 1 → s.Runs c (.loopn n o15) (Spec.target c o15.toInt) (c.SetS n (c.w.sget n - 1) false))
      ∧ (c.w.sget n = 1 → s.Runs c (.loopn n o15) (c.next 4) (c.SetS n 0 false)))
    ∧ (c.admits (.loopn n o15) = true → c.w.sbad n = true → Spec.Checks s c (.loopn n o15) .poisonConsumed)
    ∧ (c.admits (.call o21) = true →
      s.Runs c (.call o21) (Spec.target c o21.toInt) (c.SetS 63 (c.w.pc + 4) false))
    ∧ (c.admits .nop = true → s.Runs c .nop (c.next 4) (fun c1 => c1 = c))
    ∧ (∀ i m, (i = .jmpi n ∧ m = n) ∨ (i = .ret ∧ m = (63 : Name)) → c.admits i = true → c.w.sbad m = false →
      ((c.w.sget m).toNat % 4 = 0 → s.Runs c i (c.w.sget m) (fun c1 => c1 = c))
      ∧ ((c.w.sget m).toNat % 4 ≠ 0 → Spec.Traps s c i (Spec.trapAt .misaligned 0 ((c.w.sget m).setWidth 64))))

/-- The trap that delivers an operation's fault (R130, R131): TAG_FAULT with the tag and the kind, else COPY_FAULT with the bytes
moved, the kind and the class. -/
def Sys2Proof.Spec.deliveredBy (o : EngOp) (f : OpFault) : TrapInfo :=
  if o.cls = .pkt then { cause := .tagFault, addr := some f.addr, info := BitVec.ofNat 32 (o.tag.toNat + 256 * f.kind) }
  else { cause := .copyFault, addr := some f.addr,
         info := BitVec.ofNat 32 (f.bytes % 2 ^ 24 + 2 ^ 24 * f.kind + 2 ^ 28 * o.cls.code.toNat) }

/-- R64, R139, R200: EXIT takes the active lanes out of the mask, of every saved mask, and into the exited lanes; a warp whose last
lanes leave waits for its outstanding operations, then takes the trap of the oldest fault it holds, which counts as complete; with
nothing outstanding or held it ends, or, where it still holds poison, raises POISON_CONSUMED. -/
def Sys2Proof.Spec.ExitResults : Prop :=
  ∀ (s : State) (c : Ctx), s.ctx = some c → c.admits .exit = true →
    let e := c.w.m &&& c.w.liveMask
    (e = 0 → s.Runs c .exit (c.next 4) (fun c1 => c1 = c))
    ∧ (e ≠ 0 → c.w.launched &&& ~~~(c.w.exited ||| e) ≠ 0 → s.Runs c .exit (c.next 4) (fun c1 => c1 = { c with w :=
        { c.w with exited := c.w.exited ||| e, m := c.w.m &&& ~~~e
                   stack := c.w.stack.map fun x => (x.1 &&& ~~~e, x.2 &&& ~~~e) } }))
    ∧ (e ≠ 0 → c.w.launched &&& ~~~(c.w.exited ||| e) = 0 →
      ((∃ o, o ∈ c.w.ops ∧ o.st = .pending) → exec .exit s = .next (c.setW { c.w with st := .drain }).commit)
      ∧ (∀ l r o f, c.w.ops = l ++ o :: r → o.st = .faulted f → (∀ x, x ∈ c.w.ops → x.st ≠ .pending) →
        (∀ x, x ∈ l → ∀ g, x.st ≠ .faulted g) →
        ∃ c1 : Ctx, c1 = { c with w := { c.w with ops := c1.w.ops } }
          ∧ (∀ x, x ∈ c1.w.ops → x.seq = o.seq → x.st = .done ∨ ∃ y g, y ∈ c.w.ops ∧ y.st = .withheld g ∧ y.seq = x.seq)
          ∧ exec .exit s = .next (c1.takeTrap (Spec.deliveredBy o f) (c.retireMask .exit) false))
      ∧ ((∀ o, o ∈ c.w.ops → o.st = .done) → c.holdsPoison = false → exec .exit s = .next (s.endWarp c.b c.w))
      ∧ ((∀ o, o ∈ c.w.ops → o.st = .done) → c.holdsPoison = true → Spec.Checks s c .exit .poisonConsumed))

/-- R99: a BRC whose s-name, or whose predicate in an active lane, is poisoned, and a JMPI or RET whose target register is,
raise POISON_CONSUMED and neither take nor pass the branch. -/
def Obligations.PoisonedBranchesAreChecked : Prop :=
  ∀ (s : State) (c : Ctx) (n : Name) (k : BrCond) (o15 : BitVec 15), s.ctx = some c →
    (c.admits (.brc k n o15) = true → Spec.branchClean c k n = false → Spec.Checks s c (.brc k n o15) .poisonConsumed)
    ∧ (c.admits (.jmpi n) = true → c.w.sbad n = true → Spec.Checks s c (.jmpi n) .poisonConsumed)
    ∧ (c.admits .ret = true → c.w.sbad 63 = true → Spec.Checks s c .ret .poisonConsumed)

/-! ### Scratchpad accesses (R125, R155 to R162, R178 to R182) -/

/-- The scratchpad address of an active lane (R155, R179). -/
def Sys2Proof.Spec.addr (c : Ctx) (r : LmA) (i : Nat) : Word := c.w.sget r.s + c.word r.v false i

/-- The place a lane's access of `n` bytes names. -/
def Sys2Proof.Spec.place (c : Ctx) (r : LmA) (n i : Nat) : ScrLoc :=
  (c.resolve (Spec.addr c r i) n).getD ⟨c.b.key, 0⟩

/-- Every active lane's address is unpoisoned, aligned and inside an allocation that stands (R156). -/
def Sys2Proof.Spec.reaches (c : Ctx) (r : LmA) (n : Nat) : Bool :=
  decide (c.active r.g = 0) || (!c.w.sbad r.s && (c.vbad r.v &&& c.active r.g == 0) &&
    (lanesOf (c.active r.g)).all fun i => (Spec.addr c r i).toNat % n == 0 &&
      match c.resolve (Spec.addr c r i) n with
      | some l => l.blk == c.b.key || (c.s.block? l.blk).isSome
      | none => false)

/-- The bytes of an access. -/
def Sys2Proof.Spec.bytes (z : Size) : Nat := match z with | .b8 => 1 | .b16 => 2 | .b32 => 4 | .b64 => 8 | .b128 => 16

/-- Every active lane's lines are present (R162). -/
def Sys2Proof.Spec.present (c : Ctx) (r : LmA) (n : Nat) : Bool :=
  (lanesOf (c.active r.g)).all fun i => c.present (Spec.place c r n i) n

/-- No packet holds an access of `.rmt` at a wide scope back (R209). -/
def Sys2Proof.Spec.promoted (s : State) (rmt : Bool) (sc : Scope) : Bool :=
  !rmt || sc == .core || s.reqs.all fun q => !q.unperformed

/-- `c1` is `c` with bytes stored at a place: every other byte of every allocation, every name and every other part of the
state is as it was; a poisoned store poisons granules there, another store makes none poisoned (R139). -/
def Sys2Proof.Spec.Put (c : Ctx) (l : ScrLoc) (bs : List Byte) (bad : Bool) (c1 : Ctx) : Prop :=
  c1.w = c.w ∧ c1.b = { c.b with scr := c1.b.scr } ∧ c1.s = { c.s with blocks := c1.s.blocks }
    ∧ (∀ k, ∃ sc, c1.s.block? k = (c.s.block? k).map fun (b : Block) => { b with scr := sc })
    ∧ ((∀ k, (c.scr k).bytes.wf = true) → (∀ k, (c1.scr k).bytes.wf = true) ∧ ∀ k o,
      (c1.scr k).bytes.read o = if k = l.blk ∧ l.off ≤ o ∧ o < l.off + bs.length then bs.getD (o - l.off) 0
        else (c.scr k).bytes.read o)
    ∧ (bad = true → bs ≠ [] → (c1.scr l.blk).poisoned l.off bs.length = true)
    ∧ (bad = false → ∀ k g, g ∈ (c1.scr k).poison → g ∈ (c.scr k).poison)

/-- Stores one after another. -/
def Sys2Proof.Spec.Puts (c : Ctx) : List (ScrLoc × List Byte × Bool) → Ctx → Prop
  | [], c1 => c1 = c
  | (l, bs, bad) :: t, c1 => ∃ c0, Spec.Put c l bs bad c0 ∧ Spec.Puts c0 t c1

/-- What a load leaves: each name of the data group a fresh row of the bytes its active lanes name, little-endian, zero
extended, poisoned where a granule was. -/
def Sys2Proof.Spec.Loaded (c : Ctx) (r : LmA) (z : Size) : Ctx → Prop :=
  let n := Spec.bytes z
  Spec.WroteGroup c r.d (c.active r.g)
    (fun j i => BitVec.ofNat 32 (leNat (c.get (Spec.place c r n i) n) / 2 ^ (32 * j)))
    (fun _ => maskOf fun i => (c.active r.g).getLsbD i && c.getBad (Spec.place c r n i) n) ((n + 3) / 4)

/-- R179: LD in both its forms. -/
def Sys2Proof.Spec.LoadResults : Prop :=
  ∀ (s : State) (c : Ctx) (r : LmA) (z : Size) (w : LdWord), s.ctx = some c → c.mapped (c.active r.g) [r.v] = true →
    (c.admits (.ld r z) = true → Spec.reaches c r (Spec.bytes z) = true → Spec.present c r (Spec.bytes z) = true →
      c.free .rlx .device true = true → s.Runs c (.ld r z) (c.next 4) (Spec.Loaded c r z))
    ∧ (c.admits (.ldLong r w) = true → Spec.reaches c r (Spec.bytes w.size) = true →
      Spec.present c r (Spec.bytes w.size) = true → c.free w.sem w.scope true = true → Spec.promoted s w.rmt w.scope = true →
      (∀ n cores, c.w.st ≠ .promote n cores) → s.Runs c (.ldLong r w) (c.next 8) (Spec.Loaded c r w.size))

/-- The active lanes of a mask for which a property holds. -/
def Sys2Proof.Spec.lanesWith (c : Ctx) (r : LmA) (p : Nat → Bool) : Mask :=
  maskOf fun i => (c.active r.g).getLsbD i && p i

/-- The instruction traps over some lanes, with the address of the lowest of them. -/
def Sys2Proof.Spec.TrapsLanes (s : State) (c : Ctx) (i : Instr) (r : LmA) (cause : Cause) (lanes : Mask) : Prop :=
  ∀ j, lanes.getLsbD j = true → (∀ k, k < j → lanes.getLsbD k = false) →
    exec i s = .next (c.takeTrap { cause := cause, info := 0, lanes := some lanes, addr := some ((Spec.addr c r j).setWidth 64) }
      lanes (i.len == 8))

/-- A lane access of `n` bytes that reads the v-names `ns` stops at the first check that fails (R79, R102, R139, R155, R156): the
first of its names that maps no row, a poisoned address in an active lane, the lanes whose address is not aligned, the lanes
whose address names no place. -/
def Sys2Proof.Spec.AccessChecks (s : State) (c : Ctx) (i : Instr) (r : LmA) (n : Nat) (ns : List Name) : Prop :=
  let act := c.active r.g
  let wild := Spec.lanesWith c r fun k => (Spec.addr c r k).toNat % n != 0
  let out := Spec.lanesWith c r fun k => (c.resolve (Spec.addr c r k) n).isNone
  c.admits i = true → act ≠ 0 →
    (∀ m, ns.find? (fun k => (c.w.vmap k).isNone) = some m → Spec.Traps s c i { cause := .unmappedName, info := m.setWidth 32 })
    ∧ (c.mapped act ns = true →
      ((c.w.sbad r.s = true ∨ c.vbad r.v &&& act ≠ 0) → Spec.Checks s c i .poisonConsumed)
      ∧ (c.w.sbad r.s = false → c.vbad r.v &&& act = 0 →
        (wild ≠ 0 → Spec.TrapsLanes s c i r .misaligned wild)
        ∧ (wild = 0 → out ≠ 0 → Spec.TrapsLanes s c i r .scratchBounds out)))

/-- Byte `j` of a lane's data group. -/
def Sys2Proof.Spec.datum (c : Ctx) (d : Name) (i j : Nat) : Byte :=
  (c.word (d + BitVec.ofNat 6 (j / 4)) false i).extractLsb' (8 * (j % 4)) 8

/-- The names of a data group. -/
def Sys2Proof.Spec.group (d : Name) (z : Size) : List Name :=
  (List.range ((Spec.bytes z + 3) / 4)).map fun j => d + BitVec.ofNat 6 j

/-- What a store leaves: its active lanes' bytes, in ascending lane order. -/
def Sys2Proof.Spec.Stored (c : Ctx) (r : LmA) (z : Size) : Ctx → Prop :=
  Spec.Puts c ((lanesOf (c.active r.g)).map fun i => (Spec.place c r (Spec.bytes z) i,
    (List.range (Spec.bytes z)).map (Spec.datum c r.d i), (Spec.group r.d z).any fun n => (c.vbad n).getLsbD i))

/-- R179: ST in both its forms. -/
def Sys2Proof.Spec.StoreResults : Prop :=
  ∀ (s : State) (c : Ctx) (r : LmA) (z : Size) (w : StWord), s.ctx = some c →
    (c.mapped (c.active r.g) (Spec.group r.d z ++ [r.v]) = true → c.admits (.st r z) = true →
      Spec.reaches c r (Spec.bytes z) = true → c.free .rlx .device = true →
      s.Runs c (.st r z) (c.next 4) (Spec.Stored c r z))
    ∧ (c.mapped (c.active r.g) (Spec.group r.d w.size ++ [r.v]) = true → c.admits (.stLong r w) = true →
      Spec.reaches c r (Spec.bytes w.size) = true → c.free w.sem w.scope = true →
      s.Runs c (.stLong r w) (c.next 8) (Spec.Stored c r w.size))

/-- The new value of an atomic (R180). -/
def Sys2Proof.Spec.atom (n : Nat) (op : AtomOp) (old x y : BitVec n) : BitVec n :=
  match op with
  | .add => old + x
  | .minS => if old.toInt ≤ x.toInt then old else x
  | .minN => if old.toNat ≤ x.toNat then old else x
  | .maxS => if x.toInt ≤ old.toInt then old else x
  | .maxN => if x.toNat ≤ old.toNat then old else x
  | .and => old &&& x
  | .or => old ||| x
  | .xor => old ^^^ x
  | .exch => x
  | .cas => if old = x then y else old
  | .fadd => BitVec.ofNat n ((if n = 64 then Fmt.f64 else Fmt.f32).add .rn false false old.toNat x.toNat).bits

/-- Lanes of an atomic performed one after another: each gives its old value and leaves the new one (R180). -/
def Sys2Proof.Spec.Atoms (w : AtomWord) (x y : Nat → BitVec 64) : List (Nat × ScrLoc) → Ctx → Ctx → List (Nat × BitVec 64) → Prop
  | [], c, c1, os => c1 = c ∧ os = []
  | (i, l) :: t, c, c1, os => ∃ c0 os' bad,
    let n := if w.w64 then 8 else 4
    let old := BitVec.ofNat 64 (leNat (c.get l n))
    let new := if w.w64 then Spec.atom 64 w.op old (x i) (y i) else
      (Spec.atom 32 w.op (old.setWidth 32) ((x i).setWidth 32) ((y i).setWidth 32)).setWidth 64
    Spec.Put c l (leBytes n new.toNat) bad c0 ∧ Spec.Atoms w x y t c0 c1 os' ∧ os = (i, old) :: os'

/-- R79, R102, R139, R155, R156: where LD and ST trap, in both their forms. -/
def Sys2Proof.Spec.LoadStoreChecks : Prop :=
  ∀ (s : State) (c : Ctx) (r : LmA) (z : Size) (l : LdWord) (w : StWord), s.ctx = some c →
    Spec.AccessChecks s c (.ld r z) r (Spec.bytes z) [r.v]
    ∧ Spec.AccessChecks s c (.ldLong r l) r (Spec.bytes l.size) [r.v]
    ∧ Spec.AccessChecks s c (.st r z) r (Spec.bytes z) (Spec.group r.d z ++ [r.v])
    ∧ Spec.AccessChecks s c (.stLong r w) r (Spec.bytes w.size) (Spec.group r.d w.size ++ [r.v])

/-- The floating-point additions of an atomic's lanes, one after another, each agree with the shadow unit (R126, R180); a
poisoned one is not compared. -/
def Sys2Proof.Spec.atomsAgree (w : AtomWord) (x y : Nat → BitVec 64) (bad : Mask) : List (Nat × ScrLoc) → Ctx → Prop
  | [], _ => True
  | (i, l) :: t, c =>
    let n := if w.w64 then 8 else 4
    let f := if w.w64 then Fmt.f64 else Fmt.f32
    let old := leNat (c.get l n)
    let ab := [old, (x i).toNat]
    let new := (f.add .rn false false old (x i).toNat).bits
    let skip := c.getBad l n || bad.getLsbD i
    (skip = false → (Spec.shadowOf f .rn (fun l => f.add .rn false false (l.getD 0 0) (l.getD 1 0)) (Spec.twoAdds f) ab).differs new = false)
    ∧ Spec.atomsAgree w x y bad t (c.put l (leBytes n new) skip)

/-- R180: ATOM performs its active lanes in ascending order and gives each lane the value it found; a floating-point addition
that diverges from its shadow, with no soft error waiting, raises SHADOW and leaves memory as it was (log 9: the model's
choice). -/
def Sys2Proof.Spec.AtomicLaneResults : Prop :=
  ∀ (s : State) (c : Ctx) (r : LmA) (w : AtomWord), s.ctx = some c → c.admits (.atom r w) = true →
    let n := if w.w64 then 8 else 4
    let act := c.active r.g
    c.mapped act (srcNames r.d false w.w64 ++ [r.v] ++ (if w.op = .cas then srcNames w.c false w.w64 else [])) = true →
    Spec.reaches c r n = true → c.free w.sem w.scope = true → Spec.promoted s w.rmt w.scope = true →
    (∀ k cores, c.w.st ≠ .promote k cores) →
    let lanes := (lanesOf act).map fun i => (i, Spec.place c r n i)
    let x := c.dbl r.d false w.w64
    let agree : Prop := Spec.atomsAgree w x (c.dbl w.c false w.w64) (c.badDbl r.d false w.w64) lanes c
    ((w.op ≠ .fadd ∨ s.upset = none ∧ agree) → s.Runs c (.atom r w) (c.next 8) fun c1 => ∃ c0 os bad,
      Spec.Atoms w x (c.dbl w.c false w.w64) lanes c c0 os
      ∧ c0.WroteDbl r.d w.w64 act (fun i => (lookupN os i).getD 0) bad c1)
    ∧ (w.op = .fadd → s.upset = none → ¬ agree → Spec.Checks s c (.atom r w) .shadow)

/-- R79, R102, R139, R155, R156: where ATOM traps. -/
def Sys2Proof.Spec.AtomicChecks : Prop :=
  ∀ (s : State) (c : Ctx) (r : LmA) (w : AtomWord), s.ctx = some c →
    Spec.AccessChecks s c (.atom r w) r (if w.w64 then 8 else 4)
      (srcNames r.d false w.w64 ++ [r.v] ++ (if w.op = .cas then srcNames w.c false w.w64 else []))

/-- The offset of a spill slot (R158). -/
def Sys2Proof.Spec.slotOff (c : Ctx) (k : BitVec 6) : Nat :=
  (c.b.kern.v + 127) / 128 * 128 + (c.w.num * c.b.kern.q + k.toNat) * 128

/-- `c1` is `c` with a row stored with its poison in the 128 bytes from `off` of the block's allocation (R139, R182): each of the
four granules is poisoned where a lane in it is, whatever it was before. -/
def Sys2Proof.Spec.Spilled (c : Ctx) (off : Nat) (row : Row) (c1 : Ctx) : Prop :=
  c1 = { c with b := { c.b with scr := { c.b.scr with bytes := c1.b.scr.bytes, poison := c1.b.scr.poison } } }
  ∧ (c.b.scr.bytes.wf = true → c1.b.scr.bytes.wf = true ∧ ∀ o, c1.b.scr.bytes.read o =
      if off ≤ o ∧ o < off + 128 then (leBytes 4 (row.lanes[(o - off) / 4]?.getD 0).toNat).getD ((o - off) % 4) 0
      else c.b.scr.bytes.read o)
  ∧ ∀ g, g ∈ c1.b.scr.poison ↔ if off / 32 ≤ g ∧ g < off / 32 + 4 then ∃ i, i / 8 = g - off / 32 ∧ row.poison.getLsbD i = true
      else g ∈ c.b.scr.poison

/-- R52, R158, R182: SPILL stores a whole row with its poison and FILL maps a fresh one, whatever the mask, with zero in the lanes
that never launched; a slot beyond the kernel's raises SPILL_BOUNDS, SPILL of a name that maps no row UNMAPPED_NAME. -/
def Sys2Proof.Spec.SpillAndFillResults : Prop :=
  ∀ (s : State) (c : Ctx) (d : Name) (k : BitVec 6), s.ctx = some c →
    let at_ (i : Nat) : ScrLoc := ⟨c.b.key, Spec.slotOff c k + 4 * i⟩
    (∀ row, c.admits (.spill d k) = true → c.row? d = some row → k.toNat < c.b.kern.q → c.free .rlx .core = true →
      s.Runs c (.spill d k) (c.next 4) (Spec.Spilled c (Spec.slotOff c k) row))
    ∧ (c.admits (.spill d k) = true → c.row? d = none →
      Spec.Traps s c (.spill d k) { cause := .unmappedName, info := d.setWidth 32 })
    ∧ (c.admits (.fill d k) = true → k.toNat < c.b.kern.q → c.free .rlx .core = true →
      c.present ⟨c.b.key, Spec.slotOff c k⟩ 128 = true →
      s.Runs c (.fill d k) (c.next 4) fun c1 => ∃ id row, c.b.row? id = none ∧ c1.s = c.s
        ∧ c1.w = c.w.setVmap d (some id) ∧ c1.b = { c.b with rows := c1.b.rows } ∧ c1.b.row? id = some row ∧ row.count = 1
        ∧ (∀ j, j ≠ id → c1.b.row? j = (c.b.dropRef (c.w.vmap d)).row? j)
        ∧ (∀ i : Fin 32, row.lanes[i] = if c.w.launched.getLsbD i then BitVec.ofNat 32 (leNat (c.get (at_ i) 4)) else 0)
        ∧ row.poison = c.w.launched &&& maskOf fun i => c.getBad (at_ i) 4)
    ∧ (∀ i, i = .spill d k ∨ i = .fill d k → c.admits i = true → c.b.kern.q ≤ k.toNat →
      (i = .spill d k → (c.row? d).isSome = true) → exec i s = .next (c.takeTrap (Spec.trapAt .spillBounds (k.setWidth 32)
        (BitVec.ofNat 64 (Spec.slotOff c k))) (c.w.m &&& c.w.liveMask) false))

/-- R125, R290: SLD, SST and SLDK, and the traps of an address that is not aligned or names no byte; a prologue's SLDK has its
count in the one byte at 0x062, and its word is clean whatever the granule's poison (log 27: the model's choice). -/
def Sys2Proof.Spec.UniformMemoryResults : Prop :=
  ∀ (s : State) (c : Ctx) (d a : Name) (imm : BitVec 13) (k : BitVec 4), s.ctx = some c →
    let at_ : Word := c.w.sget a + imm.signExtend 32
    (∀ l, c.admits (.sld d a imm) = true → c.w.sbad a = false → at_.toNat % 4 = 0 → c.resolve at_ 4 = some l →
      c.present l 4 = true → c.free .rlx .core = true →
      s.Runs c (.sld d a imm) (c.next 4) (c.SetS d (BitVec.ofNat 32 (leNat (c.get l 4))) (c.getBad l 4)))
    ∧ (∀ l, c.admits (.sst d a imm) = true → c.w.sbad a = false → c.w.sbad d = false → at_.toNat % 4 = 0 →
      c.resolve at_ 4 = some l → (l.blk = c.b.key ∨ (s.block? l.blk).isSome = true) → c.free .rlx .core = true →
      s.Runs c (.sst d a imm) (c.next 4) (Spec.Put c l (leBytes 4 (c.w.sget d).toNat) false))
    ∧ (∀ i, (i = .sld d a imm ∨ i = .sst d a imm ∧ c.w.sbad d = false) → c.admits i = true → c.w.sbad a = false →
      (at_.toNat % 4 ≠ 0 → Spec.Traps s c i (Spec.trapAt .misaligned 0 (at_.setWidth 64)))
      ∧ (at_.toNat % 4 = 0 → c.resolve at_ 4 = none → Spec.Traps s c i (Spec.trapAt .scratchBounds 0 (at_.setWidth 64))))
    ∧ (∀ l r, c.admits (.sldk d k) = true → c.b.kind = .kernel → s.launch? c.b.key.lid = some l → l.rcd = some r →
      s.Runs c (.sldk d k) (c.next 4)
        (c.SetS d (if k.toNat < r.nparams then r.params.getD k.toNat 0 else 0) false))
    ∧ (c.admits (.sldk d k) = true → c.b.kind = .prologue → s.Runs c (.sldk d k) (c.next 4)
        (c.SetS d (if k.toNat < leNat (c.b.scr.get 0x062 1) then
          BitVec.ofNat 32 (leNat (c.b.scr.get (0x080 + 4 * k.toNat) 4)) else 0) false))

/-- R155, R156: which byte a scratchpad address of `n` bytes names: the block's own allocation, or through the window
another's of the gang, never beyond the kernel's .scratch; a prologue has no window (R292). -/
def Obligations.ScratchpadPlaces : Prop :=
  ∀ (c : Ctx) (a : Word) (n : Nat) (l : ScrLoc), c.resolve a n = some l ↔
    if a.toNat < 2 ^ 31 then a.toNat + n ≤ c.b.kern.v ∧ l = ⟨c.b.key, a.toNat⟩
    else c.b.kind = .kernel ∧ a.toNat / 2 ^ 25 % 64 < c.b.gsize ∧ a.toNat / 2 ^ 19 % 64 = 0 ∧ a.toNat % 2 ^ 19 + n ≤ c.b.kern.v
      ∧ l = ⟨{ c.b.key with num := a.toNat / 2 ^ 25 % 64 }, a.toNat % 2 ^ 19⟩

/-! ### Packets, copies, barriers and waits (R147 to R150, R183 to R200, R211, R212) -/

/-- The operands of a packet pass the checks of R184: no poisoned address, both addresses aligned, the scratchpad range and
the barrier object inside their allocations. -/
def Sys2Proof.Spec.packetOk (c : Ctx) (f s : Name) (sig : Bool) (width n : Nat) (loc : ScrLoc) (bar : Option ScrLoc) : Prop :=
  let g := f + 1
  c.w.sbad f = false ∧ c.w.sbad s = false ∧ c.w.sbad (s + 1) = false ∧ (sig = true → c.w.sbad g = false)
    ∧ (c.w.sget (s + 1) ++ c.w.sget s).toNat % width = 0 ∧ (c.w.sget f).toNat % n = 0
    ∧ (sig = true → (c.w.sget g).toNat % 16 = 0) ∧ c.resolve (c.w.sget f) n = some loc
    ∧ (if sig then c.resolve (c.w.sget g) 16 = bar ∧ bar ≠ none else bar = none)

/-- A packet need not wait at hand-over: its tag is free, PKT stands below its limit, and no older strong packet of the warp holds
a strong one back; `read` says that it is a PKRD, which as an acquire passes a release of other bytes (R205). -/
def Sys2Proof.Spec.packetGoes (c : Ctx) (tag : BitVec 3) (sem : Sem) (scope : Scope) (read : Bool) (s : Name) (n : Nat) : Prop :=
  c.w.tagBusy tag = false ∧ c.w.count .pkt < 64
    ∧ c.strongPending sem scope read (fun q => !q.meets c.b.asid (c.w.sget (s + 1) ++ c.w.sget s) n) = false

/-- `c1` is `c` with a packet handed over: the request stands last among the requests, the operation last among the warp's,
the pending count of each line named has risen by one, and no byte of scratchpad or of main memory has changed; the request waits
for the warp's acquires of wider scope than core that have not performed (R204). -/
def Sys2Proof.Spec.Sent (c : Ctx) (tag : BitVec 3) (addr : DWord) (n : Nat) (kind : ReqKind) (sem : Sem) (scope : Scope)
    (rmt : Bool) (dest bar : Option ScrLoc) (lines : List ScrLoc) (c1 : Ctx) : Prop :=
  (∃ q, c1.s.reqs = c.s.reqs ++ [q] ∧ q.seq = c.s.nextSeq ∧ q.wid = c.wid ∧ q.asid = c.b.asid ∧ q.addr = addr ∧ q.size = n
      ∧ q.kind = kind ∧ q.sem = sem ∧ q.scope = scope ∧ q.rmt = rmt ∧ q.dest = dest ∧ q.sig = bar ∧ q.st = .sent
      ∧ q.part = c.b.part ∧ q.chan = c.coreIx ∧ q.promote = [] ∧ q.dead = false
      ∧ ∀ k, k ∈ q.waitFor ↔ ∃ o, o ∈ c.s.reqs ∧ o.seq = k ∧ o.wid = c.wid ∧ o.dead = false ∧ o.st = .sent ∧ o.scope ≠ .core
          ∧ (o.sem = .acq ∨ o.sem = .acqrel))
    ∧ c1.w = { c.w with ops := c.w.ops ++ [⟨c.s.nextSeq, .pkt, tag, bar.toList, .pending⟩] }
    ∧ c1.s = { c.s with reqs := c1.s.reqs, nextSeq := c.s.nextSeq + 1, blocks := c1.s.blocks }
    ∧ c1.b = { c.b with scr := c1.b.scr }
    ∧ (∀ k, (c1.scr k).bytes = (c.scr k).bytes ∧ (c1.scr k).poison = (c.scr k).poison)
    ∧ ((∀ l, l ∈ lines → l.blk = c.b.key ∨ (c.s.block? l.blk).isSome = true) → ∀ k line,
        (c1.scr k).pendOf line = (c.scr k).pendOf line + (lines.filter fun l => l.blk == k && l.off / 64 == line).length)

/-- The bytes of a packet size. -/
def Sys2Proof.Spec.packetBytes (z : PkSize) : Nat := match z with | .b64 => 8 | .b128 => 16 | .b256 => 32 | .b512 => 64

/-- R147, R149, R150, R184, R185, R204, R205: what PKRD, PKWR and PKATOM hand over, to the address their pair gives, and when
PKWAIT goes on; a masked PKWR takes the bits of its mask pair whatever their poison (log 27: the model's choice). -/
def Sys2Proof.Spec.PacketHandOverResults : Prop :=
  ∀ (s : State) (c : Ctx) (r : PkOp) (a : PkAtomOp) (mask : Byte) (loc : ScrLoc) (bar : Option ScrLoc), s.ctx = some c →
    let n := Spec.packetBytes r.size
    let m := if a.w64 then 8 else 4
    (c.admits (.pkrd r) = true → Spec.packetOk c r.f r.s r.sig n n loc bar → Spec.packetGoes c r.tag r.sem r.scope true r.s n →
      c.canPend (linesAt loc n) = true →
      s.Runs c (.pkrd r) (c.next 4) (Spec.Sent c r.tag (c.w.sget (r.s + 1) ++ c.w.sget r.s) n .read r.sem r.scope r.x
        (some loc) bar (linesAt loc n)))
    ∧ (c.admits (.pkwr r) = true → Spec.packetOk c r.f r.s r.sig n n loc bar → Spec.packetGoes c r.tag r.sem r.scope false r.s n →
      c.present loc n = true → c.getBad loc n = false →
      s.Runs c (.pkwr r) (c.next 4) (Spec.Sent c r.tag (c.w.sget (r.s + 1) ++ c.w.sget r.s) n
        (.write (c.get loc n) (if r.x then c.w.sget (r.s + 3) ++ c.w.sget (r.s + 2) else BitVec.allOnes 64))
        r.sem r.scope false none bar []))
    ∧ (c.admits (.pkatom a) = true → Spec.packetOk c a.f a.s false m (2 * m) loc none →
      Spec.packetGoes c a.tag a.sem a.scope false a.s m → c.present loc (2 * m) = true → c.getBad loc (2 * m) = false →
      c.canPend (linesAt loc m) = true →
      s.Runs c (.pkatom a) (c.next 4) (Spec.Sent c a.tag (c.w.sget (a.s + 1) ++ c.w.sget a.s) m
        (.atom a.op a.w64 (BitVec.ofNat 64 (leNat (c.get loc m))) (BitVec.ofNat 64 (leNat (c.get ⟨loc.blk, loc.off + m⟩ m))))
        a.sem a.scope false (some loc) none (linesAt loc m)))
    ∧ (let named (o : EngOp) : Bool := o.cls == .pkt && mask.getLsbD o.tag.toNat
      c.admits (.pkwait mask) = true →
      ((∀ o, o ∈ c.w.ops → named o = true → o.st = .done) →
        s.Runs c (.pkwait mask) (c.next 4) (fun c1 => c1 = c))
      ∧ ((∃ o, o ∈ c.w.ops ∧ named o = true ∧ o.st = .pending) →
        exec (.pkwait mask) s = .next (c.setW { c.w with st := .pkwait }).commit))

/-- R184: the checks of a packet's addresses, each raising its trap before the packet is handed over: the memory address,
the scratchpad address, then the barrier's, then the ranges. -/
def Sys2Proof.Spec.PacketChecks : Prop :=
  ∀ (s : State) (c : Ctx) (r : PkOp) (i : Instr), s.ctx = some c → (i = .pkrd r ∨ i = .pkwr r) → c.admits i = true →
    c.w.sbad r.f = false → c.w.sbad r.s = false → c.w.sbad (r.s + 1) = false → (r.sig = true → c.w.sbad (r.f + 1) = false) →
    let n := Spec.packetBytes r.size
    let addr := c.w.sget (r.s + 1) ++ c.w.sget r.s
    let f := c.w.sget r.f
    let g := c.w.sget (r.f + 1)
    (addr.toNat % n ≠ 0 → Spec.Traps s c i (Spec.trapAt .misaligned 0 addr))
    ∧ (addr.toNat % n = 0 → f.toNat % n ≠ 0 → Spec.Traps s c i (Spec.trapAt .misaligned 0 (f.setWidth 64)))
    ∧ (addr.toNat % n = 0 → f.toNat % n = 0 → r.sig = true → g.toNat % 16 ≠ 0 →
      Spec.Traps s c i (Spec.trapAt .misaligned 0 (g.setWidth 64)))
    ∧ (addr.toNat % n = 0 → f.toNat % n = 0 → (r.sig = true → g.toNat % 16 = 0) → c.resolve f n = none →
      Spec.Traps s c i (Spec.trapAt .scratchBounds 0 (f.setWidth 64)))
    ∧ (addr.toNat % n = 0 → f.toNat % n = 0 → r.sig = true → g.toNat % 16 = 0 → c.resolve f n ≠ none →
      c.resolve g 16 = none → Spec.Traps s c i (Spec.trapAt .scratchBounds 0 (g.setWidth 64)))

/-- R186: COPY hands over its own copy of a chain that passes its checks, raises CPY by one and retires; a start that is
not a multiple of 16 or lies in the window traps. -/
def Obligations.CopyResults : Prop :=
  ∀ (s : State) (c : Ctx) (f : Name), s.ctx = some c → c.admits (.copy f) = true → c.w.sbad f = false →
    let start := c.w.sget f
    (∀ ch, start.toNat % 16 = 0 → start.toNat < 2 ^ 31 → c.w.count .cpy < 16 → c.acqPending = false →
      c.readChain start (Instr.copy f).firstWord 64 start.toNat [] = .ok ch →
      c.canPend ((c.copyLines ch).map (·.1)) = true →
      s.Runs c (.copy f) (c.next 4) fun c1 =>
        (∃ x, c1.s.copies = c.s.copies ++ [x] ∧ x.seq = c.s.nextSeq ∧ x.wid = c.wid ∧ x.chain = ch ∧ x.done = [] ∧ x.sigs = [])
        ∧ c1.w = { c.w with ops := c.w.ops ++ [⟨c.s.nextSeq, .cpy, 0, c.copySigs ch, .pending⟩] }
        ∧ c1.s = { c.s with copies := c1.s.copies, nextSeq := c.s.nextSeq + 1, blocks := c1.s.blocks }
        ∧ c1.b = { c.b with scr := c1.b.scr } ∧ ∀ k, (c1.scr k).bytes = (c.scr k).bytes)
    ∧ (start.toNat % 16 ≠ 0 → Spec.Traps s c (.copy f) (Spec.trapAt .misaligned 0 (start.setWidth 64)))
    ∧ (start.toNat % 16 = 0 → 2 ^ 31 ≤ start.toNat →
      Spec.Traps s c (.copy f) (Spec.trapAt .scratchBounds 0 (start.setWidth 64)))

/-- A byte of scratchpad. -/
def Sys2Proof.Spec.byteAt (s : State) (k : BlockId) (o : Nat) : Byte :=
  match s.block? k with | some b => b.scr.bytes.read o | none => 0

/-- `t` differs from `s` in no byte of main memory, and in none of scratchpad outside a barrier object. -/
def Sys2Proof.Spec.OnlyBarrier (s t : State) (l : ScrLoc) : Prop :=
  t.dram = s.dram ∧ ∀ k o, ¬ (k = l.blk ∧ l.off ≤ o ∧ o < l.off + 16) → Spec.byteAt t k o = Spec.byteAt s k o

/-- The bytes of a barrier object's place. -/
def Sys2Proof.Spec.objectAt (s : State) (l : ScrLoc) : Nat → Nat → Nat := fun off n =>
  leNat ((List.range n).map fun i => Spec.byteAt s l.blk (l.off + off + i))

/-- An object after an event adds arrivals and expected bytes, with the fields of R195: counts held at their maximum set ERR,
and the one test of R196 may flip PH. -/
def Sys2Proof.Spec.After (s t : State) (l : ScrLoc) (arr xb : Nat) : Prop :=
  let f := Spec.objectAt s l
  let g := Spec.objectAt t l
  let carr := f 11 1 + arr
  let xbytes := f 4 3 + xb
  let xcap := min xbytes 0xFFFFFF
  let flips := f 3 1 ≤ min carr 255 ∧ f 0 3 + xcap ≤ f 8 3
  g 0 3 = f 0 3 ∧ g 3 1 = f 3 1
    ∧ (flips → g 11 1 = min carr 255 - f 3 1 ∧ g 8 3 = f 8 3 - (f 0 3 + xcap) ∧ g 4 3 = 0 ∧ g 12 1 % 2 = 1 - f 12 1 % 2)
    ∧ (¬ flips → g 11 1 = min carr 255 ∧ g 8 3 = f 8 3 ∧ g 4 3 = xcap ∧ g 12 1 % 2 = f 12 1 % 2)
    ∧ (g 12 1 / 2 % 2 = 1 ↔ f 12 1 / 2 % 2 = 1 ∨ 255 < carr ∨ 0xFFFFFF < xbytes)
    ∧ g 12 1 / 4 % 2 = f 12 1 / 4 % 2

/-- A barrier instruction's object: unpoisoned, aligned, inside an allocation whose bytes stand in canonical form. -/
def Sys2Proof.Spec.objectOk (s : State) (c : Ctx) (f : Name) (l : ScrLoc) : Prop :=
  c.w.sbad f = false ∧ (c.w.sget f).toNat % 16 = 0 ∧ c.resolve (c.w.sget f) 16 = some l
    ∧ ∃ b, s.block? l.blk = some b ∧ b.scr.bytes.wf = true

/-- R195 to R197: BARINIT writes the whole object, BARARV counts one arrival, BAREXP adds expected bytes, each changing the
object alone; BARWT returns where PH differs from its operand and parks where it does not. -/
def Obligations.BarrierResults : Prop :=
  ∀ (s : State) (c : Ctx) (f sn : Name) (ph : Bool) (l : ScrLoc), s.ctx = some c → Spec.objectOk s c f l →
    (c.admits (.barinit f sn) = true → c.w.sbad sn = false → c.free .rlx .core = true →
      ∃ t, exec (.barinit f sn) s = .next t ∧ Spec.OnlyBarrier s t l
        ∧ Spec.objectAt t l 0 4 = (c.w.sget sn).toNat ∧ Spec.objectAt t l 4 4 = 0 ∧ Spec.objectAt t l 8 4 = 0
        ∧ Spec.objectAt t l 12 4 = 0)
    ∧ (c.admits (.bararv f) = true → c.free .rel .cluster = true →
      ∃ t, exec (.bararv f) s = .next t ∧ Spec.OnlyBarrier s t l ∧ Spec.After s t l 1 0)
    ∧ (c.admits (.barexp f sn) = true → c.w.sbad sn = false → c.free .rlx .core = true →
      ∃ t, exec (.barexp f sn) s = .next t ∧ Spec.OnlyBarrier s t l ∧ Spec.After s t l 0 ((c.w.sget sn).toNat % 2 ^ 24))
    ∧ (c.admits (.barwt f ph) = true → c.free .rlx .cluster = true → (∀ p q, c.w.st ≠ .barwt l p q) →
      (Spec.objectAt s l 12 1 % 2 ≠ ph.toNat → (∀ o, o ∈ c.w.ops → o.sigs.contains l = true → ∀ e, o.st ≠ .faulted e) →
        s.Runs c (.barwt f ph) (c.next 4) (fun c1 => c1 = c))
      ∧ (Spec.objectAt s l 12 1 % 2 = ph.toNat →
        exec (.barwt f ph) s = .next (c.setW { c.w with st := .barwt l ph false }).commit))

/-- R199, R211, R212: WAITC goes on once the operations of its class but the n youngest are complete, and parks while one is
outstanding, or, as log 14 deduces from R200, kept back while none of them holds a fault; of class MTX it lets sr.flg have the flags of
the completed steps it covers (R317); FENCE goes on once the warp's packets have performed; FENCE.sc, its core drained, waits for the
tide tick. -/
def Obligations.WaitAndFenceResults : Prop :=
  ∀ (s : State) (c : Ctx) (cls : Cls) (n : Byte) (scope : Scope), s.ctx = some c →
    (let ops := c.w.ops.filter fun o => o.cls == cls
      let old := ops.take (ops.length - n.toNat)
      c.admits (.waitc cls n) = true →
      ((∀ o, o ∈ old → o.st = .done) → (∀ o p, o ∈ old → p ∈ c.w.ops → o.seq = p.seq → p.st = .done) →
        (cls ≠ .mtx → s.Runs c (.waitc cls n) (c.next 4) (fun c1 => c1 = c))
        ∧ (cls = .mtx → s.Runs c (.waitc cls n) (c.next 4) fun c1 =>
          let young (k : Nat) : Bool := (c.w.mtxOps.take n.toNat).contains k
          c1 = { c with w := { c.w with flg := c1.w.flg, late := c1.w.late } }
            ∧ c1.w.late = c.w.late.filter (fun x => young x.1)
            ∧ ∀ j, c1.w.flg.getLsbD j = true ↔
                c.w.flg.getLsbD j = true ∨ ∃ x, x ∈ c.w.late ∧ young x.1 = false ∧ x.2.getLsbD j = true))
      ∧ ((∃ o, o ∈ old ∧ (o.st = .pending ∨ (∃ f, o.st = .withheld f)
            ∧ ∀ x y, x ∈ c.w.ops → y ∈ old → y.seq = x.seq → ∀ f, x.st ≠ .faulted f)) →
        exec (.waitc cls n) s = .next (c.setW { c.w with st := .waitc cls n.toNat }).commit))
    ∧ (c.admits (.fence false scope) = true → (scope = .core ∨ ∀ q, q ∈ s.reqs → q.wid = c.wid → q.dead = false → q.st ≠ .sent) →
      s.Runs c (.fence false scope) (c.next 4) (fun c1 => c1 = c))
    ∧ (c.admits (.fence true scope) = true → (∀ q, q ∈ s.reqs → q.wid = c.wid ∧ q.dead = false ∨ q.chan = c.coreIx → q.st ≠ .sent) →
      exec (.fence true scope) s = .next (c.setW { c.w with st := .fenceSc }).commit)

/-! ### The matrix engine (R217, R218, R238 to R257) -/

/-- A warp of the block that waits for the engine. -/
def Sys2Proof.Spec.awaits (b : Block) (n : Nat) : Prop :=
  n < 16 ∧ ∃ w, w ∈ b.warps ∧ w.num = n ∧ w.ended = false ∧ ∃ p, w.st = .macq p

/-- The engine after a release (R217): with the lowest-numbered warp that waits for it, or free. -/
def Sys2Proof.Spec.released (b : Block) (holder : Option Nat) : Prop :=
  match holder with
  | some n => Spec.awaits b n ∧ ∀ m, m < n → ¬ Spec.awaits b m
  | none => ∀ m, ¬ Spec.awaits b m

/-- `c1` is `c` with the engine's holder replaced. -/
def Sys2Proof.Spec.holder (c : Ctx) (h : Option Nat) : Ctx := { c with b := { c.b with holder := h } }

/-- R217, R239 to R241: MACQ and MACQ.wait take a free engine or keep their own, MREL frees it, MPASS moves it to a live
warp or frees it; a warp that is not converged, or that does not hold what it gives away, traps. -/
def Obligations.MatrixOwnershipResults : Prop :=
  ∀ (s : State) (c : Ctx) (p : PName) (a : Name), s.ctx = some c →
    let mine : Option Nat := some c.w.num
    let all : Mask := 0xFFFFFFFF#32
    (c.w.converged = true →
      (∀ i, i = .macq p ∨ i = .macqWait p → c.admits i = true → (c.b.holder = none ∨ c.b.holder = mine) →
        s.Runs c i (c.next 4) ((Spec.holder c mine).SetP p all all 0))
      ∧ (c.admits (.macq p) = true → c.b.holder ≠ none → c.b.holder ≠ mine →
        s.Runs c (.macq p) (c.next 4) (c.SetP p all 0 0))
      ∧ (c.admits (.macqWait p) = true → c.b.holder ≠ none → c.b.holder ≠ mine →
        exec (.macqWait p) s = .next (c.setW { c.w with st := .macq p }).commit)
      ∧ (c.admits .mrel = true → c.b.holder = mine →
        s.Runs c .mrel (c.next 4) fun c1 => ∃ h, Spec.released c.b h ∧ c1 = Spec.holder c h)
      ∧ (c.admits (.mpass a) = true → c.b.holder = mine → c.w.sbad a = false →
        let n := (c.w.sget a).toNat % 16
        let live := ∃ w, w ∈ c.b.warps ∧ w.num = n ∧ w.ended = false
        (live → s.Runs c (.mpass a) (c.next 4) fun c1 => c1 = Spec.holder c (some n))
        ∧ (¬ live → s.Runs c (.mpass a) (c.next 4) fun c1 => ∃ h, Spec.released c.b h ∧ c1 = Spec.holder c h)))
    ∧ (∀ i, i = .mrel ∨ i = .mpass a → c.admits i = true → c.w.converged = true → c.b.holder ≠ mine →
      Spec.Traps s c i { cause := .matrixNotHeld, info := i.firstWord })
    ∧ (∀ i, i = .macq p ∨ i = .macqWait p ∨ i = .mrel ∨ i = .mpass a → c.admits i = true → c.w.converged = false →
      Spec.Traps s c i { cause := .illegalConvergence, info := i.firstWord })

/-- Bits of a word. -/
def Sys2Proof.Spec.field (w : Word) (lo n : Nat) : Nat := w.toNat / 2 ^ lo % 2 ^ n

/-- The first byte and the bytes of a reservation's range (R243). -/
def Sys2Proof.Spec.range (r : Resv) : Nat × Nat := (256 * Spec.field r.f 0 8, 256 * (Spec.field r.f 8 8 + 1))

/-- The two words of OBRES keep the limits of R243. -/
def Sys2Proof.Spec.recordOk (a b : Word) : Prop :=
  Spec.field a 0 8 + Spec.field a 8 8 ≤ 255 ∧ Spec.field a 16 16 = 0 ∧ Spec.field b 0 4 ≤ 6 ∧ Spec.field b 6 1 = 0
    ∧ Spec.field b 11 1 = 0 ∧ (Spec.field b 4 2 ≠ 0 → Spec.field b 0 4 = 2 ∨ Spec.field b 0 4 = 3 ∨ Spec.field b 0 4 = 5)
    ∧ (Spec.field b 7 4 ≠ 0 → Spec.field b 0 4 = 5) ∧ (Spec.field b 4 2 ≠ 0 ↔ Spec.field b 24 8 ≠ 0)

/-- `c1` is `c` with the operand buffer replaced by one of which `P` holds. -/
def Sys2Proof.Spec.Buffer (c : Ctx) (P : OpBuf → Prop) (c1 : Ctx) : Prop :=
  c1.w = c.w ∧ c1.b = { c.b with ob := c1.b.ob } ∧ c1.s = { c.s with fresh := c1.s.fresh } ∧ P c1.b.ob

/-- R243 to R246: OBRES makes a reservation that keeps the limits and overlaps none, OBREL ends one, CBLD loads a codebook
slot and SCLD a part of a reservation's range; nothing else of the operand buffer changes. -/
def Obligations.ReservationResults : Prop :=
  ∀ (s : State) (c : Ctx) (idx : BitVec 3) (f sn : Name) (l : ScrLoc), s.ctx = some c → c.w.converged = true →
    let ob := c.b.ob
    let r : Resv := ⟨c.w.sget f, c.w.sget sn⟩
    let lo := (Spec.range r).1
    let n := (Spec.range r).2
    (c.admits (.obres idx f sn) = true → c.w.sbad f = false → c.w.sbad sn = false → Spec.recordOk r.f r.s →
      ob.resv? idx.toNat = none → (∀ j q, ob.resv? j = some q →
        lo + n ≤ (Spec.range q).1 ∨ (Spec.range q).1 + (Spec.range q).2 ≤ lo) →
      s.Runs c (.obres idx f sn) (c.next 4) (Spec.Buffer c fun o => o.resv? idx.toNat = some r
        ∧ (∀ j, j ≠ idx.toNat → o.resv? j = ob.resv? j) ∧ o.cb = ob.cb
        ∧ ∀ a, ¬ (lo ≤ a ∧ a < lo + n) → o.byte a = ob.byte a))
    ∧ (c.admits (.obrel idx) = true → s.Runs c (.obrel idx) (c.next 4) (Spec.Buffer c fun o =>
        o = { ob with resv := o.resv } ∧ o.resv? idx.toNat = none ∧ ∀ j, j ≠ idx.toNat → o.resv? j = ob.resv? j))
    ∧ (∀ q, c.admits (.cbld idx f) = true → c.w.sbad f = false → ob.resv? idx.toNat = some q → Spec.field q.s 0 4 = 5 →
      (c.w.sget f).toNat % 16 = 0 → c.resolve (c.w.sget f) 32 = some l → c.present l 32 = true →
      c.free .rlx .core = true →
      s.Runs c (.cbld idx f) (c.next 4) (Spec.Buffer c fun o => o = { ob with cb := o.cb }
        ∧ (∀ j, j ≠ Spec.field q.s 7 4 → o.cb[j]? = ob.cb[j]?)
        ∧ ∃ t, o.cb[Spec.field q.s 7 4]? = some t ∧ ∀ i : Fin 16,
          t[i].1 = BitVec.ofNat 16 (leNat ((c.get l 32).drop (2 * i) |>.take 2))))
    ∧ (∀ q, c.admits (.scld idx f sn) = true → c.w.sbad f = false → c.w.sbad sn = false → ob.resv? idx.toNat = some q →
      let k := Spec.field r.s 0 13
      let to_ := (Spec.range q).1 + 16 * Spec.field r.s 16 12
      1 ≤ k → k ≤ 4096 → Spec.field r.s 13 3 = 0 → Spec.field r.s 28 4 = 0 →
      16 * (Spec.field r.s 16 12 + k) ≤ (Spec.range q).2 → r.f.toNat % 16 = 0 → c.resolve r.f (16 * k) = some l →
      c.present l (16 * k) = true → c.free .rlx .core = true → ob.mem.wf = true →
      s.Runs c (.scld idx f sn) (c.next 4) (Spec.Buffer c fun o => o.resv = ob.resv ∧ o.cb = ob.cb
        ∧ ∀ a, o.byte a = if to_ ≤ a ∧ a < to_ + 16 * k then (c.get l (16 * k)).getD (a - to_) 0 else ob.byte a))

/-- A tile of zeros that an a-name maps (R218, R238). -/
def Sys2Proof.Spec.zeroTile (c : Ctx) (n : AName) (dirty : Bool) : Prop :=
  ∃ id t, c.w.aget n = ⟨some id, dirty⟩ ∧ c.b.tile? id = some t ∧ (∀ e : Fin 256, t.el[e] = 0) ∧ t.poison = 0

/-- The names of a range of a-names. -/
def Sys2Proof.Spec.inRange (first last n : AName) : Prop := first.toNat ≤ n.toNat ∧ n.toNat ≤ last.toNat

/-- The operation handed over: MTX counts one more (R198, R257). -/
def Sys2Proof.Spec.counted (c c1 : Ctx) : Prop :=
  c1.w.ops = c.w.ops ++ [⟨c.s.nextSeq, .mtx, 0, [], .pending⟩] ∧ c1.s = { c.s with nextSeq := c.s.nextSeq + 1, blocks := c1.s.blocks }

/-- R238, R254, R255: AZERO maps fresh tiles of +0; ALD maps fresh tiles and hands their elements over as they stand; AST
hands the tiles over and marks every line it will write. -/
def Sys2Proof.Spec.AccumulatorNameResults : Prop :=
  ∀ (s : State) (c : Ctx) (first last : AName) (f sn : Name), s.ctx = some c → c.w.converged = true →
    first.toNat ≤ last.toNat → c.w.sbad f = false → c.w.sbad sn = false →
    let n := last.toNat - first.toNat + 1
    let base := c.w.sget f
    let w := c.w.sget sn
    let at_ (t e : Nat) : Word := base + BitVec.ofNat 32
      ((16 * (t / (Spec.field w 16 2 + 1)) + e / 16) * Spec.field w 0 16 + 4 * (16 * (t % (Spec.field w 16 2 + 1)) + e % 16))
    let ok : Prop := Spec.field w 0 2 = 0 ∧ Spec.field w 18 14 = 0 ∧ base.toNat % 4 = 0 ∧ ∀ t e, t < n → e < 256 → c.resolve (at_ t e) 4 ≠ none
    (c.admits (.azero first last) = true → c.b.tiles.length + n ≤ 48 →
      s.Runs c (.azero first last) (c.next 4) fun c1 => (∀ a, Spec.inRange first last a → Spec.zeroTile c1 a false)
        ∧ (∀ a, ¬ Spec.inRange first last a → c1.w.aget a = c.w.aget a) ∧ c1.w = { c.w with acc := c1.w.acc }
        ∧ c1.s = c.s ∧ c1.b.rows = c.b.rows ∧ c1.b.scr = c.b.scr ∧ c1.b.steps = c.b.steps)
    ∧ (c.admits (.ald first last f sn) = true → ok → c.b.tiles.length + n ≤ 48 → c.w.count .mtx < 8 →
      (∀ t e l, t < n → e < 256 → c.resolve (at_ t e) 4 = some l → c.present l 4 = true) → c.free .rlx .core = true →
      s.Runs c (.ald first last f sn) (c.next 4) fun c1 => Spec.counted c c1
        ∧ (∀ a, Spec.inRange first last a → Spec.zeroTile c1 a true) ∧ (∀ a, ¬ Spec.inRange first last a → c1.w.aget a = c.w.aget a)
        ∧ c1.b.rows = c.b.rows ∧ c1.b.scr = c.b.scr
        ∧ ∃ x, c1.b.xfers = c.b.xfers ++ [x] ∧ x.load = true ∧ x.seq = c.s.nextSeq ∧ x.wid = c.wid
          ∧ ∀ t e l, t < n → e < 256 → c.resolve (at_ t e) 4 = some l →
            (x.el.getD t []).getD e (0, false) = (BitVec.ofNat 32 (leNat (c.get l 4)), c.getBad l 4))
    ∧ (c.admits (.ast first last f sn) = true → ok → c.w.count .mtx < 8 →
      (∀ a, Spec.inRange first last a → (c.w.aget a).tile ≠ none) →
      (∀ t e l, t < n → e < 256 → c.resolve (at_ t e) 4 = some l → (c.scr l.blk).pendOf (l.off / 64) < 15
        ∧ (l.blk = c.b.key ∨ (s.block? l.blk).isSome = true)) → c.free .rlx .core = true →
      s.Runs c (.ast first last f sn) (c.next 4) fun c1 => Spec.counted c c1 ∧ c1.w.acc = c.w.acc
        ∧ (∀ k, (c1.scr k).bytes = (c.scr k).bytes)
        ∧ (∀ t e l, t < n → e < 256 → c.resolve (at_ t e) 4 = some l →
          (c1.scr l.blk).pendOf (l.off / 64) = (c.scr l.blk).pendOf (l.off / 64) + 1)
        ∧ ∃ x, c1.b.xfers = c.b.xfers ++ [x] ∧ x.load = false ∧ x.seq = c.s.nextSeq ∧ x.wid = c.wid ∧ x.base = base
          ∧ ∀ t, t < n → x.tiles[t]? = (c.w.aget (first + BitVec.ofNat 4 t)).tile)

/-- The K depth of an engine step (R242). -/
def Sys2Proof.Spec.depth (f : FmtPair) : Nat :=
  match f with
  | .bf16 | .f16 => 48
  | .c4 => 192
  | _ => 96

/-- A start from scratchpad passes the checks of R239, R249 and R251. -/
def Sys2Proof.Spec.startOk (c : Ctx) (fmt : FmtPair) (f sn : Name) (mma : Bool) (d : AName) : Prop :=
  let g := c.geom fmt f sn
  (∀ n, n ∈ [sn, f, f + 1, f + 2, f + 3] → c.w.sbad n = false) ∧ badWord (c.geomFields g f sn mma d) = none
    ∧ g.aB.toNat % 16 = 0 ∧ g.bB.toNat % 16 = 0
    ∧ c.sideBad (pairSides fmt).1 g.aB g.aW g.mt g.k = none ∧ c.sideBad (pairSides fmt).2 g.bB g.bW g.nt g.k = none

/-- R248 to R252: MMA hands one step over into its name's tile and raises MTX; MTILE raises MTX once at its start, hands its
steps over one at a time and retires with its last. -/
def Obligations.MatrixStepResults : Prop :=
  ∀ (s : State) (c : Ctx) (fmt : FmtPair) (d : AName) (f sn : Name), s.ctx = some c → c.w.converged = true →
    c.b.holder = some c.w.num → c.b.steps.length < 4 → c.acqPending = false →
    let room : Prop := c.b.tiles.length < 48 ∨ c.b.tiles.length = 48 ∧ (c.w.aget d).tile ≠ none
    let pushed (k : Nat) (c1 : Ctx) : Prop := Spec.counted c c1 ∧ c1.w.aget d = ⟨(c1.w.aget d).tile, true⟩
      ∧ ((c.w.aget d).tile ≠ none → (c1.w.aget d).tile = (c.w.aget d).tile) ∧ (∀ a, a ≠ d → c1.w.aget a = c.w.aget a)
      ∧ c1.b.rows = c.b.rows ∧ c1.b.scr = c.b.scr
      ∧ ∃ t, c1.b.steps = c.b.steps ++ [t] ∧ some t.tile = (c1.w.aget d).tile ∧ t.wid = c.wid ∧ t.seq = c.s.nextSeq
        ∧ t.fmt = fmt ∧ t.k0 = 0 ∧ t.kEnd = k
    (c.admits (.mma fmt false d f sn) = true → room → c.w.count .mtx < 8 →
      (∀ j, j < 12 → c.w.vmap (f + BitVec.ofNat 6 j) ≠ none ∧ c.w.vmap (sn + BitVec.ofNat 6 j) ≠ none) →
      s.Runs c (.mma fmt false d f sn) (c.next 4) (pushed (Spec.depth fmt)))
    ∧ (c.admits (.mma fmt true d f sn) = true → room → c.w.count .mtx < 8 → Spec.startOk c fmt f sn true d →
      s.Runs c (.mma fmt true d f sn) (c.next 4) (pushed (Spec.field (c.w.sget sn) 0 16)))
    ∧ (∀ seq, c.admits (.mtile fmt d f sn) = true → c.w.st = .mtile seq →
      let g := c.geom fmt f sn
      let name := d + BitVec.ofNat 4 (g.nt * (c.w.ctr / g.nt % g.mt) + c.w.ctr % g.nt)
      let step (c1 : Ctx) : Prop := (∃ t, c1.b = { c.b with steps := c.b.steps ++ [t] } ∧ t.seq = seq ∧ t.wid = c.wid
          ∧ t.tile = ((c.w.aget name).tile.getD 0) ∧ t.k0 = c.w.ctr / (g.mt * g.nt) * Spec.depth fmt) ∧ c1.s = c.s
      (c.w.ctr + 1 < g.total → ∃ c1, step c1 ∧ c1.w.ctr = c.w.ctr + 1 ∧ c1.w.st = .mtile seq ∧
        exec (.mtile fmt d f sn) s = .next c1.commit)
      ∧ (g.total ≤ c.w.ctr + 1 → s.Runs c (.mtile fmt d f sn) (c.next 4) fun c1 => step c1 ∧ c1.w.ctr = 0))
    ∧ (c.admits (.mtile fmt d f sn) = true → c.w.st = .ready → c.w.ctr = 0 → c.w.count .mtx < 8 →
      c.b.tiles.length + 16 ≤ 48 → Spec.startOk c fmt f sn false d → 1 < (c.geom fmt f sn).total →
      ∃ c1, Spec.counted c c1 ∧ c1.w.ctr = 1 ∧ c1.w.ctrPc = c.w.pc ∧ c1.w.st = .mtile c.s.nextSeq
        ∧ c1.b.steps.length = c.b.steps.length + 1 ∧ exec (.mtile fmt d f sn) s = .next c1.commit)
    ∧ (c.admits (.mtile fmt d f sn) = true → c.w.st = .ready → c.w.ctr = 0 → c.w.count .mtx < 8 →
      c.b.tiles.length + 16 ≤ 48 → Spec.startOk c fmt f sn false d → (c.geom fmt f sn).total = 1 →
      s.Runs c (.mtile fmt d f sn) (c.next 4) fun c1 => Spec.counted c c1 ∧ c1.w.ctr = 0
        ∧ c1.b.steps.length = c.b.steps.length + 1)

/-- The elements of a tile that lane `l` of destination name `m` takes (R256). -/
def Sys2Proof.Spec.moved (t : AmovTy) (m l : Nat) : List Nat :=
  match t with
  | .f32 | .s32 => [16 * (2 * m + l / 16) + l % 16]
  | .f16 | .bf16 => [16 * (4 * m + l / 8) + 2 * (l % 8), 16 * (4 * m + l / 8) + 2 * (l % 8) + 1]

/-- R107, R126, R256: AMOVV writes every lane of its destination names from the tile, when no enabled exception arises, and else
raises FP_ENABLED; with no soft error
waiting, an unpoisoned element of a floating-point type that diverges from its shadow raises SHADOW instead (log 9: what the
comparison is made of is the model's choice). -/
def Sys2Proof.Spec.AccumulatorMoveResults : Prop :=
  ∀ (s : State) (c : Ctx) (r : AmovOp) (id : Nat) (t : Tile), s.ctx = some c → c.admits (.amovv r) = true →
    c.w.converged = true → (c.w.aget (r.a.setWidth 4)).tile = some id → c.b.tile? id = some t →
    c.b.writesTile id = false →
    let names := match r.t with | .f32 | .s32 => 8 | .f16 | .bf16 => 4
    let one (e : Nat) : FRes := amovElem r c.w.ftz (t.el[e]?.getD 0) (c.w.sget r.b)
    let bad (e : Nat) : Bool := t.poison.getLsbD e || (c.w.sbad r.b && !(r.s32 && r.t == .s32))
    let exc (l : Nat) : Exc := ((List.range names).flatMap fun m => Spec.moved r.t m l).foldl
      (fun x e => if bad e then x else x ||| (one e).exc) 0
    let agree : Prop := ∀ e, e < 256 → bad e = false → (amovShadow r c.w.ftz (t.el[e]?.getD 0) (c.w.sget r.b)).differs (one e).bits = false
    (Spec.quiet c 0xFFFFFFFF#32 exc = true → (r.t = .s32 ∨ s.upset = none ∧ agree) →
      s.Runs c (.amovv r) (c.next 4) fun c1 => ∃ c0,
        Spec.WroteGroup c r.d 0xFFFFFFFF#32
          (fun m l => BitVec.ofNat 32 ((Spec.moved r.t m l).foldr (fun e x => (one e).bits + 65536 * x) 0))
          (fun m => maskOf fun l => (Spec.moved r.t m l).any bad) names c0
        ∧ Spec.Flagged c0 (Spec.union 0xFFFFFFFF#32 exc) c1)
    ∧ (Spec.quiet c 0xFFFFFFFF#32 exc = false → (r.t = .s32 ∨ s.upset = none ∧ agree) →
      Spec.FpTraps s c (.amovv r) 0xFFFFFFFF#32 exc)
    ∧ (r.t ≠ .s32 → s.upset = none → ¬ agree → Spec.Checks s c (.amovv r) .shadow)

/-- A matrix instruction at its start, or a PHASE of the kernel's table that has not arrived. -/
def Sys2Proof.Spec.needsConvergence (c : Ctx) (i : Instr) : Prop :=
  match i with
  | .macq _ | .macqWait _ | .mrel | .mpass _ | .obres .. | .obrel _ | .cbld .. | .scld .. | .azero .. | .mma .. | .ald .. | .ast ..
  | .amovv _ => True
  | .mtile .. => c.w.ctr = 0 ∧ ∀ q, c.w.st ≠ .mtile q
  | .phase k => k.toNat < c.b.kern.carry.length ∧ ∀ j, c.w.st ≠ .phase j
  | _ => False

/-- R65: every matrix instruction, and PHASE, raises ILLEGAL_CONVERGENCE in a warp that is not converged, and has no effect but
the trap's. -/
def Obligations.MatrixAndPhaseNeedConvergence : Prop :=
  ∀ (s : State) (c : Ctx) (i : Instr), s.ctx = some c → c.w.converged = false → c.admits i = true → Spec.needsConvergence c i →
    Spec.Traps s c i { cause := .illegalConvergence, info := i.firstWord }

/-! ### Special registers, time and traps (R129 to R138, R315 to R318, R326) -/

/-- The value of a special register (R7, R105, R129, R315, R316). -/
def Sys2Proof.Spec.special (c : Ctx) (r : SReg) : Word :=
  let l := c.s.launch? c.b.key.lid
  let deadline : Nat := match c.b.kind with
    | .kernel => ((l.bind (·.rcd)).map (·.deadline)).getD 0
    | .prologue => leNat (c.b.scr.get 0x040 8)
  match r with
  | .caps => match c.s.variant with | .x => 0x016610E8#32 | .m => 0x01130014#32
  | .warp => BitVec.ofNat 32 c.w.num
  | .block => BitVec.ofNat 32 c.b.key.num
  | .gang => BitVec.ofNat 32 c.b.key.gang
  | .core => BitVec.ofNat 32 c.b.core
  | .cluster => BitVec.ofNat 32 c.b.cluster
  | .stack => BitVec.ofNat 32 (c.b.cluster / 6)
  | .launch => BitVec.ofNat 32 c.b.key.lid
  | .launchh => BitVec.ofNat 32 (c.b.key.lid / 2 ^ 32)
  | .flg => c.w.flg
  | .tpc => c.w.tpc
  | .tcause => c.w.tcause
  | .tlanes => c.w.tlanes
  | .taddr => c.w.taddr
  | .taddrh => c.w.taddrh
  | .tinfo => c.w.tinfo
  | .ebbpc => c.w.ebbpc
  | .ebbleft => if c.w.inWrap = false then 0xFFFFFFFF#32 else match l with
    | some l => match l.ebbAt with
      | some e => BitVec.ofNat 32 (e + l.budget - c.s.now)
      | none => 0xFFFFFFFF#32
    | none => 0xFFFFFFFF#32
  | .time => BitVec.ofNat 32 c.s.now
  | .timeh => BitVec.ofNat 32 (c.s.now / 2 ^ 32)
  | .dline => BitVec.ofNat 32 deadline
  | .dlineh => BitVec.ofNat 32 (deadline / 2 ^ 32)

/-- `c1` is `c` with an s-name pair written, the low word first. -/
def Sys2Proof.Spec.SetPair (c : Ctx) (d : Name) (x : Nat) (c1 : Ctx) : Prop :=
  ∃ c0, c.SetS d (BitVec.ofNat 32 x) false c0 ∧ c0.SetS (d + 1) (BitVec.ofNat 32 (x / 2 ^ 32)) false c1

/-- R315 to R318: SRD reads each special register as it stands; SWR writes sr.flg but for its reserved bits, and sr.tpc, and
drops the flags of completed steps that no WAITC has shown yet, and raises PRIV for every other register; TIME and TICK.now read the clocks, and TICK waits for the next tide tick. -/
def Obligations.SpecialRegisterResults : Prop :=
  ∀ (s : State) (c : Ctx) (d : Name) (r : SReg), s.ctx = some c →
    (c.admits (.srd d r) = true → s.Runs c (.srd d r) (c.next 4) (c.SetS d (Spec.special c r) false))
    ∧ (c.admits (.swr d .flg) = true → c.w.sbad d = false → s.Runs c (.swr d .flg) (c.next 4)
      (fun c1 => c1 = { c with w := { c.w with flg := c.w.sget d &&& 0x00013F7F#32, late := [] } }))
    ∧ (c.admits (.swr d .tpc) = true → c.w.sbad d = false → s.Runs c (.swr d .tpc) (c.next 4)
      (fun c1 => c1 = { c with w := { c.w with tpc := c.w.sget d } }))
    ∧ (c.b.kind = .kernel → (Instr.swr d r).wf = true → r ≠ .flg → r ≠ .tpc →
      Spec.Traps s c (.swr d r) { cause := .priv, info := (Instr.swr d r).firstWord })
    ∧ (c.admits (.time d) = true → s.Runs c (.time d) (c.next 4) (Spec.SetPair c d s.now))
    ∧ (c.admits (.tickNow d) = true → s.Runs c (.tickNow d) (c.next 4) (c.SetS d (BitVec.ofNat 32 s.ticks) false))
    ∧ (c.admits (.tick d) = true → exec (.tick d) s = .next (c.setW { c.w with st := .tick d }).commit)

/-- R134, R143, R326: TRAP raises SOFTWARE with its code; TRET gives the saved mappings back and goes to sr.tpc, or past the
trapped instruction, and raises PRIV outside a handler; BRK traps outside debug mode, and in it stops the gang or, on a
step forward, is passed over. -/
def Obligations.TrapInstructionResults : Prop :=
  ∀ (s : State) (c : Ctx) (code : BitVec 6), s.ctx = some c →
    (c.admits (.trap code) = true → Spec.Traps s c (.trap code) { cause := .software, info := code.setWidth 32 })
    ∧ (∀ skip i, (skip = false ∧ i = .tretRetry ∨ skip = true ∧ i = .tretSkip) → c.admits i = true →
      (c.w.depth = true → (skip = true → c.w.tcause.getLsbD 9 = false) → c.w.tpc.toNat % 4 = 0 →
        let past : Word := if c.w.tcause.getLsbD 8 ∧ c.w.tcause.toNat % 256 ≠ 1 then 8 else 4
        s.Runs c i (if skip then c.w.tpc + past else c.w.tpc) fun c1 => c1.s = c.s
          ∧ c1.b = c.b.dropRefs ((List.range 8).map fun k => c.w.vmap (BitVec.ofNat 6 (56 + k)))
          ∧ c1.w = { c.w with v := c1.w.v, saved := Vector.replicate 8 none, tcause := c.w.tcause &&& ~~~0x10000#32
                              ctr := if skip then 0 else c.w.ctr }
          ∧ ∀ n : Name, c1.w.vmap n = if n.toNat < 56 then c.w.vmap n else (c.w.saved[n.toNat - 56]?).join)
      ∧ (c.w.depth = false → Spec.Traps s c i { cause := .priv, info := i.firstWord }))
    ∧ (c.admits .brk = true →
      (c.b.debug = false → Spec.Traps s c .brk { cause := .brk, info := 0 })
      ∧ (c.b.debug = true → c.w.stepOne = true → s.Runs c .brk (c.next 4) (fun c1 => c1 = c))
      ∧ (c.b.debug = true → c.w.stepOne = false → ∃ t, exec .brk s = .next t ∧ t.dram = s.dram
        ∧ ∀ b, b ∈ t.blocks → b.inGang c.b.key.lid c.b.key.gang = true →
          ∀ w, w ∈ b.warps → w.ended = true ∨ w.halted = true))

/-- R129, R132: what taking a trap does to a kernel's warp at depth 0 whose kernel has a handler: the trap registers, the
saved mappings, the depth and the pc; every other name, register and mapping, every other block and all of memory stay, but for
undo logs of debug mode, which the rows of the saved mappings may push out of the pool (R81, R144). -/
def Obligations.TrapEntryEffects : Prop :=
  ∀ (s : State) (c : Ctx) (t : TrapInfo) (lanes : Mask) (len8 : Bool) (e : Nat), s.ctx = some c → c.b.kind = .kernel →
    c.w.depth = false → c.debugStops t.cause = false → c.b.kern.trap = some e →
    let u := c.takeTrap t lanes len8
    let quiet : Prop := ∀ b, b ∈ s.blocks → ∀ w, w ∈ b.warps → w.undo = []
    (∃ b w, u.block? c.b.key = some b ∧ b.warp? c.w.num = some w ∧ w.tpc = c.w.pc
      ∧ w.tcause.toNat = t.cause.code + 256 * len8.toNat + 512 * t.noskip.toNat + 65536
      ∧ w.tlanes = lanes ∧ w.tinfo = t.info ∧ w.pc = BitVec.ofNat 32 e
      ∧ (∀ a, t.addr = some a → w.taddrh ++ w.taddr = a)
      ∧ (t.addr = none → w.taddr = c.w.taddr ∧ w.taddrh = c.w.taddrh)
      ∧ (∀ k, k < 8 → (w.saved[k]?).join = c.w.vmap (BitVec.ofNat 6 (56 + k)))
      ∧ (∀ n : Name, w.vmap n = if n.toNat < 56 then c.w.vmap n else none)
      ∧ w.s = c.w.s ∧ w.sPoison = c.w.sPoison ∧ w.p = c.w.p ∧ w.pPoison = c.w.pPoison ∧ w.flg = c.w.flg ∧ w.m = c.w.m
      ∧ w.stack = c.w.stack ∧ w.exited = c.w.exited ∧ w.launched = c.w.launched ∧ w.acc = c.w.acc ∧ w.ops = c.w.ops
      ∧ (∀ n, n ≠ c.w.num → ∃ x, b.warp? n = (c.b.warp? n).map fun v => { v with undo := x })
      ∧ b = { c.b with warps := b.warps, rows := b.rows }
      ∧ (∀ id r, b.row? id = some r → ∃ q, c.b.row? id = some q ∧ r.lanes = q.lanes ∧ r.poison = q.poison)
      ∧ (quiet → (∀ n, n ≠ c.w.num → b.warp? n = c.b.warp? n) ∧ b = { c.b with warps := b.warps }))
    ∧ (quiet → ∀ k, k ≠ c.b.key → u.block? k = s.block? k) ∧ u.dram = s.dram ∧ u.launches = s.launches ∧ u.reqs = s.reqs

/-- R135, R136, R138: a trap in a handler, a trap of a kernel without a handler, and a machine check anywhere in a kernel
take the warp's whole gang off its cores, and main memory stays as it was. -/
def Obligations.SecondErrorsEndTheGang : Prop :=
  ∀ (s : State) (c : Ctx) (t : TrapInfo) (m : MCheck) (lanes : Mask) (len8 : Bool) (l : Launch) (g : Gang), s.ctx = some c →
    c.b.kind = .kernel → s.launch? c.b.key.lid = some l → l.gang? c.b.key.gang = some g →
    let gone (u : State) : Prop := u.dram = s.dram ∧ ∀ b, b ∈ u.blocks → b.inGang c.b.key.lid c.b.key.gang = false
    (c.w.depth = true → gone (c.takeTrap t lanes len8))
    ∧ (c.debugStops t.cause = false → c.b.kern.trap = none → gone (c.takeTrap t lanes len8))
    ∧ gone (c.takeMCheck m)

/-- The instruction is of the ISA: neither an event nor an encoding that no instruction has. -/
def Sys2Proof.Spec.isa (i : Instr) : Prop := i.words ≠ none ∧ ∀ w, i ≠ .illegalOpcode w

/-- R43, R58, R102, R293: every instruction is checked before it acts, in the order of R43, and the first failure is the trap; its trap covers its retire mask; a
poisoned guard bit is consumed; and an encoding that no instruction has raises ILLEGAL_OPCODE. -/
def Obligations.EveryInstructionIsCheckedFirst : Prop :=
  ∀ (s : State) (c : Ctx) (i : Instr) (w : Word), s.ctx = some c →
    (Spec.isa i →
      (i.wf = false → Spec.Traps s c i { cause := .illegalOpcode, info := i.firstWord })
      ∧ (i.wf = true → c.b.kind = .prologue → i.inPrologue = false →
        Spec.Traps s c i { cause := .illegalOpcode, info := i.firstWord })
      ∧ (i.wf = true → c.b.kind = .kernel → i.privInKernel = true →
        Spec.Traps s c i { cause := .priv, info := i.firstWord })
      ∧ (∀ bad, i.wf = true → i.reserved = some bad →
        (c.b.kind = .prologue ∧ i.inPrologue = true ∨ c.b.kind = .kernel ∧ i.privInKernel = false) →
        Spec.Traps s c i { cause := .reservedField, info := BitVec.ofNat 32 (bad.1 * 256 + bad.2) })
      ∧ (∀ f sn, i = .coll f sn → i.wf = true → i.reserved = none → c.b.kind = .kernel → s.hasTideway = false →
        Spec.Traps s c i { cause := .unitAbsent, info := i.firstWord })
      ∧ (c.gate i = none → i.isL = true → c.w.m &&& c.w.liveMask &&& c.w.pbad i.guard.p ≠ 0 →
        Spec.Checks s c i .poisonConsumed)
      ∧ (i.isL = false → c.retireMask i = c.w.launched &&& ~~~c.w.exited)
      ∧ (i.isL = true → c.retireMask i = c.w.m &&& (c.w.launched &&& ~~~c.w.exited) &&&
        (if i.guard.neg then ~~~(c.w.pget i.guard.p) else c.w.pget i.guard.p)))
    ∧ ∃ lanes len8, exec (.illegalOpcode w) s = .next (c.takeTrap { cause := .illegalOpcode, info := w } lanes len8)

/-! ### Scheduling and system instructions (R70 to R76, R272, R273, R319 to R327) -/

/-- R320: BARB, whatever packets and engine operations its warp has outstanding, parks until every warp of the block that has not
ended has arrived, then all of them go on. -/
def Sys2Proof.Spec.BlockBarrierResults : Prop :=
  ∀ (s : State) (c : Ctx) (k : BitVec 4), s.ctx = some c → c.admits (.barb k) = true → c.w.st ≠ .barb k.toNat →
    let arrived (w : Warp) : Prop := w.ended = true ∨ w.num = c.w.num ∨ w.st = .barb k.toNat
    ((∀ w, w ∈ c.b.warps → arrived w) → ∃ t b, exec (.barb k) s = .next t ∧ t.block? c.b.key = some b
      ∧ t.dram = s.dram ∧ b = { c.b with warps := b.warps } ∧ ∀ n w, c.b.warp? n = some w → w.ended = false →
        b.warp? n = some { w with pc := w.pc + 4, st := .ready, stepOne := false, wdog := 0 })
    ∧ ((∃ w, w ∈ c.b.warps ∧ ¬ arrived w) →
      exec (.barb k) s = .next (c.setW { c.w with st := .barb k.toNat }).commit)

/-- R70, R319: PHASE parks until every warp of the block that has not ended waits at one; then, for all of them at once, the
names outside each one's carry mask are unmapped, p1 to p7 are zero, the accumulator names, the engine and the handoff
slots are released, and each goes on after its PHASE. An index beyond the carry table, or a warp that is not converged or
is in a handler, traps. -/
def Sys2Proof.Spec.PhaseResults : Prop :=
  ∀ (s : State) (c : Ctx) (k : BitVec 4), s.ctx = some c → c.admits (.phase k) = true → (∀ j, c.w.st ≠ .phase j) →
    (k.toNat < c.b.kern.carry.length → c.w.converged = true → c.w.depth = false → (∀ o, o ∈ c.w.ops → o.st = .done) →
      ((∀ w, w ∈ c.b.warps → w.ended = true ∨ w.num = c.w.num ∨ ∃ j, w.st = .phase j) →
        (c.b.warps.map fun w => w.num).Nodup → s.gatherOf c.b.cluster = none →
        ∃ t b, exec (.phase k) s = .next t ∧ t.block? c.b.key = some b ∧ t.dram = s.dram ∧ b.holder = none
          ∧ (∀ j, b.slot j = none) ∧ b.ob = OpBuf.fresh ∧ b.scr = c.b.scr
          ∧ ∀ n w, c.b.warp? n = some w → w.ended = false → ∃ w1, b.warp? n = some w1 ∧ w1.pc = w.pc + 4
            ∧ (∀ p, p ≠ 0 → w1.pget p = 0 ∧ w1.pbad p = 0) ∧ (∀ a, (w1.aget a).tile = none) ∧ w1.s = w.s ∧ w1.m = w.m
            ∧ ∃ idx, (n = c.w.num ∧ idx = k.toNat ∨ n ≠ c.w.num ∧ w.st = .phase idx) ∧ ∀ v : Name,
              w1.vmap v = if (c.b.kern.carry.getD idx 0).getLsbD v.toNat then w.vmap v else none)
      ∧ ((∃ w, w ∈ c.b.warps ∧ ¬ (w.ended = true ∨ w.num = c.w.num ∨ ∃ j, w.st = .phase j)) →
        exec (.phase k) s = .next (c.setW { c.w with st := .phase k.toNat }).commit))
    ∧ (k.toNat < c.b.kern.carry.length → c.w.converged = true → c.w.depth = false → (∃ o, o ∈ c.w.ops ∧ o.st = .pending) →
      exec (.phase k) s = .next (c.setW { c.w with st := .phaseDrain }).commit)
    ∧ (c.b.kern.carry.length ≤ k.toNat →
      Spec.Traps s c (.phase k) { cause := .reservedField, info := BitVec.ofNat 32 (8 * 256 + k.toNat) })
    ∧ (k.toNat < c.b.kern.carry.length → (c.w.converged = false ∨ c.w.depth = true) →
      Spec.Traps s c (.phase k) { cause := .illegalConvergence, info := (Instr.phase k).firstWord })

/-- R272, R273, R321, R322, R325, R327: GETWORK asks the work distributor, VALID sets a flag of its launch, LCNT reads a
counter, and COLL starts an instance of a loaded schedule, or completes with fault kind 4, which waits while the warp holds an
older fault (R200). -/
def Sys2Proof.Spec.WorkInstructionResults : Prop :=
  ∀ (s : State) (c : Ctx) (d f sn : Name) (sig : Bool), s.ctx = some c → c.acqPending = false →
    (∀ l bar, c.admits (.getwork sig f) = true → c.w.sbad f = false → (sig = true → c.w.sbad (f + 1) = false) →
      (c.w.sget f).toNat % 4 = 0 → c.resolve (c.w.sget f) 4 = some l →
      (if sig then (c.w.sget (f + 1)).toNat % 16 = 0 ∧ c.resolve (c.w.sget (f + 1)) 16 = bar ∧ bar ≠ none else bar = none) →
      c.w.count .qry < 16 → c.canPend (linesAt l 4) = true →
      s.Runs c (.getwork sig f) (c.next 4) fun c1 => c1.s.queries = c.s.queries ++ [⟨c.s.nextSeq, c.wid, l, bar, none, false⟩]
        ∧ c1.w = { c.w with ops := c.w.ops ++ [⟨c.s.nextSeq, .qry, 0, bar.toList, .pending⟩] }
        ∧ c1.s.dram = c.s.dram ∧ ∀ k, (c1.scr k).bytes = (c.scr k).bytes)
    ∧ (∀ l r, c.admits (.valid f) = true → c.w.sbad f = false → s.launch? c.b.key.lid = some l → l.rcd = some r →
      (c.w.sget f).toNat < r.nflags → c.pendingReqs = [] → (s.setFlagBit l (c.w.sget f).toNat).2 = true →
      ∃ t l1, exec (.valid f) s = .next t ∧ t.launch? l.lid = some l1 ∧ (c.w.sget f).toNat ∈ l1.flags
        ∧ ∃ w, t.warp? c.wid = some w ∧ w.pc = c.next 4)
    ∧ (∀ l, c.admits (.lcntLaunch d) = true → c.b.kind = .kernel → s.launch? c.b.key.lid = some l →
      s.Runs c (.lcntLaunch d) (c.next 4) (c.SetS d (BitVec.ofNat 32 l.counter) false))
    ∧ (c.admits (.lcntLaunch d) = true → c.b.kind = .prologue →
      s.Runs c (.lcntLaunch d) (c.next 4) (c.SetS d 0 false))
    ∧ (∀ l id j, c.admits (.lcntJob d) = true → s.launch? c.b.key.lid = some l → l.job = some id →
      s.job? c.b.part id = some j →
      s.Runs c (.lcntJob d) (c.next 4) (Spec.SetPair c d j.counter.toNat))
    ∧ (c.admits (.coll f sn) = true → c.w.sbad f = false → c.w.sbad sn = false → c.w.sbad (sn + 1) = false →
      c.w.count .col < 4 → c.strongPending .rel .device false (fun _ => true) = false →
      let die := (c.w.sget f).toNat / 2 ^ 16 % 2
      let num := (c.w.sget f).toNat % 2 ^ 16
      let base := c.w.sget (sn + 1) ++ c.w.sget sn
      ((∃ y, y ∈ (s.engine die).scheds ∧ y.num = num ∧ y.part = c.b.part) → ∃ t w, exec (.coll f sn) s = .next t
        ∧ (t.engine die).queue = (s.engine die).queue ++ [⟨num, base, some (c.wid, s.nextSeq), none⟩]
        ∧ t.warp? c.wid = some w ∧ w.pc = c.next 4 ∧ w.ops = c.w.ops ++ [⟨s.nextSeq, .col, 0, [], .pending⟩])
      ∧ ((∀ y, y ∈ (s.engine die).scheds → y.num = num → y.part ≠ c.b.part) → ∃ t w, exec (.coll f sn) s = .next t
        ∧ t.engines = s.engines ∧ t.warp? c.wid = some w ∧ w.pc = c.next 4
        ∧ ∃ o, o ∈ w.ops ∧ o.cls = .col ∧ (o.st = .faulted ⟨4, base, 0⟩
          ∨ o.st = .withheld ⟨4, base, 0⟩ ∧ ∃ x, x ∈ c.w.ops ∧ ∃ e, x.st = .faulted e)))

/-- R64, R74, R75, R323, R324: CANCEL records a cancel of the warp's launch, once; CANCEL.job marks its job cancelled; WRAPEND
ends the warp. -/
def Sys2Proof.Spec.CancelAndWrapEndResults : Prop :=
  ∀ (s : State) (c : Ctx) (l : Launch), s.ctx = some c → s.launch? c.b.key.lid = some l →
    (c.admits .cancel = true → l.st = .running → l.ebbAt = none → l.status = none → l.counter ≠ 0 →
      ∃ t l1, exec .cancel s = .next t ∧ t.launch? l.lid = some l1 ∧ l1.ebbAt = some s.now ∧ l1.cancelled = true)
    ∧ (∀ e, c.admits .cancel = true → l.st = .ebb → l.ebbAt = some e → ∃ t l1, exec .cancel s = .next t
      ∧ t.launch? l.lid = some l1 ∧ l1.ebbAt = some e ∧ l1.cancelled = l.cancelled
      ∧ ∃ w, t.warp? c.wid = some w ∧ w.pc = c.next 4)
    ∧ (∀ id j, c.admits .cancelJob = true → l.job = some id → s.job? c.b.part id = some j →
      ∃ t, exec .cancelJob s = .next t ∧ ∀ j1, t.job? c.b.part id = some j1 → j1.cancelled = true)
    ∧ (c.admits .cancelJob = true → l.job = none → s.Runs c .cancelJob (c.next 4) (fun c1 => c1 = c))
    ∧ (c.admits .wrapend = true → c.w.ops = [] → c.holdsPoison = false →
      exec .wrapend s = .next (s.endWarp c.b c.w))

/-! ### Main memory (R147 to R150, R153, R163 to R173, R176, R184) -/

/-- Where a packet's request goes: what routing, translation, indirection and metering make of it (R163, steps 1 to 3). -/
def Sys2Proof.Spec.goes (s : State) (r : Req) : Locate := s.locate r.asker r.addr r.size r.kind.writes

/-- What a request's reply counts at when it leaves (R151, R177): its page, and the meter that the page has as the request performs,
for one that is mapped no more by then (log 28: the model's choice). -/
def Sys2Proof.Spec.boundOf (r : Req) (p : Spot) : Option Bound :=
  r.asid.map fun asid => ⟨asid, r.addr, if pteMet p.leaf then some (pteMeter p.leaf) else none⟩

/-- R147, R149, R150, R163, R168, R184, R209: a request that may perform reads, writes or updates the bytes where it goes, and their
mirror while the frame is copied, as its kind says, and nothing else of memory; a fault of its translation replies zeros with its
kind; poison, and a floating-point addition that diverges from its shadow (log 9: the model's choice), give kind 2; a page that
firmware has still to map leaves it waiting. An .rmt read of a granule that a core is recorded with waits for what had left that
core when it asked, but for packets that wait for the read itself (log 40: the model's choice). A request to another rank of the domain
takes the answer that package gives (R131, R153, log 29). -/
def Obligations.MemoryRequestResults : Prop :=
  ∀ (s : State) (seq kind : Nat) (remote : List Byte) (r : Req), s.req? seq = some r → r.st = .sent → s.inTurn r = true →
    (rankOf r.addr ≠ s.rank → s.inDomain (rankOf r.addr) = true → ∃ t,
      exec (.memoryRequest seq remote kind) s = .next t ∧ t.dram = s.dram ∧ t.blocks = s.blocks ∧ t.poison = s.poison
        ∧ t.req? seq = some { r with
          st := .performed ((List.range (replySize r.kind r.size)).map fun i =>
            (if kind = 1 ∨ kind = 4 then 0 else remote.getD i 0,
             decide (kind = 2) && remote.getD (replySize r.kind r.size + (r.addr.toNat % 32 + i) / 32) 0 == 0))
            (if kind = 0 then none else some ⟨kind, r.addr, 0⟩) none })
    ∧ (rankOf r.addr = s.rank →
    let asked (k : Nat) : Bool := r.promote.any fun x => x.1 == k
    let but := s.dependants s.reqs.length [seq]
    let due : Prop := (∀ k, k ∈ s.owners r → asked k = true)
      ∧ ∀ x, x ∈ r.promote → x.1 ∈ s.owners r → s.promoted x.1 x.2 but = true
    let served (bound : Option Bound) (P : State → List (Byte × Bool) → Option OpFault → Prop) : Prop := due → ∃ t bs f,
      exec (.memoryRequest seq remote kind) s = .next t ∧ t.req? seq = some { r with st := .performed bs f bound }
        ∧ t.blocks = s.blocks ∧ P t bs f
    ((∃ k, k ∈ s.owners r ∧ asked k = false) → ∃ ks : List Nat, (∀ k, k ∈ ks ↔ k ∈ s.owners r ∧ asked k = false) ∧ ks.Nodup
      ∧ exec (.memoryRequest seq remote kind) s = .next (s.setReq { r with promote := r.promote ++ ks.map fun k => (k, s.nextSeq) }))
    ∧ ((∀ k, k ∈ s.owners r → asked k = true) →
      (∃ x, x ∈ r.promote ∧ x.1 ∈ s.owners r ∧ s.promoted x.1 x.2 but = false) →
      exec (.memoryRequest seq remote kind) s = .next s)
    ∧ (∀ s' k, Spec.goes s r = .fault s' k →
      served none fun t bs f => t.dram = s.dram ∧ f = some ⟨k, r.addr, 0⟩
        ∧ bs = List.replicate (replySize r.kind r.size) (0, false))
    ∧ (∀ s', Spec.goes s r = .hold s' → due →
      ∃ t, exec (.memoryRequest seq remote kind) s = .next t ∧ t.req? seq = some r ∧ t.dram = s.dram)
    ∧ (∀ s' p, Spec.goes s r = .at s' p → r.kind = .read →
      served (Spec.boundOf r p) fun t bs f => t.dram = s.dram
        ∧ bs = (List.range r.size).map (fun i => (s.dram.read (p.key + i), s.poison.contains ((p.key + i) / 32)))
        ∧ f = if bs.any (·.2) then some ⟨2, r.addr, 0⟩ else none)
    ∧ (∀ s' p data mask, Spec.goes s r = .at s' p → r.kind = .write data mask → s.dram.wf = true →
      (∀ i, i < data.length → (p.key + i) / 32 ∉ s.poison ∧ ∀ m, p.mirror = some m → (m + i) / 32 ∉ s.poison) →
      served (Spec.boundOf r p) fun t bs f => bs = [] ∧ f = none ∧ ∀ a,
        let put (k : Nat) : Bool := decide (k ≤ a ∧ a < k + data.length) && mask.getLsbD (a - k)
        t.dram.read a = if p.mirror.any put then data.getD (a - p.mirror.getD 0) 0
          else if put p.key then data.getD (a - p.key) 0 else s.dram.read a)
    ∧ (∀ s' p op w64 x y, Spec.goes s r = .at s' p → r.kind = .atom op w64 x y → s.dram.wf = true →
      (w64 = false → x.toNat < 2 ^ 32 ∧ y.toNat < 2 ^ 32) →
      let n := if w64 then 8 else 4
      let f := if w64 then Fmt.f64 else Fmt.f32
      let clean : Prop := ∀ i, i < n → (p.key + i) / 32 ∉ s.poison
      let old := leNat ((List.range n).map fun i => s.dram.read (p.key + i))
      let new := if w64 then (Spec.atom 64 op (BitVec.ofNat 64 old) x y).toNat
        else (Spec.atom 32 op (BitVec.ofNat 32 old) (x.setWidth 32) (y.setWidth 32)).toNat
      let agree : Prop := (Spec.shadowOf f .rn (fun l => f.add .rn false false (l.getD 0 0) (l.getD 1 0)) (Spec.twoAdds f)
        [old, x.toNat]).differs new = false
      (clean → (∀ m, p.mirror = some m → (m + n ≤ p.key ∨ p.key + n ≤ m) ∧ ∀ i, i < n → (m + i) / 32 ∉ s.poison) →
        (op ≠ .fadd ∨ s.upset = none ∧ agree) →
        served (Spec.boundOf r p) fun t bs f => f = none ∧ leNat (bs.map (·.1)) = old
          ∧ (∀ a, ¬ (p.key ≤ a ∧ a < p.key + n) → (∀ m, p.mirror = some m → ¬ (m ≤ a ∧ a < m + n)) → t.dram.read a = s.dram.read a)
          ∧ ∀ k, (k = p.key ∨ p.mirror = some k) → leNat ((List.range n).map fun i => t.dram.read (k + i)) = new)
      ∧ ((¬ clean ∨ op = .fadd ∧ s.upset = none ∧ ¬ agree) →
        served (Spec.boundOf r p) fun t _ f => t.dram = s.dram ∧ f = some ⟨2, r.addr, 0⟩)))

/-- R56, R147, R148, R151, R177, R184, R358: an instruction that waited at hand-over does what it would have done; a reply leaves its
base die once the allowance of the meter that its page then has permits, is counted there, stands in scratchpad and completes its
operation; an acknowledgement completes its operation. -/
def Obligations.PacketCompletionResults : Prop :=
  (∀ (s : State) (c : Ctx) (w : WarpRef) (i : Instr) (e : Eff), s.cur = some (warpOf w) → s.ctx = some c → c.admits i = true →
    c.w.st = .handOver → s.fetch c.b c.w = i → c.engineOp i = some e →
    ∃ t, exec i s = .next t ∧ exec (.handedOver w) s = .next t)
  ∧ ∀ (s : State) (seq : Nat) (r : Req) (bs : List (Byte × Bool)) (f : Option OpFault) (bound : Option Bound),
    s.req? seq = some r → r.st = .performed bs f bound → r.dead = false →
    (∀ w, s.warp? r.wid = some w → ∀ o, o ∈ w.ops → o.seq = seq → o.cls = .pkt) →
    -- the stack and the meter at which the reply counts
    let meter (k m : Nat) : Prop := ∃ b, bound = some b ∧ k = stackOf b.addr
      ∧ match (s.translate k b.asid (offsetOf b.addr)).2 with
        | .ok leaf _ => pteMet leaf = true ∧ m = pteMeter leaf
        | _ => b.meter = some m
    let counted (k m : Nat) : Nat := (lookupN (s.die k).partials m).getD 0 + bs.length
    let allowed : Prop := bs = [] ∨ ∀ k m, meter k m → counted k m ≤ (lookupN (s.die k).allow m).getD 0
    let done (t : State) : Prop := t.req? seq = none ∧ t.dram = s.dram
      ∧ ∀ w, t.warp? r.wid = some w → ∀ o, o ∈ w.ops → o.seq = seq → o.st = match f with | some e => .faulted e | none => .done
    ((∃ d m, r.kind = .write d m) → ∃ t, exec (.packetAcknowledgement seq) s = .next t ∧ done t)
    ∧ ((∀ d m, r.kind ≠ .write d m) →
      (allowed → ∃ t, exec (.packetReply seq) s = .next t ∧ done t
        ∧ (∀ k m, bs ≠ [] → meter k m → k < 8 → lookupN (t.die k).partials m = some (counted k m))
        ∧ ∀ l b, r.dest = some l → r.sig = none → s.block? l.blk = some b → b.scr.bytes.wf = true → ∀ o,
          Spec.byteAt t l.blk o = if l.off ≤ o ∧ o < l.off + bs.length then (bs.getD (o - l.off) (0, false)).1
            else Spec.byteAt s l.blk o)
      ∧ (¬ allowed → exec (.packetReply seq) s = .next s))

/-- R166, R168, R169, R177, R368: firmware resolves or refuses a page it was told of, takes translations away, enables an
identifier in its partition's stacks and disables it there. Entries that would change a valid entry outside the range, stand outside
the tables, map a table (R167) or a frame reserved for a peer's (R170), or bind another partition's meter, are not written. That a page is refused and its requests fault, and that such a write leaves everything as
it was, is the model's choice of log 25. -/
def Sys2Proof.Spec.TranslationEventResults : Prop :=
  ∀ (s : State) (stack asid page n : Nat) (entries : List (Nat × BitVec 64)) (frame : Option Nat) (part : Nat)
    (roots : List (BitVec 64)) (p : Partition),
    let t0 := s.writeEntries stack entries
    let said : Prop := ∀ r, r ∈ s.rings → r.unsaid = false
    let may (inv : Option (Nat × Nat × Nat)) : Bool := s.mayWrite t0 stack inv && t0.placesOk stack entries
    (∀ f leaf pages, s.pageFault? stack asid page = some f → s.walk stack asid (65536 * page) = .unmapped false →
      t0.walk stack asid (65536 * page) = .ok leaf pages → may none = true → said →
      ∃ t, exec (.faultResolution stack asid page entries frame) s = .next t ∧ t.dram = t0.dram
        ∧ t.pageFault? stack asid page = none)
    ∧ (∀ f, s.pageFault? stack asid page = some f → s.walk stack asid (65536 * page) = .unmapped false →
      ((∀ leaf pages, t0.walk stack asid (65536 * page) ≠ .ok leaf pages) ∨ may none = false) → said →
      ∃ t f1, exec (.faultResolution stack asid page entries frame) s = .next t ∧ t.dram = s.dram
        ∧ t.pageFault? stack asid page = some f1 ∧ f1.refused = true)
    ∧ (may (some (asid, page, n)) = false →
      exec (.translationInvalidation stack asid page n entries) s = .next s)
    ∧ (may (some (asid, page, n)) = true →
      ∃ t, exec (.translationInvalidation stack asid page n entries) s = .next t ∧ t.dram = t0.dram
        ∧ (∀ e pages f, (e, pages) ∈ t.leaves stack → pteFrame e ≤ f → f < pteFrame e + pages →
            f ∉ t.tableFrames stack ∧ f ∉ t.reservedFrames stack)
        ∧ ∀ q, page ≤ q → q < page + n → (t.die stack).tlb? asid q = none)
    ∧ (s.part? part = some p → p.first + p.n ≤ 8 → asid < 4096 → rootsOk p.n roots = true →
      (∀ i, i < 8 → (s.die i).rootValid asid = false) →
      (∀ i, i < p.n → (s.writeRoots p asid roots).tablesOk (p.first + i) = true) →
      ∃ t, exec (.asidEnable part asid roots) s = .next t ∧ t.dram = s.dram
        ∧ ∀ i e, roots[i]? = some e → lookupN (t.die (p.first + i)).root asid = some e)
    ∧ (s.part? part = some p → p.first + p.n ≤ 8 → asid ≠ p.fwAsid →
      (∀ j, j ∈ s.jobs → j.part = part → j.asid ≠ asid) →
      (∀ e q, e ∈ s.engines.toList → q ∈ e.scheds → q.part = part → q.asid ≠ asid) →
      ∃ t, exec (.asidDisable part asid) s = .next t ∧ t.dram = s.dram ∧ ∀ i, i < p.n →
        lookupN (t.die (p.first + i)).root asid = none ∧ ∀ q, (t.die (p.first + i)).tlb? asid q = none)

/-- R165, R170, R171, R173: a frame starts to move, into one that no table of the peer maps and no other moved frame occupies, its granules are copied one by one, the switch serves it at its new place,
and it may return; a notification's acknowledgement clears its counters; a scrub corrects a granule. -/
def Sys2Proof.Spec.MigrationEventResults : Prop :=
  ∀ (s : State) (stack frame loc pframe granule : Nat), stack < 8 →
    let x := (s.die stack).frame frame
    ((∃ p, p ∈ s.parts ∧ p.hasStack stack = true ∧ p.hasStack loc = true) → stack ≠ loc → frame ≤ 732420 → pframe ≤ 732420 →
      x.state = 0 → s.reservable loc pframe = true → ∃ t, exec (.copyOut stack frame loc pframe) s = .next t ∧ t.dram = s.dram
        ∧ (t.die stack).frame frame = { x with state := 1, loc := loc, pframe := pframe, copied := 0 })
    ∧ (s.reservable loc pframe = false → exec (.copyOut stack frame loc pframe) s = .next s)
    ∧ (x.state = 2 → ∃ t, exec (.copyBack stack frame) s = .next t ∧ t.dram = s.dram
      ∧ (t.die stack).frame frame = { x with state := 3, copied := 0 })
    ∧ (∀ ss sf ds df, x.state = 1 ∧ (ss, sf) = (stack, frame) ∧ (ds, df) = (x.loc, x.pframe)
        ∨ x.state = 3 ∧ (ss, sf) = (x.loc, x.pframe) ∧ (ds, df) = (stack, frame) → x.copied < 2048 → s.dram.wf = true →
      let src := 2 ^ 36 * ss + 65536 * sf + 32 * x.copied
      let dst := 2 ^ 36 * ds + 65536 * df + 32 * x.copied
      ∃ t, exec (.migrationGranuleCopy stack frame) s = .next t
        ∧ (t.die stack).frame frame = { x with copied := x.copied + 1 }
        ∧ ∀ a, t.dram.read a = if dst ≤ a ∧ a < dst + 32 then s.dram.read (src + (a - dst)) else s.dram.read a)
    ∧ (x.copied = 2048 → (x.state = 1 ∨ x.state = 3) →
      ∃ t, exec (.migrationSwitch stack frame) s = .next t ∧ t.dram = s.dram
        ∧ (t.die stack).frame frame = { x with state := if x.state = 1 then 2 else 0, copied := 0 })
    ∧ (∃ t, exec (.mqAck stack frame) s = .next t ∧ t.dram = s.dram
      ∧ (t.die stack).frame frame = { x with queued := false, ctr := Vector.replicate 8 0 })
    ∧ (∃ t, exec (.scrub stack granule) s = .next t ∧ t.dram = s.dram ∧ t.poison = s.poison
      ∧ lookupN t.symErr (2 ^ 31 * stack + granule) = none)

/-! ### Engine events (R189 to R194, R250 to R257, R272, R321) -/

/-- An operation of a warp is no longer outstanding: each of that number has completed, or holds its fault, which waits where the
warp holds one already (R200). -/
def Sys2Proof.Spec.Completed (s t : State) (w : WarpId) (seq : Nat) (f : Option OpFault) : Prop :=
  ∀ x0 x, s.warp? w = some x0 → t.warp? w = some x → ∀ o, o ∈ x.ops → o.seq = seq → match f with
    | some e => o.st = .faulted e ∨ o.st = .withheld e ∧ ∃ y, y ∈ x0.ops ∧ ∃ d, y.st = .faulted d
    | none => o.st = .done

/-- R131, R139, R189 to R194: an element write of a copy moves its bytes, to scratchpad or to memory, and is done; after a read that
fails with kind 3, or before a destination in memory with kind 1 or 4, nothing is written; poison that would reach memory raises
POISON_CONSUMED; a SIGNAL performs once the writes before it are done; a copy whose writes and SIGNALs are all done
completes. What link credit an element takes is the model's choice of log 29. -/
def Sys2Proof.Spec.CopyEventResults : Prop :=
  ∀ (s : State) (seq entry pass elem targ rkind wkind : Nat) (remote : List Byte) (x : Copy), s.copy? seq = some x → x.dead = false →
    let ix : ElemIx := ⟨entry, pass, elem, targ⟩
    (∀ r s' bs fr, shapeAt x.chain entry = some r → ix ∉ x.done → pass < passesOf x.chain entry → elem < r.elems →
      targ < r.targets → s.reduceReady x r ix = true →
      s.copyRead x r ix (r.places x.chain entry pass elem).1 remote rkind = (s', some (bs, fr)) →
      let to_ := (r.places x.chain entry pass elem).2
      (∀ k, fr = some k → (k = 3 ∨ r.dstMem = true ∧ (k = 1 ∨ k = 4)) →
        ∃ t x1, exec (.copyElementWrite seq entry pass elem targ remote rkind wkind) s = .next t ∧ t.dram = s'.dram
          ∧ t.blocks = s'.blocks ∧ t.copy? seq = some x1 ∧ ix ∈ x1.done ∧ x1.fault.isSome = true)
      ∧ (∀ c l b, fr = none → r.dstMem = false → r.redop = 0 → s'.ctxOf x.wid = some c → c.elemLoc (to_.setWidth 32) r.e = some l →
        s'.block? l.blk = some b → b.scr.bytes.wf = true →
        ∃ t x1, exec (.copyElementWrite seq entry pass elem targ remote rkind wkind) s = .next t ∧ t.dram = s'.dram
          ∧ t.copy? seq = some x1 ∧ ix ∈ x1.done ∧ x1.fault = x.fault ∧ ∀ o, Spec.byteAt t l.blk o =
            if l.off ≤ o ∧ o < l.off + bs.length then (bs.getD (o - l.off) (0, false)).1 else Spec.byteAt s' l.blk o)
      ∧ (fr = none → r.dstMem = true → bs.any (·.2) = true → exec (.copyElementWrite seq entry pass elem targ remote rkind wkind) s =
        .next ((s'.setCopy { x with done := ix :: x.done }).asyncMCheck x.wid .poisonConsumed))
      ∧ (∀ s1' s2 b2 f, fr = none → r.dstMem = true → r.repl = 0 → bs.any (·.2) = false → s'.copyCredit x true to_ = some s1' →
        s1'.copyToMem x r to_ (bs.map (·.1)) wkind = .reply s2 b2 f →
        ∃ t x1, exec (.copyElementWrite seq entry pass elem targ remote rkind wkind) s = .next t ∧ t.dram = s2.dram
          ∧ t.blocks = s2.blocks ∧ t.copy? seq = some x1 ∧ ix ∈ x1.done))
    ∧ (∀ arv bar, x.chain[entry]? = some (.signal arv bar) → (entry, pass) ∉ x.sigs → pass < passesOf x.chain entry →
      (x.done.filter fun i => before x.chain i.entry i.pass entry pass).length = writesBefore x.chain entry pass →
      ∃ t x1, exec (.copySignal seq entry pass) s = .next t ∧ t.dram = s.dram ∧ t.copy? seq = some x1
        ∧ (entry, pass) ∈ x1.sigs ∧ x1.done = x.done)
    ∧ (x.done.length = totalWrites x.chain → x.sigs.length = (signalsOf x.chain).length →
      ∃ t, exec (.copyCompletion seq) s = .next t ∧ t.dram = s.dram ∧ t.copy? seq = none
        ∧ Spec.Completed s t x.wid seq (x.fault.map (·.2)))

/-- R253, R255, R272, R321: the work distributor gives each index once and then the end token, and its answer stands in
scratchpad and completes the query; an engine step accumulates into its tile, and shows its flags to no SRD yet (R317), or raises SHADOW;
a transfer fills its tiles. -/
def Sys2Proof.Spec.QueryAndMatrixEventResults : Prop :=
  (∀ (s : State) (seq : Nat) (bad : Bool) (q : Query) (l : Launch) (r : LaunchRec), s.query? seq = some q → q.answer = none →
    (∀ o, o ∈ s.queries → o.wid = q.wid → o.dead = q.dead → o.answer = none → seq ≤ o.seq) → s.launch? q.wid.blk.lid = some l → l.rcd = some r →
    let given := l.ebbAt = none ∧ l.work < r.work
    ∃ t l1 q1, exec (.workDistributorAnswer seq bad) s = .next t ∧ t.dram = s.dram ∧ t.launch? l.lid = some l1 ∧ t.query? seq = some q1
      ∧ (given → l1 = { l with work := l.work + 1 } ∧ (bad = false → q1.answer = some (BitVec.ofNat 32 l.work, false)))
      ∧ (¬ given → l1 = l ∧ (bad = false → q1.answer = some (0xFFFFFFFF#32, false)))
      ∧ (bad = true → q1.answer = some (0xFFFFFFFF#32, true)))
  ∧ (∀ (s : State) (seq : Nat) (q : Query) (x : Word) (bad : Bool) (b : Block), s.query? seq = some q → q.answer = some (x, bad) →
    q.dead = false → q.sig = none → s.block? q.dest.blk = some b → b.scr.bytes.wf = true →
    ∃ t, exec (.getworkAnswer seq) s = .next t ∧ t.dram = s.dram ∧ t.query? seq = none
      ∧ leNat ((List.range 4).map fun i => Spec.byteAt t q.dest.blk (q.dest.off + i)) = x.toNat
      ∧ (∀ o, ¬ (q.dest.off ≤ o ∧ o < q.dest.off + 4) → Spec.byteAt t q.dest.blk o = Spec.byteAt s q.dest.blk o)
      ∧ Spec.Completed s t q.wid seq (if bad then some ⟨2, scrAddr q.wid.blk q.dest, 0⟩ else none))
  ∧ (∀ (s : State) (lid gang num ix : Nat) (b : Block) (st : Step) (c : Ctx) (tile : Tile) (ea eb : List (List Elt)) (o : StepOut)
      (flt : Option DWord), s.block? ⟨lid, gang, num⟩ = some b → b.steps[ix]? = some st → s.ctxOf st.wid = some c →
    b.tile? st.tile = some tile → b.stepReady ix st = true →
    c.sideElts (pairSides st.fmt).1 st.a st.k0 st.kEnd s.fresh = some ea →
    c.sideElts (pairSides st.fmt).2 st.b st.k0 st.kEnd (s.fresh + 3072) = some eb →
    (st.apply ⟨ea, eb⟩ tile s.upset = none → exec (.matrixStepComplete lid gang num ix) s =
      .next (({ s with upset := none }.setBlock { b with steps := b.steps.eraseIdx ix }).asyncMCheck st.wid .shadow))
    ∧ (st.apply ⟨ea, eb⟩ tile s.upset = some (o, flt) → ∃ t b1, exec (.matrixStepComplete lid gang num ix) s = .next t ∧ t.dram = s.dram ∧ t.block? ⟨lid, gang, num⟩ = some b1
      ∧ b1.steps = b.steps.eraseIdx ix ∧ (∀ u, b1.tile? st.tile = some u → u = o.tile) ∧ b1.rows = b.rows ∧ b1.scr = b.scr
      ∧ ∀ w, t.warp? st.wid = some w → w.flg = c.w.flg))
  ∧ (∀ (s : State) (lid gang num seq : Nat) (b : Block) (x : Xfer) (c : Ctx), s.block? ⟨lid, gang, num⟩ = some b →
    b.xfers.find? (fun y => y.seq == seq) = some x → s.ctxOf x.wid = some c → b.xferBlocked x = false →
    ∃ t b1, exec (.accumulatorTransferComplete lid gang num seq) s = .next t ∧ t.dram = s.dram
      ∧ t.block? ⟨lid, gang, num⟩ = some b1 ∧ b1.xfers = b.xfers.filter (fun y => y.seq != seq) ∧ b1.rows = b.rows
      ∧ Spec.Completed s t x.wid seq none
      ∧ ∀ id u k, x.load = true → x.tiles.Nodup → x.tiles[k]? = some id → b1.tile? id = some u → k < x.el.length →
        ∀ e : Fin 256, u.el[e] = ((x.el.getD k []).getD e (0, false)).1)

/-! ### Rings and the merge (R276 to R282) -/

/-- R276, R277, R279, R280: registration within its limits gives a running ring with every index zero, and beyond them changes
nothing; deregistration takes a ring away, its packet in hand and its launches going on without it, and waits while the page of its
header does (log 36: the model's choice); reset runs a halted ring from the given RPTR, and the ring looks at its head; a hold is
kept by its group. That a halted ring in a repetition waits after its reset, and that a repetition between two passes ends its packet
with its ring, are the model's choices (log 26). -/
def Sys2Proof.Spec.RingRequestResults : Prop :=
  (∀ (s : State) (ring k group part vec : Nat) (hdr body : DWord),
    let r : Ring := ⟨ring, hdr, body, k, group, part, vec, .running, .running, 0, 0, 0, 0, 0, none, none, none, false⟩
    let s1 : State := { s with
      rings := s.rings ++ [r]
      timeSet := true
      groups := if (s.group? group).isSome then s.groups else s.groups ++ [⟨group, 0, none⟩] }
    let fine : Prop := s.boot = 5 ∧ s.bootErr = false ∧ ring < 4096 ∧ s.ring? ring = none ∧ s.deviceMemory hdr = true
      ∧ hdr.toNat % 64 = 0 ∧ 7 ≤ k ∧ k ≤ 19 ∧ s.deviceMemory body = true ∧ body.toNat % (32 * 2 ^ k) = 0 ∧ group < 256
      ∧ (s.part? part).isSome = true ∧ ∀ x, x ∈ s.rings → x.group = group → x.part = part
    (fine → (s1.fwWrite [1, ring] part hdr (List.replicate 4 0 ++ r.header)).2 ≠ none →
      ∃ t, exec (.ringRegistration ring hdr body k group part vec) s = .next t ∧ t.ring? ring = some r
        ∧ t.timeSet = true ∧ (t.group? group).isSome = true ∧ t.blocks = s.blocks ∧ t.launches = s.launches)
    ∧ (¬ fine → exec (.ringRegistration ring hdr body k group part vec) s = .next s))
  ∧ ∀ (s : State) (ring : Nat) (r : Ring) (rptr : Word), s.ring? ring = some r →
    (let wait := (s.watchWaits.fwWrite [1, ring] r.part (r.hdr + 4) ({ r with st := .unregistered, rep := none } : Ring).header).2 = none;
      (¬ wait → ∃ t, exec (.ringDeregistration ring) s = .next t ∧ t.ring? ring = none ∧ t.blocks = s.blocks
        ∧ t.launches = s.launches.map (fun l => if l.origin = .ring (some ring) then { l with origin := .ring none } else l)
        ∧ (∀ n, n ≠ ring → t.ring? n = s.watchWaits.ring? n)
        ∧ (∀ p k, r.rep = some p → p.ready = true → k ∈ t.taken → k.lid = p.lid → k.ended = true)
        ∧ ∀ n g k, s.group? n = some g → g.busy = some k → ∃ g1, t.group? n = some g1
          ∧ g1.busy = some (if k.ring = some ring then { k with ring := none } else k))
      ∧ (wait → ∃ t, exec (.ringDeregistration ring) s = .next t ∧ t.rings = s.watchWaits.rings ∧ t.groups = s.groups))
    ∧ (let r1 : Ring := { r with st := if r.rep = none then .running else .waiting, err := 0, rptr, head := none }
      (r.st = .halted → ∃ t r2, exec (.ringReset ring rptr) s = .next t ∧ t.ring? ring = some r2 ∧ t.blocks = s.blocks
        ∧ r2.rptr = rptr ∧ (r2.st = .halted ∨ r2.err = 0) ∧ (r.wptr = rptr → r2 = { r1 with unsaid := r2.unsaid }))
      ∧ (r.st ≠ .halted → exec (.ringReset ring rptr) s = .next s))
    ∧ ∀ g ns, s.group? r.group = some g →
      (ns ≤ 65535 → ∃ t, exec (.holdRequest r.group ns r.part) s = .next t ∧ t.group? r.group = some { g with hold := ns }
        ∧ t.rings = s.rings ∧ t.dram = s.dram)
      ∧ (65535 < ns → exec (.holdRequest r.group ns r.part) s = .next s)

/-- R278, R280 to R282: a doorbell reads the ring's WPTR, and a re-read does so for a ring that runs or waits; a SKIP is passed
over; and of a group's eligible head packets the merge takes the first by priority, timestamp and ring number, moving its
ring's RPTR past it and giving a LAUNCH its identifier. -/
def Sys2Proof.Spec.RingEventResults : Prop :=
  (∀ (s : State) (ring : Nat) (r : Ring), s.ring? ring = some r →
    (∀ s1 bs, s.fwRead [2, ring] r.part r.hdr 4 = (s1, some bs) → ∃ t r1, exec (.doorbell ring) s = .next t ∧ t.ring? ring = some r1
      ∧ r1.wptr = BitVec.ofNat 32 (leNat bs) ∧ r1.rptr = r.rptr ∧ t.blocks = s.blocks)
    ∧ (s.rings = [r] → r.unsaid = false → r.st = .running ∨ r.st = .waiting → exec .wptrReread s = exec (.doorbell ring) s)
    ∧ (∀ s1 h, r.st = .running → s.headHeader r = (s1, some h) → pkType h = 7 → r.check h = 0 → pkLen h ≤ r.occ →
      ∃ t r1, exec (.skipPacket ring) s = .next t ∧ t.ring? ring = some r1 ∧ r1.rptr = r.rptr + BitVec.ofNat 32 (pkLen h)
        ∧ r1.wptr = r.wptr ∧ r1.lastTs = r.lastTs ∧ r1.job = r.job ∧ t.blocks = s.blocks ∧ t.launches = s.launches ∧ t.dues = s.dues))
  ∧ (∀ s : State, ∃ t, exec .wptrReread s = .next t ∧ t.blocks = s.blocks ∧ t.launches = s.launches)
  ∧ ∀ (s : State) (group : Nat) (g : Group) (r : Ring) (bs : List Byte),
    let s1 := s.sayRings.watchWaits.examineGroup group
    s1.group? group = some g → g.busy = none → firstTaken (s1.eligible g) = some (r, bs) →
    (∀ y, y ∈ s1.eligible g → pkPri y.2 < pkPri bs ∨ pkPri y.2 = pkPri bs ∧ (pkTs bs < pkTs y.2 ∨ pkTs bs = pkTs y.2 ∧ r.num ≤ y.1.num))
    ∧ ∃ t g1 k r1, exec (.mergeTake group) s = .next t ∧ t.group? group = some g1 ∧ g1.busy = some k ∧ k.ring = some r.num
      ∧ k.part = r.part ∧ k.vec = r.vec ∧ k.packet = bs ∧ k.late = r.head.any (·.late)
      ∧ t.ring? r.num = some r1 ∧ r1.rptr = r.rptr + BitVec.ofNat 32 (pkLen bs) ∧ r1.lastTs = BitVec.ofNat 64 (pkTs bs)
      ∧ r1.wptr = r.wptr ∧ t.blocks = s.blocks
      ∧ (pkType bs = 1 → k.lid = some s1.nextLid ∧ t.nextLid = s1.nextLid + 1
        ∧ ∃ l, l ∈ t.launches ∧ l.lid = s1.nextLid ∧ l.tag = pkTag bs ∧ l.packet = bs ∧ l.st = .prologue)
      ∧ (pkType bs ≠ 1 → k.lid = none ∧ t.launches = s1.launches)

/-- The condition of a WAITCNT (R285): the counter of the ring's partition's job is at least V, 0 where no such job is open; or the
latest LAUNCH packet taken from the ring and with the tag it names has ended. -/
def Sys2Proof.Spec.waits (s : State) (part : Nat) (bs : List Byte) : Prop :=
  if pkBody bs 0 4 = 0 then
    pkArg bs ≤ match s.job? part (BitVec.ofNat 32 (pkBody bs 4 4)) with | some j => j.counter.toNat | none => 0
  else ∃ k, s.taken.find? (fun k => decide (k.ring = pkBody bs 8 8 / 2 ^ 32 % 4096 ∧ k.tag.toNat = pkBody bs 8 8 % 2 ^ 32)) = some k
    ∧ k.ended = true

/-- R279, R285: a WAITCNT with every unit written, at the head of a ring that looks at it. Its timeout counts from the first such
look; once it has passed while the condition does not hold it stays passed; the ring runs where the condition holds or the timeout
has passed, and else waits. The packet taken then completes COMPLETED or, where the timeout passed first, TIMEOUT (`late`). -/
def Sys2Proof.Spec.WaitcntHeadResults : Prop :=
  ∀ (s s1 s2 : State) (r : Ring) (h bs : List Byte), s.ring? r.num = some r → r.st = .running ∨ r.st = .waiting → r.rep = none →
    r.occ ≤ 2 ^ r.k → s.headHeader r = (s1, some h) → r.check h = 0 → s1.headPacket r = (s2, some bs) → pkType bs = 3 →
    waitcntOk bs = true → (∀ w, r.head = some w → w.packet = bs) →
    let since := match r.head with | some w => w.since | none => s.now
    let timeout := pkBody bs 0x10 8
    ∃ r1 w, (s.examine r).ring? r.num = some r1 ∧ r1.head = some w ∧ w.since = since ∧ w.packet = bs
      ∧ (w.late = true ↔ r.head.any (·.late) = true ∨ timeout ≠ 0 ∧ since + timeout ≤ s.now ∧ ¬ Spec.waits s r.part bs)
      ∧ (r1.st = .running ↔ Spec.waits s r.part bs ∨ w.late = true) ∧ (r1.st = .waiting ↔ ¬ Spec.waits s r.part bs ∧ w.late = false)
      ∧ r1.rptr = r.rptr ∧ (s.examine r).blocks = s.blocks

/-! ### Packets of the front end (R284, R285, R290 to R292) -/

/-- The packet in a group's hand is answered: its record is due with a status and a reason, and the group goes on. -/
def Sys2Proof.Spec.Answered (s : State) (group : Nat) (k : Taking) (st : Status) (reason : Nat) (t : State) : Prop :=
  (∃ d, t.dues = s.dues ++ [d] ∧ d.status = st ∧ d.reason = reason ∧ d.compl = pkCompl k.packet ∧ d.tag = pkTag k.packet
    ∧ d.irq = pkIrq k.packet ∧ d.part = k.part ∧ d.vec = k.vec ∧ d.lid = none)
  ∧ (∀ g, t.group? group = some g → g.busy = none)

/-- The launch is over with a status and a reason before it was admitted. -/
def Sys2Proof.Spec.Refused (lid : Nat) (st : Status) (reason : Nat) (t : State) : Prop :=
  t.pass? lid = none ∧ ∃ l, t.launch? lid = some l ∧ l.status = some (st, reason)

/-- R284, R285, R290, R292: a LAUNCH starts its first pass on a free scalar core as R292 says, or is malformed, cancelled or
rejected; a JOB becomes its ring's current job, or is answered as R285 says. -/
def Obligations.LaunchAndJobPacketResults : Prop :=
  ∀ (s : State) (group : Nat) (k : Taking), s.inHand group = some k →
    (∀ l, k.lid = some l.lid → s.launch? l.lid = some l → s.pass? l.lid = none → l.status = none → (∃ n, l.origin = .ring n) →
      let cancelled : Prop := ∃ id j, l.job = some id ∧ s.job? l.part id = some j ∧ j.cancelled = true
      let fine : Prop := pkLen k.packet = 7 ∧ pkArg k.packet = 0
      (¬ fine → ∃ t, exec (.launchPacket group) s = .next t ∧ Spec.Refused l.lid .malformed 0 t)
      ∧ (fine → cancelled → ∃ t, exec (.launchPacket group) s = .next t ∧ Spec.Refused l.lid .cancelled 0 t)
      ∧ (fine → ¬ cancelled → s.prologueOf l = none →
        ∃ t, exec (.launchPacket group) s = .next t ∧ Spec.Refused l.lid .rejected 3 t)
      ∧ (∀ rc p core, fine → ¬ cancelled → s.prologueOf l = some (rc, p) → s.freeCore (s.dieOfPart l.part) = some core →
        ∃ t q b w, exec (.launchPacket group) s = .next t ∧ t.pass? l.lid = some q ∧ q.start = none ∧ q.fcore = core
          ∧ t.blocks = s.blocks ++ [b] ∧ b.key = ⟨l.lid, 0, 0⟩ ∧ b.kind = .prologue ∧ b.warps = [w] ∧ w.pc = 0
          ∧ t.launches = s.launches ∧ t.dram = s.dram
          ∧ (∀ n : Name, w.sget n = if n.toNat < 16 then rc.params.getD n.toNat 0 else if n.toNat = 16 then BitVec.ofNat 32 l.lid
            else if n.toNat = 17 then BitVec.ofNat 32 (l.lid / 2 ^ 32) else if n.toNat = 18 then BitVec.ofNat 32 l.pass else 0)
          ∧ ∀ o, b.scr.bytes.read o = if o < 0xC0 then l.packet.getD (0x20 + o) 0 else 0))
    ∧ (pkType k.packet = 2 →
      let a := pkArg k.packet
      let id : Word := BitVec.ofNat 32 a
      let tenancy := a / 2 ^ 48 % 2 ^ 16
      (s.jobOk k.part k.packet = false → ∃ t, exec (.jobPacket group) s = .next t ∧ Spec.Answered s group k .malformed 0 t)
      ∧ (s.jobOk k.part k.packet = true → tenancy ≠ 0 → s.retired = true →
        ∃ t, exec (.jobPacket group) s = .next t ∧ Spec.Answered s group k .rejected 2 t)
      ∧ (s.jobOk k.part k.packet = true → (tenancy ≠ 0 → s.retired = false) →
        (∀ j, s.job? k.part id = some j → ∃ t, exec (.jobPacket group) s = .next t ∧ Spec.Answered s group k .completed 0 t
          ∧ ∀ n r, k.ring = some n → s.ring? n = some r → r.part = k.part → ∃ j1 r1, t.job? k.part id = some j1
            ∧ j1.counter = j.counter ∧ j1.cancelled = j.cancelled ∧ j1.asid = j.asid ∧ t.ring? n = some r1 ∧ r1.job = some id)
        ∧ (∀ s1 allow, s.job? k.part id = none → s.readAllow group k.part ((s.tenancy? k.part tenancy).map (·.key)) tenancy
            (BitVec.ofNat 64 (pkBody k.packet 0 8)) = (s1, some (some allow)) →
          ∃ t, exec (.jobPacket group) s = .next t ∧ Spec.Answered s group k .completed 0 t
          ∧ ∀ n r, k.ring = some n → s.ring? n = some r → r.part = k.part → ∃ j r1, t.job? k.part id = some j ∧ j.counter = 0
            ∧ j.cancelled = false ∧ j.asid = a / 2 ^ 32 % 2 ^ 12 ∧ j.tenancy = tenancy ∧ j.allow = allow
            ∧ t.ring? n = some r1 ∧ r1.job = some id)
        ∧ (∀ s1, s.job? k.part id = none → s.readAllow group k.part ((s.tenancy? k.part tenancy).map (·.key)) tenancy
            (BitVec.ofNat 64 (pkBody k.packet 0 8)) = (s1, some none) →
          ∃ t, exec (.jobPacket group) s = .next t ∧ Spec.Answered s1 group k .rejected 2 t)))

/-- No block of a gang is left. -/
def Sys2Proof.Spec.Gone (lid gang : Nat) (t : State) : Prop := ∀ b, b ∈ t.blocks → b.inGang lid gang = false

/-- A warp diverted to the wrap-up entry (R137, R274, R307): the program counter it had, or that of its trap, is kept, and the mask
is of its live lanes. -/
def Sys2Proof.Spec.Diverted (entry : Nat) (w w1 : Warp) : Prop :=
  w1.inWrap = true ∧ w1.pc = BitVec.ofNat 32 entry ∧ w1.ebbpc = (if w.depth = true then w.tpc else w.pc)
    ∧ w1.m = w.launched &&& ~~~w.exited ∧ w1.stack = [] ∧ w1.halted = false ∧ w1.exited = w.exited ∧ w1.depth = false

/-- A warp that a diversion passes over (R307). -/
def Sys2Proof.Spec.passedOver (w : Warp) : Prop := w.ended = true ∨ w.inWrap = true ∨ w.st = .drain

/-- What an expiry or a cancel of an admitted launch does at E = now (R74, R307, R308): gangs never placed are DISCARDED; with a
wrap-up entry, resident warps are diverted to it, and parked and saved gangs stay as they are and wait to resume; without one, the
gangs that are placed are killed and end, and those parked or saved are DISCARDED. -/
def Sys2Proof.Spec.Ebb (s : State) (l : Launch) (cancel : Bool) (t : State) : Prop :=
  (∃ l1, t.launch? l.lid = some l1 ∧ l1.ebbAt = some s.now ∧ l1.cancelled = cancel ∧ (∀ g, g ∈ l1.gangs → g.st ≠ .unplaced)
    ∧ ((l.gangs.map fun g => g.idx).Nodup → ∀ g, g ∈ l.gangs → ∃ g1, g1 ∈ l1.gangs ∧ g1.idx = g.idx ∧ g1.st = match g.st, l.wrap with
        | .unplaced, _ => .discarded
        | .placed, none => .ended
        | .parked, none | .saved, none => .discarded
        | st, _ => st))
  ∧ (∀ entry, l.wrap = some entry →
    (∀ b, b ∈ s.blocks → b.kind = .kernel → b.key.lid = l.lid → b.st = .resident → (b.warps.map fun w => w.num).Nodup →
      ∃ b1, b1 ∈ t.blocks ∧ b1.key = b.key ∧ ∀ w, w ∈ b.warps → ∃ w1, w1 ∈ b1.warps ∧ w1.num = w.num
        ∧ (Spec.passedOver w → w1 = w) ∧ (¬ Spec.passedOver w → Spec.Diverted entry w w1))
    ∧ ∀ b, b ∈ s.blocks → (b.kind = .kernel → b.key.lid = l.lid → b.st ≠ .resident) →
      ∃ b1, b1 ∈ t.blocks ∧ b1 = { b with boundary := b1.boundary })
  ∧ (l.wrap = none → ∀ g, g ∈ l.gangs → (g.st = .placed ∨ g.st = .parked ∨ g.st = .saved) → Spec.Gone l.lid g.idx t)

/-- R74, R75, R285, R348, R360: WAITCNT ends with its condition or its timeout; SIGNAL writes its value or starts a schedule,
ABSENT where there is no Tideway; CANCEL cancels a launch that has not ended or a job, and is answered with reason 1 where
there is none; METERSNAP is answered with reason 7 for a meter the ring may not read, and else enters the queue of at most 64
signing requests, which the security processor serves; a packet against its table is MALFORMED. -/
def Sys2Proof.Spec.PacketAnswerResults : Prop :=
  ∀ (s : State) (group : Nat) (k : Taking), s.inHand group = some k →
    let bs := k.packet
    let a := pkArg bs
    let ends (i : Instr) (st : Status) (reason : Nat) (P : State → Prop) : Prop :=
      ∃ t, exec i s = .next t ∧ Spec.Answered s group k st reason t ∧ P t
    (pkType bs = 3 → (waitcntOk bs = false → ends (.waitcnt group) .malformed 0 fun _ => True)
      ∧ (waitcntOk bs = true → (k.late = false → ends (.waitcnt group) .completed 0 fun t => t.dram = s.dram)
        ∧ (k.late = true → ends (.waitcntTimeout group) .timeout 0 fun t => t.dram = s.dram)))
    ∧ (pkType bs = 4 → signalKind bs ≠ 1 → (signalOk bs = false → ends (.signalWrite group) .malformed 0 fun t => t.dram = s.dram)
      ∧ (∀ s1 f, signalOk bs = true → s.fwWrite [8, group] k.part (BitVec.ofNat 64 (pkBody bs 8 8)) (leBytes 8 a) = (s1, some f) →
        ends (.signalWrite group) (if f = none then .completed else .rejected) (if f = none then 0 else 8) fun t => t.dram = s1.dram))
    ∧ (pkType bs = 4 → signalKind bs = 1 → signalOk bs = false → ends (.signalStart group) .malformed 0 fun t => t.dram = s.dram)
    ∧ (pkType bs = 4 → signalKind bs = 1 → signalOk bs = true →
      let die := pkBody bs 8 8 / 2 ^ 16 % 2
      let num := pkBody bs 8 8 % 2 ^ 16
      (s.hasTideway = false → ends (.signalStart group) .absent 0 fun t => t.engines = s.engines)
      ∧ (s.hasTideway = true → (∀ y, y ∈ (s.engine die).scheds → y.num = num → y.part ≠ k.part) →
        ends (.signalStart group) .malformed 0 fun t => t.engines = s.engines)
      ∧ (s.hasTideway = true → (∃ y, y ∈ (s.engine die).scheds ∧ y.num = num ∧ y.part = k.part) →
        ∃ t d, exec (.signalStart group) s = .next t ∧ t.dues = s.dues ∧ d.compl = pkCompl bs ∧ d.tag = pkTag bs
          ∧ (t.engine die).queue = (s.engine die).queue ++ [⟨num, BitVec.ofNat 64 (pkBody bs 0x10 8), none, some d⟩]))
    ∧ (pkType bs = 5 → a / 2 ^ 62 = 0 → a / 2 ^ 44 % 2 ^ 18 = 0 → pkLen bs = 1 →
      (s.taken? (a / 2 ^ 32 % 4096) (BitVec.ofNat 32 a) = none → ends (.cancelLaunch group) .completed 1 fun t => t.launches = s.launches)
      ∧ ∀ x l, s.taken? (a / 2 ^ 32 % 4096) (BitVec.ofNat 32 a) = some x → s.launch? x.lid = some l →
        (x.ended = true → ends (.cancelLaunch group) .completed 1 fun t => t.launches = s.launches)
        ∧ (x.ended = false → l.st = .prologue → l.status = none → (∃ n, l.origin = .ring n) → ∃ t l1, exec (.cancelLaunch group) s = .next t
          ∧ t.launch? x.lid = some l1 ∧ l1.status = some (.cancelled, 0))
        ∧ (x.ended = false → (l.st = .queued ∨ l.st = .running) → l.ebbAt = none → l.status = none → l.counter ≠ 0 →
          ∃ t, exec (.cancelLaunch group) s = .next t ∧ t.dram = s.dram ∧ Spec.Ebb s l true t))
    ∧ (pkType bs = 5 → cancelOk bs = false → (a / 2 ^ 62 ≠ 1 → ends (.cancelLaunch group) .malformed 0 fun t => t.jobs = s.jobs)
      ∧ (a / 2 ^ 62 = 1 → ends (.cancelJobPacket group) .malformed 0 fun t => t.jobs = s.jobs))
    ∧ (pkType bs = 5 → a / 2 ^ 62 = 1 → a / 2 ^ 32 % 2 ^ 30 = 0 → pkLen bs = 1 →
      (s.job? k.part (BitVec.ofNat 32 a) = none → ends (.cancelJobPacket group) .completed 1 fun t => t.launches = s.launches)
      ∧ ∀ j, s.job? k.part (BitVec.ofNat 32 a) = some j → ∃ t, exec (.cancelJobPacket group) s = .next t
        ∧ ∀ j1, t.job? k.part j.id = some j1 → j1.cancelled = true)
    ∧ (pkType bs = 6 → metersnapOk bs = false → ends (.metersnap group) .malformed 0 fun t => t.dram = s.dram)
    ∧ (pkType bs = 6 → metersnapOk bs = true →
      (s.mayRead k a = false → ends (.metersnap group) .rejected 7 fun t => t.dram = s.dram ∧ t.seqNum = s.seqNum)
      ∧ (s.mayRead k a = true → s.signQ.length < 64 → ∃ t q, exec (.metersnap group) s = .next t ∧ t.signQ = s.signQ ++ [q]
        ∧ q.meter = a ∧ q.part = k.part ∧ q.dest = BitVec.ofNat 64 (pkBody bs 0 8) ∧ q.record = none ∧ q.due.compl = pkCompl bs
        ∧ q.due.tag = pkTag bs ∧ q.due.status = .completed ∧ q.due.reason = 0 ∧ t.dram = s.dram ∧ t.dues = s.dues
        ∧ t.seqNum = s.seqNum ∧ ∀ g, t.group? group = some g → g.busy = none)
      ∧ (s.mayRead k a = true → 64 ≤ s.signQ.length → ∃ t, exec (.metersnap group) s = .next t ∧ t.inHand group = some k
        ∧ t.signQ.length ≤ s.signQ.length))

/-- R359, R360: the security processor serves the oldest signing request: it takes the next number and samples the meter once,
signs, writes the record, and the completion record is due; while the page of the record waits, the signed record does. That a
request whose write of the record faults has its number all the same and completes COMPLETED is the model's choice of log 28. -/
def Sys2Proof.Spec.SigningQueueResults : Prop :=
  ∀ (s : State) (group : Nat) (q : SignReq) (rest : List SignReq), s.inHand group = none → s.signQ = q :: rest →
    let fresh := s.nextNumber
    let from_ := match q.record with | some _ => s | none => fresh
    let bs := match q.record with | some bs => bs | none => fresh.signed 1 (s.seqNum + 1) (fresh.snapBody q.meter)
    let n := match q.record with | some _ => s.seqNum | none => s.seqNum + 1
    (∀ s1 f, from_.fwWrite [11] q.part q.dest bs = (s1, some f) → ∃ t, exec (.metersnap group) s = .next t ∧ t.signQ = rest
      ∧ t.dues = s.dues ++ [q.due] ∧ t.dram = s1.dram ∧ t.seqNum = n)
    ∧ (∀ s1, from_.fwWrite [11] q.part q.dest bs = (s1, none) → ∃ t, exec (.metersnap group) s = .next t
      ∧ t.signQ = { q with record := some bs } :: rest ∧ t.dues = s.dues ∧ t.seqNum = n)

/-- R286, R287: the 32 bytes of a completion record. -/
def Sys2Proof.Spec.CompletionRecordBytes : Prop :=
  ∀ (d : Due) (now : Nat), d.reason < 256 → d.pass < 2 ^ 16 → d.ident < 2 ^ 64 → now < 2 ^ 64 → d.flags < 2 ^ 32 →
    let bs := d.bytes now
    bs.length = 32 ∧ fieldAt bs 1 1 = d.reason ∧ fieldAt bs 2 2 = d.pass ∧ fieldAt bs 4 4 = d.tag.toNat ∧ fieldAt bs 8 8 = d.ident
      ∧ fieldAt bs 16 8 = now ∧ fieldAt bs 24 4 = d.flags ∧ fieldAt bs 28 4 = 0
      ∧ (fieldAt bs 0 1, d.status) ∈ [(0, Status.completed), (1, .rejected), (2, .cancelled), (3, .expired), (4, .budgetExceeded),
        (5, .gangFailed), (6, .absent), (7, .malformed), (8, .prologueFault), (9, .prologueTimeout), (10, .timeout)]

/-- A launch record keeps its limits, for a code object and the kernel it names (R52, R290). -/
def Sys2Proof.Spec.recordFine (bs : List Byte) (co : CodeObj) (k : Kernel) : Prop :=
  let f := fieldAt bs
  let entry := f 0x4C 4
  f 0x0A 2 < co.prologues.length ∧ f 0x0C 4 < 16
    ∧ 1 ≤ f 0x30 4 ∧ f 0x30 4 ≤ 65536 ∧ 1 ≤ f 0x34 4 ∧ f 0x34 4 ≤ 65536 ∧ 1 ≤ f 0x38 4 ∧ f 0x38 4 ≤ 256
    ∧ f 0x3C 1 = k.g ∧ f 0x3D 1 = 0 ∧ (f 0x3E 2 = 0 ∨ 32 * (k.w - 1) < f 0x3E 2 ∧ f 0x3E 2 ≤ 32 * k.w)
    ∧ f 0x58 8 % 4 = 0 ∧ f 0x60 2 ≤ 1024 ∧ f 0x62 1 ≤ 16 ∧ f 0x63 29 = 0
    ∧ f 0x30 4 * f 0x34 4 * f 0x38 4 * f 0x3C 1 ≤ 2 ^ 31
    ∧ (entry = 0xFFFFFFFF ∨ entry % 4 = 0 ∧ entry < k.codeSize)
    ∧ ((entry ≠ 0xFFFFFFFF ∨ k.wrap ≠ none) → f 0x50 4 ≠ 0 ∨ k.budget ≠ 0)

/-- R290, R291, R299: the verdict on a submitted record of 192 bytes, in the order of its checks: a registered object of its HASH,
its limits, its job, the allow-list and the debug bit of a metered one, the resources, the share and the slack. -/
def Sys2Proof.Spec.RecordVerdicts : Prop :=
  ∀ (s : State) (l : Launch) (bs : List Byte),
    let f := fieldAt bs
    let v := s.judge l (parseRecord bs)
    let hash : BitVec 256 := BitVec.ofNat 256 (f 0x10 32)
    let debug : Bool := f 0x0C 4 / 2 % 2 == 1
    let code := s.code? l.part (BitVec.ofNat 64 (f 0 8))
    (code = none → v = .rejected 3)
    ∧ ∀ co, code = some co → (co.hash ≠ hash → v = .rejected 3)
      ∧ (co.hash = hash → (co.kernels.length ≤ f 8 2 → v = .malformed)
        ∧ ∀ k, co.kernels[f 8 2]? = some k → (¬ Spec.recordFine bs co k → v = .malformed)
          ∧ (Spec.recordFine bs co k →
            (l.job = none → v = .rejected 6)
            ∧ ∀ id j p, l.job = some id → s.job? l.part id = some j → s.part? l.part = some p →
              let listed : Prop := j.tenancy ≠ 0 → hash ∈ j.allow
              let open_ : Prop := j.tenancy ≠ 0 → debug = false
              let large : Prop := 48 < f 0x3C 1
                ∨ 524288 < (k.v + 127) / 128 * 128 + k.w * k.q * 128 + if debug then k.w * 0x2000 else 0
              let late : Prop := p.shareOf (f 0x0C 4 / 4 % 4) = 0 ∨ s.slack p (f 0x0C 4 / 4 % 4) (f 0x40 8) (f 0x48 4) < 0
              (¬ listed → v = .rejected 2) ∧ (listed → ¬ open_ → v = .rejected 4) ∧ (listed → open_ → large → v = .rejected 5)
              ∧ (listed → open_ → ¬ large → late → v = .rejected 1) ∧ (listed → open_ → ¬ large → ¬ late → v = .admitted k)))

/-- R73, R286, R290 to R292, R328: LGO and LREPEAT submit the record in the scratch area and end the pass, LCANCEL ends it
cancelled, and 10 µs after its first instruction it times out (its ring may be gone meanwhile); a repetition's next pass takes a new
identifier; and a due record is written, its vector sent, the job's counter raised and its launch complete, and its packet ended where
no further pass starts (R285). That the vector and the completion wait for the page of the record but not for that of the counter's
mirror, whose write then stays due alone with the counter's value, is the model's choice of log 33. -/
def Sys2Proof.Spec.PrologueResults : Prop :=
  (∀ (s : State) (c : Ctx) (l : Launch) (again : Bool) (i : Instr), s.ctx = some c → c.b.kind = .prologue →
    s.launch? c.b.key.lid = some l → (∃ n, l.origin = .ring n) → (again = false ∧ i = .lgo ∨ again = true ∧ i = .lrepeat) →
    c.admits i = true →
    let r := parseRecord (c.b.scr.get 0 0xC0)
    ((∃ o, o ∈ c.w.ops ∧ o.st = .pending) → exec i s = .next (c.setW { c.w with st := .waitc .pkt 0 }).commit)
    ∧ ((∀ o, o ∈ c.w.ops → o.st = .done) →
      (l.status = none → s.judge l r = .malformed → ∃ t, exec i s = .next t ∧ Spec.Refused l.lid .malformed 0 t)
      ∧ (∀ n, l.status = none → s.judge l r = .rejected n → ∃ t, exec i s = .next t ∧ Spec.Refused l.lid .rejected n t)
      ∧ (∀ k, s.judge l r = .admitted k → (s.zeroFlags l r).2 = true →
        ∃ t l1, exec i s = .next t ∧ t.pass? l.lid = none ∧ t.launch? l.lid = some l1 ∧ l1.st = .queued ∧ l1.rcd = some r
          ∧ l1.kern = some k ∧ l1.counter = r.x * r.y * r.z * r.g ∧ l1.repeats = again ∧ l1.work = 0 ∧ l1.status = l.status
          ∧ ∀ b, b ∈ t.blocks → b.key.lid = l.lid → b.kind ≠ .prologue)))
  ∧ (∀ (s : State) (c : Ctx) (l : Launch), s.ctx = some c → s.launch? c.b.key.lid = some l → l.status = none →
    (∃ n, l.origin = .ring n) → c.admits .lcancel = true → ∃ t, exec .lcancel s = .next t ∧ Spec.Refused l.lid .cancelled 0 t)
  ∧ (∀ (s : State) (l : Launch) (q : Pass) (t0 : Nat), s.launch? l.lid = some l → l.status = none →
    (∃ n, l.origin = .ring n) → s.pass? l.lid = some q → q.start = some t0 →
    (t0 + 10000 ≤ s.now → ∃ t, exec (.prologueTimeout l.lid) s = .next t ∧ Spec.Refused l.lid .prologueTimeout 0 t)
    ∧ (s.now < t0 + 10000 → exec (.prologueTimeout l.lid) s = .next s))
  ∧ (∀ (s : State) (ring core : Nat) (r : Ring) (p : Repetition) (old : Launch) (rc : LaunchRec) (pr : Prologue),
    s.ring? ring = some r → r.rep = some p → p.ready = true → s.launch? p.lid = some old → s.launch? s.nextLid = none →
    s.prologueOf old = some (rc, pr) → s.freeCore (s.dieOfPart old.part) = some core →
    ∃ t l1, exec (.repetitionPass ring) s = .next t ∧ t.nextLid = s.nextLid + 1 ∧ t.launch? s.nextLid = some l1
      ∧ l1.pass = p.pass ∧ l1.packet = old.packet ∧ l1.st = .prologue ∧ l1.status = none ∧ (t.pass? s.nextLid).isSome = true
      ∧ t.ring? ring = some { r with rep := some { p with lid := s.nextLid, ready := false } })
  ∧ (∀ (s : State) (ix : Nat) (d : Due), s.dues[ix]? = some d →
    let irqs := if d.irq = true then s.irqs ++ [d.vec] else s.irqs
    let written := s.fwWriteAt [6] d.part d.compl (d.bytes s.now)
    (∀ a v, d.mirror = some (a, v) →
      let w := s.writeMirror d.part (s.dues.take ix) a v
      ∃ t, exec (.completionRecord ix) s = .next t ∧ t.irqs = s.irqs ∧ t.dram = w.1.dram
        ∧ t.dues = if w.2 = true then s.dues.eraseIdx ix else s.dues)
    ∧ (d.mirror = none →
    (∀ s1, d.lid = none → written = (s1, true) →
      ∃ t, exec (.completionRecord ix) s = .next t ∧ t.dues = s.dues.eraseIdx ix ∧ t.irqs = irqs ∧ t.dram = s1.dram)
    ∧ (written.2 = false → ∃ t, exec (.completionRecord ix) s = .next t ∧ t.dues = s.dues ∧ t.irqs = s.irqs)
    ∧ ∀ l s1, d.lid = some l.lid → s.launch? l.lid = some l → written = (s1, true) →
      let s2 := (s1.clearDue ix d).countJob l
      let more : Prop := l.repeats = true ∧ l.cancelled = false ∧ ∃ r p, r ∈ s.rings ∧ r.rep = some p ∧ p.lid = l.lid
      ∃ t l1, exec (.completionRecord ix) s = .next t ∧ t.irqs = irqs ∧ t.launch? l.lid = some l1 ∧ l1.st = .complete
        ∧ (∀ id j j1, l.job = some id → s.job? l.part id = some j → t.job? l.part id = some j1 → j1.counter = j.counter + 1)
        ∧ (¬ more → ∀ k, k ∈ t.taken → k.lid = l.lid → k.ended = true)
        ∧ match l.job.bind (s2.job? l.part) with
          | none => t.dues = s.dues.eraseIdx ix
          | some j => t.dues = s.dues.eraseIdx ix ++
              if (s2.writeMirror l.part s2.dues j.jcnt j.counter).2 = true then [] else [{ d with mirror := some (j.jcnt, j.counter) }]))

/-! ### The scheduler (R140, R142, R302 to R305, R307, R311) -/

/-- Free warp slots of a core that holds some blocks (R53). -/
def Sys2Proof.Spec.freeSlots (bs : List Block) : Nat := 16 - (bs.flatMap fun b => if b.onCore then b.live else []).length

/-- A core that holds some blocks has the slots and the scratchpad of another free, and no other block with its handoff or its
matrix flag (R54, R82, R159, R237). -/
def Sys2Proof.Spec.takes (bs : List Block) (n : Need) : Prop :=
  n.slots ≤ Spec.freeSlots bs ∧ (bs.map fun b => (b.kern.alloc b.debug + 4095) / 4096 * 4096).sum + n.scratch ≤ 524288
    ∧ (n.handoff = true → ∀ b, b ∈ bs → b.onCore = true → b.kern.handoff = false)
    ∧ (n.matrix = true → ∀ b, b ∈ bs → b.onCore = true → b.kern.matrix = false)

/-- Distinct cores of a cluster, one for each of some blocks, each of which can take its own. -/
def Sys2Proof.Spec.seats (ok : Nat → Need → Prop) (needs : List Need) (ks : List Nat) : Prop :=
  ks.length = needs.length ∧ ks.Nodup
    ∧ ∀ (i k : Nat) (n : Need), ks[i]? = some k → needs[i]? = some n → k < 48 ∧ ok k n

/-- R303's core rule: in sr.block order each block takes, of the cores that leave one for every later block, that with the fewest
free warp slots, and of equals the lowest. -/
def Sys2Proof.Spec.bestFit (s : State) (c : Nat) (allowed : Nat → Prop) (needs : List Need) (ks : List Nat) : Prop :=
  let ok := Spec.seats (fun k n => allowed k ∧ Spec.takes (s.blocksOn c k) n) needs
  let free (k : Nat) := Spec.freeSlots (s.blocksOn c k)
  ok ks ∧ ∀ (js : List Nat) (i a b : Nat), ok js → js.take i = ks.take i → ks[i]? = some a → js[i]? = some b →
    free a < free b ∨ (free a = free b ∧ a ≤ b)

/-- A parked or saved gang of a launch in EBB waits in a cluster (R307). -/
def Sys2Proof.Spec.ebbAhead (s : State) (c : Nat) : Prop :=
  ∃ l g, l ∈ s.launches ∧ l.ebbAt ≠ none ∧ g ∈ l.gangs ∧ g.cluster = c ∧ (g.st = .parked ∨ g.st = .saved)

/-- A gang that waits for placement, with its launch, record and kernel. -/
structure Sys2Proof.Spec.Waiter where
  l : Launch
  r : LaunchRec
  k : Kernel
  gang : Nat

/-- The gangs of a partition that wait for placement (R302, R304): of an admitted launch not in EBB, before its deadline, a gang to
be placed again and the first that has never been placed. -/
def Sys2Proof.Spec.queues (s : State) (p : Partition) (x : Spec.Waiter) : Prop :=
  x.l ∈ s.launches ∧ x.l.part = p.first ∧ x.l.rcd = some x.r ∧ x.l.kern = some x.k ∧ (x.l.st = .queued ∨ x.l.st = .running)
    ∧ x.l.status = none ∧ s.now < x.r.deadline
    ∧ ((∃ g, g ∈ x.l.gangs ∧ g.st = .unplaced ∧ g.idx = x.gang) ∨ (x.gang = x.l.next ∧ x.gang < x.r.x * x.r.y * x.r.z))

/-- R302's key, D_j less the rounded-up time that the rest of the cost takes on the partition's share. -/
def Sys2Proof.Spec.key (p : Partition) (x : Spec.Waiter) : Int :=
  let d := p.cores * p.shareOf x.r.pri
  (x.r.deadline : Int) - ((x.l.rem * 16 + d - 1) / d : Nat)

/-- Dispatch order, by the four keys of R302 in turn. -/
def Sys2Proof.Spec.before (p : Partition) (x y : Spec.Waiter) : Prop :=
  y.r.pri < x.r.pri ∨ (x.r.pri = y.r.pri ∧ (Spec.key p x < Spec.key p y ∨ (Spec.key p x = Spec.key p y
    ∧ (x.l.lid < y.l.lid ∨ (x.l.lid = y.l.lid ∧ x.gang < y.gang)))))

/-- A waiting gang can go on cores of a cluster (R303, R305, R307): not ahead of a gang in EBB, and in a cluster in gather only where
the gather is its own and on its target. -/
def Sys2Proof.Spec.canGo (s : State) (p : Partition) (x : Spec.Waiter) (c : Nat) (ks : List Nat) : Prop :=
  c < s.clusters ∧ p.hasCluster c = true ∧ ¬ Spec.ebbAhead s c
    ∧ (match s.gatherFor x.l.lid x.gang with | some g => g.cluster = c | none => s.gatherOf c = none)
    ∧ Spec.bestFit s c (fun j => ∀ g, s.gatherFor x.l.lid x.gang = some g → j ∈ g.target)
      (List.replicate x.r.g (x.k.need x.r.debug)) ks

/-- Free warp slots of a cluster. -/
def Sys2Proof.Spec.clusterFree (s : State) (c : Nat) : Nat :=
  ((List.range 48).map fun k => Spec.freeSlots (s.blocksOn c k)).sum

/-- Blocks that have to leave some cores of a cluster for a candidate of a priority (R305). -/
def Sys2Proof.Spec.moves (s : State) (pri c : Nat) (ks : List Nat) : Nat :=
  (ks.map fun k => ((s.blocksOn c k).filter fun b => s.yields b pri).length).sum

/-- A target set for a candidate: a cluster of the partition that is not in gather, and distinct cores that can take its blocks when
those that may be moved have gone (R305). -/
def Sys2Proof.Spec.gatherOn (s : State) (p : Partition) (x : Spec.Waiter) (c : Nat) (ks : List Nat) : Prop :=
  c < s.clusters ∧ p.hasCluster c = true ∧ s.gatherOf c = none
    ∧ Spec.seats (fun k n => Spec.takes ((s.blocksOn c k).filter fun b => !s.yields b x.r.pri) n)
      (List.replicate x.r.g (x.k.need x.r.debug)) ks

/-- A candidate whose 50 µs have passed (R305): the first waiting gang of its launch, which fits no cluster, without a gather. -/
def Sys2Proof.Spec.candidate (s : State) (p : Partition) (x : Spec.Waiter) (w0 : Nat) : Prop :=
  Spec.queues s p x ∧ (∀ g, Spec.queues s p { x with gang := g } → x.gang ≤ g) ∧ x.l.w0 = some w0 ∧ w0 + 50000 ≤ s.now
    ∧ s.gatherFor x.l.lid x.gang = none ∧ ∀ c ks, ¬ Spec.canGo s p x c ks

/-- R52, R302 to R305: of the gangs that wait, the first in dispatch order that fits is placed on the cluster left with the fewest
free warp slots and there on the best-fit cores, its blocks fresh; the first candidate in dispatch order is granted gather on the
cluster, with a target set, that needs the fewest blocks moved; and at a gather's limit nothing that yields stays running on a target
core. That a fresh block's p1 to p7 hold 0 is the model's choice (log 6), and so is what of R302 to R305 log 22 reads from their
words: which cores leave one for every later block, that an ended block's allocation counts as one to move, and where the free part of
a scratchpad begins. -/
def Sys2Proof.Spec.PlacementEventResults : Prop :=
  (∀ (s : State) (part : Nat), s.part? part = none →
    exec (.gangPlacement part) s = .next s ∧ exec (.gatherGrant part) s = .next s)
  ∧ (∀ (s : State) (cluster : Nat), s.gatherOf cluster = none → exec (.gatherPreemption cluster) s = .next s)
  ∧ (∀ (s : State) (part : Nat) (p : Partition), s.part? part = some p →
    (s.launches.map fun l => l.lid).Nodup →
    ((∀ x c ks, Spec.queues s p x → ¬ Spec.canGo s p x c ks) → ∃ t, exec (.gangPlacement part) s = .next t ∧ t.blocks = s.blocks)
    ∧ (∀ x c ks, Spec.queues s p x → (∀ y d js, Spec.queues s p y → Spec.canGo s p y d js → ¬ Spec.before p y x) →
      Spec.canGo s p x c ks → (∀ d js, Spec.canGo s p x d js → Spec.clusterFree s c < Spec.clusterFree s d
        ∨ (Spec.clusterFree s c = Spec.clusterFree s d ∧ c ≤ d)) →
      ∃ t l1 g1, exec (.gangPlacement part) s = .next t ∧ t.dram = s.dram ∧ t.launch? x.l.lid = some l1 ∧ l1.gang? x.gang = some g1
        ∧ g1.st = .placed ∧ g1.cluster = c ∧ l1.st ≠ .queued ∧ ∀ num core, ks[num]? = some core →
          ∃ b, b ∈ t.blocks ∧ b.key = ⟨x.l.lid, x.gang, num⟩ ∧ b.cluster = c ∧ b.core = core ∧ b.st = .resident ∧ b.kern = x.k
            ∧ b.warps.length = x.k.w ∧ ∀ w, w ∈ b.warps → w.pc = 0 ∧ w.ended = false ∧ w.flg = 0
              ∧ (∀ q : PName, q ≠ 0 → w.pget q = 0) ∧ (∀ n : Name, x.k.rows.getLsbD n.toNat = false → w.vmap n = none))
    ∧ (∀ x w0, Spec.candidate s p x w0 → (∃ c ks, Spec.gatherOn s p x c ks) →
      (∀ y v d js, Spec.candidate s p y v → Spec.gatherOn s p y d js → ¬ Spec.before p y x) →
      ∃ t g, exec (.gatherGrant part) s = .next t ∧ t.blocks = s.blocks ∧ t.gathers = s.gathers ++ [g] ∧ g.lid = x.l.lid
        ∧ g.gang = x.gang ∧ g.limit = max (w0 + 500000) (s.now + 450000) ∧ Spec.gatherOn s p x g.cluster g.target
        ∧ ∀ c ks, Spec.gatherOn s p x c ks → Spec.moves s x.r.pri g.cluster g.target < Spec.moves s x.r.pri c ks
          ∨ (Spec.moves s x.r.pri g.cluster g.target = Spec.moves s x.r.pri c ks ∧ g.cluster ≤ c))
    ∧ ((∀ x w0 c ks, Spec.candidate s p x w0 → ¬ Spec.gatherOn s p x c ks) →
      ∃ t, exec (.gatherGrant part) s = .next t ∧ t.gathers = s.gathers))
  ∧ ∀ (s : State) (cluster : Nat) (g : Gather), s.gatherOf cluster = some g →
    ((g.preempted = true ∨ s.now < g.limit) → exec (.gatherPreemption cluster) s = .next s)
    ∧ (g.preempted = false → g.limit ≤ s.now → ∃ t, exec (.gatherPreemption cluster) s = .next t ∧ t.launches = s.launches
      ∧ t.dram = s.dram ∧ ∀ b, b ∈ t.blocks → b.kind = .kernel → b.st = .resident → b.cluster = cluster →
        g.target.contains b.core = true → s.yields b ((((s.launch? g.lid).bind (·.rcd)).map (·.pri)).getD 0) = false)

/-- R140, R141, R142, R303: a stopped gang whose operations have completed is saved, with an image of each block where firmware
places it and the rest of memory as it was, its rows and scratchpad freed; and a parked gang comes back as it was, a saved one as
its images in memory give it. Where an image can no longer be read the gang is lost, which is the model's choice (log 32), as are
which of several cores a gang comes back on (log 22) and where an image keeps what the spec gives no field (log 32). -/
def Sys2Proof.Spec.SaveAndResumeResults : Prop :=
  ∀ (s : State) (lid gang : Nat),
    let all := s.gangBlocks lid gang
    let bs := all.filter fun b => b.st != .ended
    (∀ places : List Nat, bs ≠ [] → (∀ b, b ∈ bs → b.st = .saving ∧ b.drained = true) → places.length = bs.length →
      (∀ x : Block × Nat, x ∈ bs.zip places → s.saveArea x.1.part x.2 x.1.image.length = true) →
      s.dram.wf = true → ∃ t, exec (.preemptMid lid gang places) s = .next t
        ∧ (∀ b, b ∈ t.blocks → b.inGang lid gang = true → (b.st = .saved ∧ b.rows = [] ∧ b.scr.bytes = Memory.empty
          ∧ ∃ x : Block × Nat, x ∈ bs.zip places ∧ x.1.key = b.key ∧ b.area = some (x.2, x.1.image.length)) ∨ b.st = .ended)
        ∧ (∀ a, (∀ x : Block × Nat, x ∈ bs.zip places → a < x.2 ∨ x.2 + x.1.image.length ≤ a) → t.dram.read a = s.dram.read a)
        ∧ ∀ (i : Nat) (x : Block × Nat), (bs.zip places)[i]? = some x →
          (∀ g, g ∈ granulesOf x.2 x.1.image.length → s.poison.contains g = false) →
          (∀ (j : Nat) (y : Block × Nat), (bs.zip places)[j]? = some y → j ≠ i →
            y.2 + y.1.image.length ≤ x.2 ∨ x.2 + x.1.image.length ≤ y.2) →
          t.dram.readN x.2 x.1.image.length = x.1.image)
    ∧ (∀ places, (∃ b, b ∈ bs ∧ (b.st ≠ .saving ∨ b.drained = false)) → exec (.preemptMid lid gang places) s = .next s)
    ∧ ∀ l g, s.launch? lid = some l → l.gang? gang = some g → (g.st = .parked ∨ g.st = .saved) → l.ebbAt = none →
      let place := Spec.bestFit s g.cluster (fun k => ∀ x, s.gatherOf g.cluster = some x → k ∉ x.target) (all.map Block.need)
      ((Spec.ebbAhead s g.cluster ∨ ∀ ks, ¬ place ks) → exec (.resume lid gang) s = .next s)
      ∧ ∀ ks, ¬ Spec.ebbAhead s g.cluster → place ks → (s.blocks.map fun b => b.key).Nodup →
        (∀ back, all.mapM s.rebuilt = some back → all.any s.imageBad = false →
          ∃ t l1 g1, exec (.resume lid gang) s = .next t ∧ t.dram = s.dram ∧ t.launch? lid = some l1 ∧ l1.gang? gang = some g1
            ∧ g1.st = .placed ∧ ∀ (i core : Nat) (b : Block), back[i]? = some b → ks[i]? = some core → ∃ b1, t.block? b.key = some b1
              ∧ b1.core = core ∧ b1.rows = b.rows ∧ b1.scr = b.scr ∧ b1.slots = b.slots
              ∧ b1.st = (if b.st = .ended then .ended else .resident)
              ∧ b1.warps.map (fun w => { w with slot := 0, wdog := 0 }) = b.warps.map (fun w => { w with
                slot := 0, wdog := 0 }))
        ∧ ((all.mapM s.rebuilt = none ∨ all.any s.imageBad = true) → (∃ b, b ∈ all ∧ b.st = .saved) →
          ∃ t, exec (.resume lid gang) s = .next t ∧ t.dram = s.dram ∧ Spec.Gone lid gang t)

/-- R307, R308, R311: an expiry records E = now, discards gangs never placed and diverts the resident warps to the wrap-up entry, or
kills them where there is none; a parked or saved gang of a launch in EBB comes back straight into wrap-up, and where it has no room
the gangs that yield on the target set of fewest moves stop at once; at E + B nothing of the launch is left; a warp whose counter has
reached the limit loses its gang. Which cores earlier gangs in EBB claim, and that a gang being saved already is not stopped again,
are the model's choices (logs 22 and 32). -/
def Obligations.DeadlineEventResults : Prop :=
  (∀ (s : State) (lid : Nat) (l : Launch), s.launch? lid = some l →
    (∀ r, l.rcd = some r →
      (s.now < r.deadline → exec (.expiry lid) s = .next s)
      ∧ (r.deadline ≤ s.now → (l.st = .queued ∨ l.st = .running) → l.ebbAt = none → l.status = none → l.counter ≠ 0 →
        ∃ t, exec (.expiry lid) s = .next t ∧ t.dram = s.dram ∧ Spec.Ebb s l false t))
    ∧ (∀ e, l.ebbAt = some e → l.status = none →
      (s.now < e + l.budget → exec (.budgetEnd lid) s = .next s)
      ∧ (e + l.budget ≤ s.now → ∃ t, exec (.budgetEnd lid) s = .next t ∧ t.dram = s.dram
        ∧ (∀ g, g ∈ l.gangs → (g.st = .placed ∨ g.st = .parked ∨ g.st = .saved) → Spec.Gone lid g.idx t)
        ∧ ((l.gangs.map fun g => g.idx).Nodup → ∀ l1, t.launch? lid = some l1 → ∀ g, g ∈ l.gangs →
          (g.st = .parked ∨ g.st = .saved) → ∃ g1, g1 ∈ l1.gangs ∧ g1.idx = g.idx ∧ g1.st = .discarded)))
    ∧ ∀ gang g pri entry, l.gang? gang = some g → (g.st = .parked ∨ g.st = .saved) → l.ebbAt ≠ none → l.wrap = some entry →
      l.rcd.map (·.pri) = some pri →
      let all := s.gangBlocks lid gang
      let needs := all.map Block.need
      let room := Spec.seats (fun k n => k ∉ s.ebbClaims l gang g.cluster
        ∧ Spec.takes ((s.blocksOn g.cluster k).filter fun b => !s.yields b pri) n) needs
      (∀ ks back, Spec.bestFit s g.cluster (fun _ => True) needs ks → (s.blocks.map fun b => b.key).Nodup →
        all.mapM s.rebuilt = some back → all.any s.imageBad = false →
        ∃ t, exec (.resume lid gang) s = .next t ∧ t.dram = s.dram ∧ ∀ (i core : Nat) (b : Block), back[i]? = some b → ks[i]? = some core →
          ∃ b1, t.block? b.key = some b1 ∧ b1.core = core ∧ (b.st ≠ .ended → (b.warps.map fun w => w.num).Nodup →
            b1.st = .resident ∧ ∀ w, w ∈ b.warps → ∃ w1, w1 ∈ b1.warps ∧ w1.num = w.num
              ∧ (Spec.passedOver w → w1 = { w with slot := w1.slot, wdog := w1.wdog })
              ∧ (¬ Spec.passedOver w → Spec.Diverted entry w w1)))
      ∧ ((∀ ks, ¬ Spec.bestFit s g.cluster (fun _ => True) needs ks) → ∃ t, exec (.resume lid gang) s = .next t
        ∧ t.launches = s.launches ∧ t.dram = s.dram ∧ ((∀ js, ¬ room js) → t.blocks = s.blocks)
        ∧ ((∃ js, room js) → ∃ js, room js ∧ (∀ ks, room ks → Spec.moves s pri g.cluster js ≤ Spec.moves s pri g.cluster ks)
          ∧ ∀ b, b ∈ t.blocks → b.kind = .kernel → b.cluster = g.cluster → b.core ∈ js → b.st = .resident → s.yields b pri = false)))
  ∧ ∀ (s : State) (w : WarpRef) (b : Block) (x : Warp) (p : Partition) (l : Launch) (g : Gang),
    s.block? ⟨w.lid, w.gang, w.num⟩ = some b → b.warp? w.warp = some x → s.part? b.part = some p → b.kind = .kernel →
    x.ended = false → b.onCore = true → s.launch? w.lid = some l → l.gang? w.gang = some g →
    let n := p.wdog.toNat % 2 ^ 16
    ((n = 0 ∨ x.wdog < 4096 * n) → exec (.watchdog w) s = .next s)
    ∧ (n ≠ 0 → 4096 * n ≤ x.wdog → ∃ t, exec (.watchdog w) s = .next t ∧ t.dram = s.dram ∧ Spec.Gone w.lid w.gang t)

/-! ### Debug, machine checks and the tick (R138, R141, R143, R144, R146, R212, R318) -/

/-- R141, R143, R144, R326: a stopped gang goes on, a BRK it stands at retired, with the causes the debugger selects; a stopped warp
may run one instruction or undo its last; and a block's image is read and written. That an image which does not fit the block is
refused and leaves the state as it was, and that a step back waits for the warp's engine operations, are the model's choices
(log 35). -/
def Sys2Proof.Spec.DebugEventResults : Prop :=
  ∀ (s : State) (lid gang num warp : Nat) (b : Block) (x : Warp) (causes : List Nat), s.block? ⟨lid, gang, num⟩ = some b →
    b.kind = .kernel → b.warp? warp = some x → x.ended = false →
    let keeps (i : Instr) (P : State → Block → Prop) : Prop :=
      ∃ t b1, exec i s = .next t ∧ t.dram = s.dram ∧ t.block? ⟨lid, gang, num⟩ = some b1 ∧ P t b1
    let atBrk : Bool := s.fetch b x == .brk
    let passed : Warp := { x with pc := x.pc + 4, wdog := 0, st := .ready, stepOne := false }
    (∀ l r, s.launch? lid = some l → l.rcd = some r →
      (r.debug = false → exec (.debugResume lid gang causes) s = .next s)
      ∧ (r.debug = true → keeps (.debugResume lid gang causes) fun t b1 =>
        (∃ l1, t.launch? lid = some l1 ∧ l1.dbgCauses = causes) ∧ (s.gangStopped lid gang = false → t.blocks = s.blocks)
        ∧ (s.gangStopped lid gang = true → b1.rows = b.rows ∧ b1.scr = b.scr ∧ b1.warp? warp = some { (if atBrk then passed else x) with
          halted := false, stepOne := false, wdog := 0 })))
    ∧ (s.gangStopped lid gang = true → keeps (.debugStepForward ⟨lid, gang, num, warp⟩) fun _ b1 =>
        b1.warp? warp = some (if atBrk then passed else { x with stepOne := true }) ∧ b1.rows = b.rows ∧ b1.scr = b.scr)
    ∧ (s.gangStill lid gang = true →
      ((x.undo = [] ∨ b.engineDone ⟨b.key, x.num⟩ = false) → exec (.debugStepBack ⟨lid, gang, num, warp⟩) s = .next s)
      ∧ (∀ u rest, x.undo = u :: rest → b.engineDone ⟨b.key, x.num⟩ = true → keeps (.debugStepBack ⟨lid, gang, num, warp⟩) fun _ b1 =>
        ∃ w, b1.warp? warp = some w ∧ w.pc = u.pc ∧ w.undo = rest ∧ ∀ e m k, u.masks = some (e, m, k) → w.exited = e ∧ w.m = m ∧ w.stack = k)
      ∧ (b.st ≠ .ended → keeps (.debugImageAccess lid gang num none) (fun t b1 => b1 = b ∧ t.hostData = s.hostData ++ [b.image])
        ∧ ∀ bs, (∀ b1, b.loadImage bs s.nextSeq true = some b1 →
            keeps (.debugImageAccess lid gang num (some bs)) fun _ b2 => b2 = b1)
          ∧ (b.loadImage bs s.nextSeq true = none → exec (.debugImageAccess lid gang num (some bs)) s = .next s)))
    ∧ (s.gangStopped lid gang = false → exec (.debugStepForward ⟨lid, gang, num, warp⟩) s = .next s)
    ∧ (s.gangStill lid gang = false → exec (.debugStepBack ⟨lid, gang, num, warp⟩) s = .next s
      ∧ ∀ image, exec (.debugImageAccess lid gang num image) s = .next s)

/-- R81, R144: after a step no core's pool is over its 240 rows while an undo log of the core still has an entry to give up. The
blocks are told apart by their keys and their warps by their numbers, and the logs hold no more entries than 4,096. -/
def Sys2Proof.Spec.UndoPoolResults : Prop :=
  ∀ s : State, (s.blocks.map (·.key)).Nodup → (∀ b, b ∈ s.blocks → (b.warps.map (·.num)).Nodup) →
    ((s.blocks.flatMap fun b => b.warps.map fun w => w.undo.length).sum ≤ 4096) →
    ∃ t, settle (.next s) = .next t ∧ (t.blocks.map fun b => (b.key, b.st)) = s.blocks.map (fun b => (b.key, b.st))
      ∧ ∀ b, b ∈ t.blocks → b.onCore = true →
        t.poolUsed b ≤ 240 ∨ ∀ x, x ∈ t.coreMates b → ∀ w, w ∈ x.warps → w.undo = []

/-- R138, R146, R212, R294, R318, R364: an internal error takes the named warp's gang, or every gang on the core or cluster; a
fatal event freezes the log rings and keeps a dump, and the standby takes over where the active complex has failed, frozen or
not; and a tide tick lets TICK and FENCE.sc complete and enters or leaves capped mode, which is asked for between ticks. -/
def Sys2Proof.Spec.DeviceEventResults : Prop :=
  (∀ (s : State) (cluster : Nat) (core : Option Nat),
    (∀ b, b ∈ s.blocks → b.kind = .kernel → ∃ l g, s.launch? b.key.lid = some l ∧ l.gang? b.key.gang = some g) →
    ∃ t, exec (.hwInternal none cluster core) s = .next t ∧ t.dram = s.dram ∧ ∀ b, b ∈ t.blocks → b.kind = .kernel →
      b.onCore = true → b.cluster = cluster → core ≠ none ∧ core ≠ some b.core)
  ∧ (∀ (s : State) (w : WarpRef) (cluster : Nat) (core : Option Nat) (b : Block) (x : Warp) (l : Launch) (g : Gang),
    s.block? ⟨w.lid, w.gang, w.num⟩ = some b → b.kind = .kernel → b.warp? w.warp = some x → x.ended = false →
    s.launch? w.lid = some l → l.gang? w.gang = some g →
    ∃ t, exec (.hwInternal (some w) cluster core) s = .next t ∧ t.dram = s.dram ∧ Spec.Gone w.lid w.gang t)
  ∧ (∀ (s : State) (active : Bool) (detail : Word),
    (s.frozen = true → exec (.fatalEvent active detail) s = .next { s with activeB := s.activeB ^^ active })
    ∧ (s.frozen = false → ∃ t, exec (.fatalEvent active detail) s = .next t ∧ t.frozen = true
      ∧ t.activeB = (s.activeB ^^ active) ∧ t.blocks = s.blocks ∧ t.dram = s.dram
      ∧ (s.dumps.length < 16 → ∃ d, t.dumps = s.dumps ++ [d] ∧ d.retained = false)
      ∧ (s.dumps.length = 16 → (∀ d, d ∈ s.dumps → d.retained = true) → t.dumps = s.dumps)
      ∧ ∀ (kept later : List Dump) (old : Dump), s.dumps = kept ++ old :: later → s.dumps.length = 16 → old.retained = false →
        (∀ d, d ∈ kept → d.retained = true) → ∃ d, t.dumps = kept ++ later ++ [d] ∧ d.retained = false))
  ∧ (∀ (s : State) (a : WarpId) (c : Ctx), s.ctxAt a = some c →
    (∀ a1 c1, a1 ≠ a → s.ctxAt a1 = some c1 → (∀ d, c1.w.st ≠ .tick d) ∧ c1.w.st ≠ .fenceSc) →
    ((∃ d, c.w.st = .tick d) ∨ c.w.st = .fenceSc) →
    ∃ t w, exec .tideTick s = .next t ∧ t.dram = s.dram ∧ t.ticks = s.ticks + 1 ∧ t.warp? a = some w ∧ w.pc = c.w.pc + 4
      ∧ w.st = .ready ∧ t.capped = s.capWant ∧ ∀ d, c.w.st = .tick d → w.sget d = BitVec.ofNat 32 (s.ticks + 1))
  ∧ ∀ (s : State) (on : Bool), exec (.cappedMode on) s = .next { s with capWant := on }

/-! ### Tideway (R330 to R350) -/

/-- An instance as it stands on an engine. -/
def Sys2Proof.Spec.InstAt (t : State) (die : Nat) (i : TwInst) (P : TwInst → Prop) : Prop :=
  ∃ j, (t.engine die).inst? i.sched i.inst = some j ∧ P j

/-- A chunk may leave for a rank (R333, R347): the rank's window takes its instance, nothing that fired before it waits to go there,
and the link has credit for it. -/
def Sys2Proof.Spec.MayLeave (s : State) (die : Nat) (c : Sched) (inst rank order units : Nat) : Prop :=
  (s.engine die).peerTakes c rank inst = true ∧ (∀ x, x ∈ (s.engine die).waiting rank → order ≤ x.1)
    ∧ units ≤ (s.engine die).creditOf rank

/-- The instance has failed here with a fault kind, and FAIL goes to every other position (R348): it is on the link, as it is
wherever the peer's window takes the instance and there was credit for it, or it waits. -/
def Sys2Proof.Spec.Failed (s t : State) (die : Nat) (c : Sched) (i : TwInst) (kind : Nat) : Prop :=
  Spec.InstAt t die i fun j => j.st = .failed ∧ j.kind = kind ∧ j.fpos = c.p
    ∧ ∀ q, q < c.g → q ≠ c.p → ∃ f, lookupN j.failing q = some f ∧ f.attempt = 0
      ∧ (f.stalled = false → (c.rankAt q, ⟨7, 0, c.num, i.inst, 0, c.p, 0, BitVec.ofNat 32 (kind + 16 * c.p), []⟩) ∈ (t.engine die).outbox)
      ∧ ((s.engine die).peerTakes c (c.rankAt q) i.inst = true → c.g ≤ (s.engine die).creditOf (c.rankAt q) → f.stalled = false)

/-- One chunk has gone to a rank, and memory is as before. -/
def Sys2Proof.Spec.Sends (s t : State) (die rank : Nat) (k : Chunk) : Prop :=
  (t.engine die).outbox = (rank, k) :: (s.engine die).outbox ∧ t.dram = s.dram

/-- A transfer of an operation stands so, and nothing has been sent. -/
def Sys2Proof.Spec.Flies (s t : State) (die : Nat) (i : TwInst) (n : Nat) (f : Flight) : Prop :=
  (t.engine die).outbox = (s.engine die).outbox ∧ Spec.InstAt t die i fun j => (j.opSt n).flight = some f

/-- A SEND of an operation that fired as the `order`-th goes out, or waits for the link or for its memory, and poison and a
faulting address fail its instance (R330, R331, R340, R347); `u` is the state it reads its bytes in. -/
def Sys2Proof.Spec.SendGoes (s u t : State) (die : Nat) (c : Sched) (i : TwInst) (n order attempt : Nat) (o : TwOp) : Prop :=
  let rank := c.rankAt (c.dest o)
  let units := max 1 ((o.len + 4095) / 4096)
  (¬ Spec.MayLeave s die c i.inst rank order units → Spec.Flies s t die i n ⟨attempt, s.now, true, false⟩ ∧ t.dram = s.dram)
  ∧ ∀ s1 r, Spec.MayLeave s die c i.inst rank order units →
    u.twRead (i.who 0 die n) c.asker (c.addr i.ib o.len o.k o.rot) o.len = (s1, r) → match r with
    | none => Spec.Flies s t die i n ⟨attempt, s.now, true, true⟩
    | some (bs, f) =>
      (bs.any (·.2) = true → Spec.Failed s t die c i 2)
      ∧ (∀ k at1, bs.any (·.2) = false → f = some (k, at1) → Spec.Failed s t die c i k)
      ∧ (bs.any (·.2) = false → f = none →
        Spec.Sends s1 t die rank ⟨1, attempt, c.num, i.inst, o.top, c.p, n, BitVec.ofNat 32 o.len, bs⟩
        ∧ (t.engine die).outbox.tail = (s.engine die).outbox
        ∧ (t.engine die).creditOf rank = (s.engine die).creditOf rank - units
        ∧ Spec.InstAt t die i fun j => (j.opSt n).flight = some ⟨attempt, s.now, false, false⟩)

/-- R330, R331, R333, R338, R340 to R343, R347: what each operation that may fire does. A SEND transmits its bytes, or waits for its
peer's window, for what fired before it, for credit or for its memory; RECV, RED and COPY write, reduce and copy, give the token and
send the ACK, and wait while one of their requests does; a RED.dispatch lowers its slot's counter and at zero dispatches the reduce
block; a WAIT takes its tokens; a memory fault, and poison that a SEND or a COPY reads, fails the instance with its kind. That a
chunk takes at least one unit of credit is the model's choice (log 34). -/
def Obligations.TidewayFiringResults : Prop :=
  ∀ (s : State) (r : OpRef) (x : Ready), s.ready r = some x → r.op < x.i.ops.length →
    let e := s.engine r.die
    let a := x.c.addr x.i.ib x.o.len x.o.k x.o.rot
    let at_ (t : State) (P : TwInst → Prop) : Prop := Spec.InstAt t r.die x.i P
    let fails (i : Instr) (n : Nat) : Prop := ∃ t, exec i s = .next t ∧ Spec.Failed s t r.die x.c x.i n
    (x.o.op = .send → ∃ t, exec (.chunkSend r) s = .next t
      ∧ Spec.SendGoes s (s.fire r.die x.i r.op).1 t r.die x.c x.i r.op e.fireNo 0 x.o
      ∧ at_ t fun i => i.st = .running → (i.opSt r.op).fired = true ∧ (i.opSt r.op).order = e.fireNo)
    ∧ (∀ k rest, e.heldFor r = k :: rest →
      let ack : Nat × Chunk := (x.c.rankAt k.pos, ⟨3, 0, r.sched, r.inst, r.op, x.c.p, k.opIx, 0, []⟩)
      let taken (t : State) : Prop := ack ∈ (t.engine r.die).outbox ∧ at_ t (fun i => (i.opSt r.op).token = true)
        ∧ (t.engine r.die).heldFor r = []
      (∀ s1 f, x.o.op = .recv → s.twPut (x.i.who 1 r.die r.op) x.c.asker a k.data = (s1, f) →
        (f = none → exec (.chunkRecv r) s = .next s1)
        ∧ (f = some none → ∃ t, exec (.chunkRecv r) s = .next t ∧ t.dram = s1.dram ∧ taken t)
        ∧ (∀ n, f = some (some n) → fails (.chunkRecv r) n))
      ∧ (∀ s1 f, x.o.op = .red → x.o.redop ≠ 3 →
        s.twReduce r.die (x.i.who 2 r.die r.op) x.c.asker (x.o.redop + 1) x.o.rtype a k.data = (s1, f) →
        (f = none → exec (.chunkRed r) s = .next s1)
        ∧ (f = some none → ∃ t, exec (.chunkRed r) s = .next t ∧ t.dram = s1.dram ∧ taken t)
        ∧ (∀ n, f = some (some n) → fails (.chunkRed r) n))
      ∧ (∀ s1 f, x.o.op = .red → x.o.redop = 3 → s.twPut (x.i.who 1 r.die r.op) x.c.asker a k.data = (s1, f) →
        let left := (lookupN x.i.slots x.o.dslot).getD 1 - 1
        (f = none → exec (.chunkRedDispatch r) s = .next s1)
        ∧ (∀ n, f = some (some n) → fails (.chunkRedDispatch r) n)
        ∧ (f = some none → left ≠ 0 → ∃ t, exec (.chunkRedDispatch r) s = .next t ∧ t.dram = s1.dram ∧ t.launches = s.launches
          ∧ at_ t fun i => (i.opSt r.op).fired = true ∧ (i.opSt r.op).token = (x.i.opSt r.op).token
            ∧ lookupN i.slots x.o.dslot = some left)
        ∧ ∀ d j co kern, f = some none → left = 0 → x.c.descs[x.o.dslot]? = some d → s.job? x.c.part d.job = some j →
          s.code? x.c.part d.code = some co → co.kernels[d.kernel]? = some kern → ∃ t l rc, exec (.chunkRedDispatch r) s = .next t
            ∧ t.launches = s.launches ++ [l] ∧ l.lid = s.nextLid ∧ l.origin = .reduce r.die x.c.num x.i.inst x.o.dslot
            ∧ l.kern = some kern ∧ l.job = some j.id ∧ l.st = .queued ∧ l.counter = 1 ∧ l.rcd = some rc
            ∧ rc.deadline = s.now + d.budget ∧ rc.pri = 3 ∧ rc.gangs = 1
            ∧ rc.params = [loWord x.i.ib, hiWord x.i.ib, BitVec.ofNat 32 x.i.inst, BitVec.ofNat 32 x.c.p, BitVec.ofNat 32 x.o.dslot]))
    ∧ (∀ s1 rd, x.o.op = .copy → s.twRead (x.i.who 3 r.die r.op) x.c.asker a x.o.len = (s1, rd) →
      (rd = none → exec (.chunkCopy r) s = .next s1)
      ∧ (∀ bs f, rd = some (bs, f) → bs.any (·.2) = true → fails (.chunkCopy r) 2)
      ∧ (∀ bs k at1, rd = some (bs, some (k, at1)) → bs.any (·.2) = false → fails (.chunkCopy r) k)
      ∧ ∀ bs s2 w, rd = some (bs, none) → bs.any (·.2) = false →
        s1.twPut (x.i.who 4 r.die r.op) x.c.asker (x.c.addr x.i.ib x.o.len x.o.kb x.o.rotb) bs = (s2, w) →
        (w = none → ∃ t, exec (.chunkCopy r) s = .next t ∧ t.dram = s2.dram ∧ t.engines = s.engines)
        ∧ (∀ k, w = some (some k) → fails (.chunkCopy r) k)
        ∧ (w = some none → ∃ t, exec (.chunkCopy r) s = .next t ∧ t.dram = s2.dram ∧ at_ t fun i => (i.opSt r.op).token = true))
    ∧ (x.o.op = .wait →
      (x.o.narr ≤ (senders (e.heldFor r)).length → ∃ t, exec (.chunkWait r) s = .next t ∧ t.dram = s.dram
        ∧ (t.engine r.die).heldFor r = [] ∧ at_ t fun i => (i.opSt r.op).token = true)
      ∧ ((senders (e.heldFor r)).length < x.o.narr → exec (.chunkWait r) s = .next s))

/-- R333, R345 to R348: what the engine does with a DATA, TOKEN or FAIL chunk: a failed link check is answered NACK_SOFT, a
mismatch NACK_HARD, a chunk of a past instance ACK, one of a failed instance NACK_FAILED; an awaited one is held where the store
has room; one beyond the window, or for which there is no room, gets no answer, as the credit it was sent without would not have
been given. R346 has the ACK sent again to a chunk of an operation that has fired: that it gets no answer while the operation's
token does not exist yet is the model's choice, read from R341 and R342 (log 34), and so are how the 16 MiB store counts a chunk and
that an ended instance is the one a chunk names only among the latest 2^15 starts. -/
def Obligations.ArrivingChunkResults : Prop :=
  ∀ (s : State) (die rank kind : Nat) (hdr : List Byte) (data : List (Byte × Bool)) (check : Bool) (k : Chunk),
    parseHdr kind hdr = some k → s.hasTideway = true → die < 2 →
    let e := s.engine die
    let i := match kind with
      | 1 => Instr.dataChunk die rank hdr data check
      | 2 => Instr.tokenChunk die rank hdr check
      | _ => Instr.failChunk die rank hdr check
    let answer (p n : Nat) (w : Word) : Chunk := ⟨n, 0, k.sched, k.inst, k.top, p, k.opIx, w, []⟩
    let got : Chunk := if kind = 1 then { k with data } else k
    let sends (ans : Chunk) : Prop := ∃ t, exec i s = .next t ∧ Spec.Sends s t die rank ans
    let names (c : Sched) (j : TwInst) : Prop := e.inst? k.sched k.inst = some j
      ∧ (j.live = true ∨ ∃ d, d < 32768 ∧ (k.inst + d) % 65536 = c.starts % 65536)
    (kind = 1 ∨ kind = 2 ∨ kind = 7) →
    (check = false → sends (answer (((e.sched? k.sched).map (·.p)).getD 0) 4 0))
    ∧ (check = true → e.taker k rank = none → sends (answer (((e.sched? k.sched).map (·.p)).getD 0) 5 0))
    ∧ (∀ c, check = true → kind ≠ 7 → e.taker k rank = some c → c.ops[k.top]? = none → sends (answer c.p 5 0))
    ∧ (∀ c o, check = true → kind ≠ 7 → e.taker k rank = some c → c.ops[k.top]? = some o →
      ¬ (kind = 1 ∧ (o.op = .recv ∨ o.op = .red) ∧ data.length = o.len ∧ k.word.toNat = o.len ∨ kind = 2 ∧ o.op = .wait) →
      sends (answer c.p 5 0))
    ∧ (∀ c o, check = true → e.taker k rank = some c → c.ops[k.top]? = some o →
      (kind = 1 ∧ (o.op = .recv ∨ o.op = .red) ∧ data.length = o.len ∧ k.word.toNat = o.len ∨ kind = 2 ∧ o.op = .wait) →
      (∀ j, names c j → (j.st = .failed ∨ j.st = .recovery) →
        sends (answer c.p 6 (BitVec.ofNat 32 (j.kind + 16 * j.fpos))))
      ∧ ((∀ j, names c j → j.st = .running ∨ j.st = .complete) →
        (e.window c k.inst = .beyond → exec i s = .next s)
        ∧ (e.window c k.inst = .past → sends (answer c.p 3 0))
        ∧ (∀ j, e.window c k.inst = .inside → names c j → (j.opSt k.top).fired = true →
          ((j.opSt k.top).token = true → sends (answer c.p 3 0)) ∧ ((j.opSt k.top).token = false → exec i s = .next s))
        ∧ (e.window c k.inst = .inside → (∀ j, names c j → (j.opSt k.top).fired = false) →
          let known : Prop := ∃ h, h ∈ e.held ∧ h.sched = k.sched ∧ h.inst = k.inst ∧ h.top = k.top ∧ h.pos = k.pos ∧ h.opIx = k.opIx
          (known → kind = 2 → sends (answer c.p 3 0)) ∧ (known → kind = 1 → exec i s = .next s)
          ∧ (¬ known → e.room c got = false → exec i s = .next s)
          ∧ (¬ known → e.room c got = true → ∃ t, exec i s = .next t ∧ t.dram = s.dram
            ∧ (t.engine die).held = e.held ++ [got]
            ∧ (t.engine die).outbox = if kind = 2 then (rank, answer c.p 3 0) :: e.outbox else e.outbox))))
    ∧ (∀ c, check = true → kind = 7 → e.taker k rank = some c →
      (∀ j, names c j →
        (j.st = .running → ∃ t, exec i s = .next t ∧ Spec.Sends s t die rank (answer c.p 3 0)
          ∧ Spec.InstAt t die j fun j1 => (j1.st = .recovery ∨ j1.st = .failed) ∧ (j1.kind, j1.fpos) = k.failed)
        ∧ (j.st ≠ .running → ∃ t, exec i s = .next t ∧ Spec.Sends s t die rank (answer c.p 3 0) ∧ (t.engine die).insts = e.insts))
      ∧ ((∀ j, ¬ names c j) →
        (e.window c k.inst = .beyond → exec i s = .next s) ∧ (e.window c k.inst = .past → sends (answer c.p 3 0))
        ∧ (e.window c k.inst = .inside → ∃ t, exec i s = .next t ∧ Spec.Sends s t die rank (answer c.p 3 0)
          ∧ ∃ h, h ∈ (t.engine die).fails ∧ h.sched = k.sched ∧ h.inst = k.inst)))

/-- A transfer sent again after a rejection or a timeout, or given up (R331, R348). -/
def Sys2Proof.Spec.Retried (s t : State) (die : Nat) (c : Sched) (i : TwInst) (n : Nat) (o : TwOp) (f : Flight) : Prop :=
  let rank := c.rankAt (c.dest o)
  (i.st = .recovery → Spec.InstAt t die i fun j => (j.opSt n).flight = none ∧ j.kind = i.kind)
  ∧ (i.st = .running → o.retry ≤ f.attempt → Spec.Failed s t die c i 4)
  ∧ (i.st = .running → f.attempt < o.retry → o.op ≠ .send →
    (Spec.MayLeave s die c i.inst rank (i.opSt n).order 1 →
      Spec.Sends s t die rank ⟨2, f.attempt + 1, c.num, i.inst, o.top, c.p, n, 0, []⟩
      ∧ Spec.InstAt t die i fun j => (j.opSt n).flight = some ⟨f.attempt + 1, s.now, false, false⟩)
    ∧ (¬ Spec.MayLeave s die c i.inst rank (i.opSt n).order 1 → Spec.Flies s t die i n ⟨f.attempt + 1, s.now, true, false⟩))
  ∧ (i.st = .running → f.attempt < o.retry → o.op = .send → Spec.SendGoes s s t die c i n (i.opSt n).order (f.attempt + 1) o)

/-- A FAIL chunk sent again, up to 15 times (R348). -/
def Sys2Proof.Spec.FailAgain (s t : State) (die : Nat) (c : Sched) (i : TwInst) (q : Nat) (f : Flight) : Prop :=
  let rank := c.rankAt q
  (15 ≤ f.attempt → Spec.InstAt t die i fun j => lookupN j.failing q = none)
  ∧ (f.attempt < 15 → ¬ Spec.MayLeave s die c i.inst rank 0 1 → (t.engine die).outbox = (s.engine die).outbox
    ∧ Spec.InstAt t die i fun j => lookupN j.failing q = some ⟨f.attempt + 1, s.now, true, false⟩)
  ∧ (f.attempt < 15 → Spec.MayLeave s die c i.inst rank 0 1 →
    Spec.Sends s t die rank ⟨7, f.attempt + 1, c.num, i.inst, 0, c.p, 0, BitVec.ofNat 32 (i.kind + 16 * i.fpos), []⟩
    ∧ Spec.InstAt t die i fun j => lookupN j.failing q = some ⟨f.attempt + 1, s.now, false, false⟩)

/-- R330, R331, R333, R340, R342, R343, R347, R348: what a reply, a timeout, granted credit and the end of a reduce block do: an ACK
gives a SEND its token and ends a notify, a NACK_SOFT or a timeout sends again while attempts are left and nothing of the transfer
waits, a NACK_HARD fails the instance and a NACK_FAILED makes it recover; a FAIL is sent again up to 15 times; stalled time counts
against no timeout; and what waited goes out when its peer grants credit. That the peer's window comes with its credit, and that
a rejection asks nothing while a re-send waits, are the model's choices (log 34). -/
def Obligations.TidewayReplyResults : Prop :=
  (∀ (s : State) (die rank : Nat) (hdr : List Byte) (c : Sched) (i : TwInst) (o : TwOp) (k : Chunk) (f : Flight),
    (s.replyTo die rank 3 hdr = some (c, i, o, k, f) → ∃ t, exec (.ackChunk die rank hdr) s = .next t ∧ t.dram = s.dram
      ∧ Spec.InstAt t die i fun j => (j.opSt k.opIx).flight = none ∧ (o.op = .send → (j.opSt k.opIx).token = true)
        ∧ (o.op ≠ .send → (j.opSt k.opIx).notified = true))
    ∧ (s.replyTo die rank 4 hdr = some (c, i, o, k, f) → (f.stalled = true → exec (.nackSoft die rank hdr) s = .next s)
      ∧ (f.stalled = false → ∃ t, exec (.nackSoft die rank hdr) s = .next t ∧ Spec.Retried s t die c i k.opIx o f))
    ∧ (s.replyTo die rank 5 hdr = some (c, i, o, k, f) → ∃ t, exec (.nackHard die rank hdr) s = .next t ∧ t.dram = s.dram
      ∧ (i.st = .running → Spec.Failed s t die c i 4)
      ∧ (i.st ≠ .running → Spec.InstAt t die i fun j => (j.opSt k.opIx).flight = none ∧ j.kind = i.kind))
    ∧ (s.replyTo die rank 6 hdr = some (c, i, o, k, f) → ∃ t, exec (.nackFailed die rank hdr) s = .next t ∧ t.dram = s.dram
      ∧ Spec.InstAt t die i fun j => (j.opSt k.opIx).flight = none
        ∧ (i.st = .running → (j.st = .recovery ∨ j.st = .failed) ∧ (j.kind, j.fpos) = k.failed)))
  ∧ (∀ (s : State) (die rank q : Nat) (hdr : List Byte) (c : Sched) (i : TwInst) (f : Flight),
    (s.replyTo die rank 3 hdr = none → s.failReply die rank 3 hdr = some (c, i, q, f) →
      ∃ t, exec (.ackChunk die rank hdr) s = .next t ∧ t.dram = s.dram ∧ Spec.InstAt t die i fun j => lookupN j.failing q = none)
    ∧ (s.replyTo die rank 4 hdr = none → s.failReply die rank 4 hdr = some (c, i, q, f) →
      (f.stalled = true → exec (.nackSoft die rank hdr) s = .next s)
      ∧ (f.stalled = false → ∃ t, exec (.nackSoft die rank hdr) s = .next t ∧ Spec.FailAgain s t die c i q f)))
  ∧ (∀ (s : State) (r : OpRef) (c : Sched) (i : TwInst), (s.engine r.die).sched? r.sched = some c →
    (s.engine r.die).inst? r.sched r.inst = some i →
    (∀ o f, r.op < 4096 → c.ops[r.op]? = some o → (i.opSt r.op).flight = some f →
      ((f.stalled = true ∨ s.now < f.sentAt + c.ackto) → exec (.ackTimeout r) s = .next s)
      ∧ (f.stalled = false → f.sentAt + c.ackto ≤ s.now → ∃ t, exec (.ackTimeout r) s = .next t ∧ Spec.Retried s t r.die c i r.op o f))
    ∧ (∀ q f, r.op = 4096 + q → lookupN i.failing q = some f →
      ((f.stalled = true ∨ s.now < f.sentAt + c.ackto) → exec (.ackTimeout r) s = .next s)
      ∧ (f.stalled = false → f.sentAt + c.ackto ≤ s.now → ∃ t, exec (.ackTimeout r) s = .next t ∧ Spec.FailAgain s t r.die c i q f))
    ∧ (i.st = .running → c.itimeout ≠ 0 → i.stallAt = none → i.last + 1000 * c.itimeout ≤ s.now →
      ∃ t, exec (.instanceIdleTimeout r.die r.sched r.inst) s = .next t ∧ t.dram = s.dram ∧ Spec.Failed s t r.die c i 4)
    ∧ ((i.st ≠ .running ∨ c.itimeout = 0 ∨ i.stallAt ≠ none ∨ s.now < i.last + 1000 * c.itimeout) →
      exec (.instanceIdleTimeout r.die r.sched r.inst) s = .next s))
  ∧ (∀ (s : State) (die rank units : Nat) (window : Option (Nat × Nat)), die < 2 →
    let e := s.engine die
    let told := match window with
      | some (num, m) => insertN e.peers (65536 * rank + num % 65536) (m % 65536)
      | none => e.peers
    let e1 := { e with credit := insertN e.credit rank (e.creditOf rank + units), peers := told }
    (e1.waiting rank = [] → e1.failsTo rank = [] → exec (.linkCredit die rank ⟨units, window⟩) s = .next (s.setEngine die e1))
    ∧ ∀ ord num inst n c i o f, e1.waiting rank = [(ord, ⟨0, num, inst, n⟩)] → e1.failsTo rank = [] → e1.sched? num = some c →
      e1.inst? num inst = some i → i.st = .running → c.ops[n]? = some o → (i.opSt n).flight = some f → (i.opSt n).order = ord →
      ∃ t, exec (.linkCredit die rank ⟨units, window⟩) s = .next t
        ∧ (o.op = .send → Spec.SendGoes (s.setEngine die e1) (s.setEngine die e1) t die c i n ord f.attempt o)
        ∧ (o.op ≠ .send → 1 ≤ e1.creditOf rank →
          Spec.Sends s t die rank ⟨2, f.attempt, c.num, i.inst, o.top, c.p, n, 0, []⟩))
  ∧ ∀ (s : State) (l : Launch) (die num inst slot reason : Nat) (st : Status) (c : Sched) (i : TwInst),
    s.launch? l.lid = some l → l.origin = .reduce die num inst slot → l.status = some (st, reason) →
    (s.engine die).sched? num = some c → (s.engine die).inst? num inst = some i → i.st = .running →
    ∃ t, exec (.reduceBlockEnd l.lid) s = .next t ∧ t.dram = s.dram ∧ t.launch? l.lid = none
      ∧ (reason ≠ 0 → Spec.Failed s t die c i 4)
      ∧ ∀ n o src, reason = 0 → c.ops[n]? = some o → o.op = .red → o.redop = 3 → o.dslot = slot →
        (i.opSt n).src = some src → Spec.InstAt t die i (fun j => (j.opSt n).token = true)
          ∧ (c.rankAt src.1, ⟨3, 0, num, inst, n, c.p, src.2, 0, []⟩) ∈ (t.engine die).outbox

/-- R334 to R337, R344, R348, R350: a load copies a schedule that keeps to every limit and leaves nothing of one that does not; an
unload takes away a schedule none of whose instances is live; and a start takes the lowest-numbered free entry, is
numbered, and answers its SIGNAL. That a start at the queue's head whose schedule is no longer loaded completes its warp's operation
with fault kind 4, or its SIGNAL as MALFORMED, is the model's choice (log 34), and so is the identifier that a load reads under. -/
def Obligations.ScheduleAndStartResults : Prop :=
  (∀ (s s1 s2 s3 s4 : State) (part die : Nat) (addr : DWord) (hd ranks head ops : List Byte), s.hasTideway = true → die < 2 →
    let who := [12, part, die]
    s.deviceMemory addr = true → s.fwRead who part addr 0x220 = (s1, some hd) → fieldAt hd 0x0C 2 ≤ 512 →
    let img : DWord := BitVec.ofNat 64 (fieldAt hd 0 8)
    s1.deviceMemory img = true → s1.fwRead who part (addr + 0x220) (2 * fieldAt hd 0x0C 2) = (s2, some ranks) →
    s2.fwRead who part img 0x40 = (s3, some head) → fieldAt head 4 2 ≤ 4096 →
    s3.fwRead who part (img + 0x40) (16 * fieldAt head 4 2) = (s4, some ops) →
    ∃ t, exec (.scheduleLoad part die addr) s = .next t ∧ t.dram = s4.dram
      ∧ (s4.parseSched part die (hd ++ ranks) (head ++ ops) = none → t.engines = s.engines)
      ∧ ∀ c, s4.parseSched part die (hd ++ ranks) (head ++ ops) = some c →
        (t.engine die).scheds = (s.engine die).scheds ++ [c] ∧ (s.engine die).sched? c.num = none ∧ c.part = part ∧ 2 ≤ c.g ∧ c.g ≤ 512
        ∧ c.p < c.g ∧ 1 ≤ c.ops.length ∧ c.ops.length ≤ 4096 ∧ 1000 ≤ c.ackto ∧ c.rankAt c.p = s.rank ∧ c.descs.length ≤ 16
        ∧ (t.engine die).scheds.length ≤ 1024 ∧ ((t.engine die).scheds.map fun x => x.ops.length).sum ≤ 131072
        ∧ ∀ (n m : Nat) (o : TwOp), c.ops[n]? = some o → m ∈ o.ins → m < n)
  ∧ (∀ (s s1 : State) (part die : Nat) (addr : DWord), s.hasTideway = true → die < 2 →
    (s.deviceMemory addr = false → exec (.scheduleLoad part die addr) s = .next s)
    ∧ (s.deviceMemory addr = true → s.fwRead [12, part, die] part addr 0x220 = (s1, none) →
      exec (.scheduleLoad part die addr) s = .next s1))
  ∧ (∀ (s : State) (part die sched : Nat) (c : Sched), (s.engine die).sched? sched = some c →
    ((c.part ≠ part ∨ ∃ i, i ∈ (s.engine die).insts ∧ i.sched = sched ∧ i.live = true) →
      exec (.scheduleUnload part die sched) s = .next s)
    ∧ (c.part = part → (∀ i, i ∈ (s.engine die).insts → i.sched = sched → i.live = false) →
      ∃ t, exec (.scheduleUnload part die sched) s = .next t ∧ t.dram = s.dram ∧ (t.engine die).sched? sched = none
        ∧ ∀ n, n ≠ sched → (t.engine die).sched? n = (s.engine die).sched? n))
  ∧ ∀ (s : State) (die : Nat) (q : TwStart) (rest : List TwStart), die < 2 → (s.engine die).queue = q :: rest →
    (∀ w seq, (s.engine die).sched? q.sched = none → q.starter = some (w, seq) → ∃ t, exec (.instanceStart die) s = .next t
      ∧ (t.engine die).queue = rest ∧ Spec.Completed s t w seq (some ⟨4, q.ib, 0⟩))
    ∧ (∀ d, (s.engine die).sched? q.sched = none → q.starter = none → q.due = some d → ∃ t, exec (.instanceStart die) s = .next t
      ∧ (t.engine die).queue = rest ∧ t.dues = s.dues ++ [{ d with status := .malformed }])
    ∧ ∀ c, (s.engine die).sched? q.sched = some c →
      let free (n : Nat) : Prop := ∃ x, (s.engine die).table[n]? = some x ∧ x.state ≠ 1 ∧ x.state ≠ 2
      ((∀ n, ¬ free n) → exec (.instanceStart die) s = .next s)
      ∧ ∀ n, free n → (∀ m, m < n → ¬ free m) → ∃ t i, exec (.instanceStart die) s = .next t ∧ (t.engine die).queue = rest
        ∧ (t.engine die).inst? q.sched ((c.starts + 1) % 65536) = some i ∧ i.entry = n ∧ i.ib = q.ib ∧ i.starter = q.starter
        ∧ t.dues = s.dues ++ q.due.toList ∧ (∃ x, (t.engine die).sched? q.sched = some x ∧ x.starts = (c.starts + 1) % 65536)
        ∧ ((s.engine die).fails = [] → (i.st = .running ∨ i.st = .complete))

/-! ### Firmware, the security processor and the host port (R145, R174, R289, R295 to R297, R353 to R368) -/

/-- The instruction starts of a body: a word, and the instruction it decodes to with the word after it. -/
def Sys2Proof.Spec.bodyStarts : List Word → List (Word × Option Instr)
  | [] => []
  | [w] => [(w, (decode w none).toOption)]
  | w :: x :: t => match decode w (some x) with
    | .ok i => (w, some i) :: (if i.len = 8 then Spec.bodyStarts t else Spec.bodyStarts (x :: t))
    | .error _ => (w, none) :: Spec.bodyStarts (x :: t)

/-- An entry address: none, or a word of the body. -/
def Sys2Proof.Spec.EntryIn (size x : Nat) : Prop := x = 0xFFFFFFFF ∨ x % 4 = 0 ∧ x < size

/-- R10, R82, R237, R289: an image keeps to the table of R289 and to the limits of the directives its entries come from, and its
kernels carry the flags their instructions need. -/
def Sys2Proof.Spec.KeepsTable (img : List Byte) : Prop :=
  let f := fieldAt img
  let fits (off n : Nat) : Prop := off + n ≤ f 0x10 8
  f 0 4 = 0x4E4C5946 ∧ f 4 2 = 1 ∧ f 6 2 = 1 ∧ f 0x38 8 = 0 ∧ fits 0 64 ∧ fits (f 0x18 8) (64 * f 8 4) ∧ fits (f 0x20 8) (16 * f 0xC 4)
  ∧ fits (f 0x28 8) (f 0x30 8)
  ∧ (∀ n, n < f 8 4 →
    let e (off k : Nat) : Nat := fieldAt img (f 0x18 8 + 64 * n + off) k
    let starts := Spec.bodyStarts ((List.range (e 4 4 / 4)).map fun i => BitVec.ofNat 32 (fieldAt img (e 0 4 + 4 * i) 4))
    fits (e 0 4) (e 4 4) ∧ e 0 4 % 4 = 0 ∧ e 4 4 % 4 = 0 ∧ 1 ≤ e 8 1 ∧ e 8 1 ≤ 16 ∧ 1 ≤ e 9 1 ∧ e 9 1 ≤ 48 ∧ e 0xA 2 < 4
    ∧ e 0xC 4 ≤ 0x80000 ∧ e 0x11 1 ≤ 16 ∧ e 0x12 2 = 0 ∧ Spec.EntryIn (e 4 4) (e 0x14 4) ∧ Spec.EntryIn (e 4 4) (e 0x18 4)
    ∧ (e 0x18 4 ≠ 0xFFFFFFFF → e 0x1C 4 ≠ 0) ∧ e 0x2C 4 ≤ 16 ∧ fits (e 0x28 4) (8 * e 0x2C 4) ∧ e 0x34 12 = 0
    ∧ ((∃ w i, (w, some i) ∈ starts ∧ ((∃ a b, i = .give a b) ∨ (∃ a b, i = .givex a b) ∨ ∃ a b, i = .take a b)) → e 0xA 2 % 2 = 1)
    ∧ ((∃ x, x ∈ starts ∧ 0x80000000#32 ≤ x.1 ∧ 0x60 ≤ (fOp x.1).toNat ∧ (fOp x.1).toNat ≤ 0x6C) → e 0xA 2 / 2 % 2 = 1))
  ∧ ∀ n, n < f 0xC 4 →
    let e (off k : Nat) : Nat := fieldAt img (f 0x20 8 + 16 * n + off) k
    fits (e 0 4) (e 4 4) ∧ e 0 4 % 4 = 0 ∧ e 4 4 % 4 = 0 ∧ e 0xC 4 = 0

/-- R289: an image that keeps to the table gives its kernels and prologues, field by field, and no other does. The limits of an
entry that R289 gives no words for are those of its directive (log 45). -/
def Sys2Proof.Spec.CodeImageResults : Prop :=
  ∀ img : List Byte,
    ((parseImage img).isSome = true ↔ Spec.KeepsTable img)
    ∧ ∀ ks ps, parseImage img = some (ks, ps) → ks.length = fieldAt img 8 4 ∧ ps.length = fieldAt img 0xC 4
      ∧ (∀ n k, ks[n]? = some k →
        let e (off m : Nat) : Nat := fieldAt img (fieldAt img 0x18 8 + 64 * n + off) m
        let entry (x : Nat) : Option Nat := if x = 0xFFFFFFFF then none else some x
        k.codeOff = e 0 4 ∧ k.codeSize = e 4 4 ∧ k.w = e 8 1 ∧ k.g = e 9 1 ∧ k.handoff = (e 0xA 2 % 2 == 1)
        ∧ k.matrix = (e 0xA 2 / 2 % 2 == 1) ∧ k.v = e 0xC 4 ∧ k.q = e 0x10 1 ∧ k.params = e 0x11 1 ∧ k.trap = entry (e 0x14 4)
        ∧ k.wrap = entry (e 0x18 4) ∧ k.budget = e 0x1C 4 ∧ k.rows.toNat = e 0x20 8
        ∧ k.carry = (List.range (e 0x2C 4)).map fun i => BitVec.ofNat 64 (fieldAt img (e 0x28 4 + 8 * i) 8))
      ∧ ∀ n (p : Prologue), ps[n]? = some p → p = ⟨fieldAt img (fieldAt img 0x20 8 + 16 * n) 4, fieldAt img (fieldAt img 0x20 8 + 16 * n + 4) 4⟩

/-- R289, R355: a code object whose image keeps to the rules is measured and entered with its hash and identifier, its pages mapped
with W = 0; one that does not is not entered. That one whose pages are not all mapped is not entered either is the model's choice
(log 45). -/
def Sys2Proof.Spec.CodeObjectResults : Prop :=
  ∀ (s s1 s2 : State) (part asid : Nat) (addr : DWord) (hd img : List Byte), s.readCode part asid addr 64 = (s1, some (hd, false)) →
    (codeHeaderOk hd = false → ∃ t, exec (.codeObjectRegistration part asid addr) s = .next t ∧ t.codes = s.codes ∧ t.mlog = s.mlog)
    ∧ (codeHeaderOk hd = true → s1.readCode part asid addr (fieldAt hd 0x10 8) = (s2, some (img, false)) →
      let stack := stackOf addr
      let first := offsetOf addr / 65536
      let n := (offsetOf addr % 65536 + img.length + 65535) / 65536
      (parseImage img = none ∨ s2.pagesMapped stack asid first n = false →
        ∃ t, exec (.codeObjectRegistration part asid addr) s = .next t ∧ t.codes = s.codes ∧ t.mlog = s.mlog ∧ t.dram = s2.dram)
      ∧ ∀ ks ps, parseImage img = some (ks, ps) → s2.pagesMapped stack asid first n = true → s2.dram.wf = true →
        let entry := leBytes 4 3 ++ leBytes 4 part ++ leBytes 8 s.now ++ leBytes 8 addr.toNat ++ leBytes 8 img.length
          ++ leBytes 32 (Sha.hash img).toNat
        ∃ t, exec (.codeObjectRegistration part asid addr) s = .next t
          ∧ t.code? part addr = some ⟨part, addr, img.length, Sha.hash img, asid, ks, ps⟩
          ∧ t.mlog = s.mlog ++ [entry] ∧ t.mdigest = Sha.hash (leBytes 32 s.mdigest.toNat ++ entry) ∧ t.blocks = s.blocks
          ∧ ∀ i, i < n → ∃ a e k, t.leafOf stack asid (65536 * (first + i)) = some (a, e, k) ∧ e.getLsbD 2 = false)

/-- R357, R358, R361, R368: a tenancy, and a meter's allotment to one, are entered unless another partition holds them; a bound
meter is not released; allowances never add up past the journalled bound, which rises by 2^30 once the value is within 2^29
of it. That a meter which comes to a partition is gathered in the base die of its first stack is the model's choice (log 28). -/
def Obligations.MeterResults : Prop :=
  ∀ (s : State),
    (∀ part num key, (((s.part? part).isSome = true ∧ 1 ≤ num ∧ num ≤ 65535 ∧ ∀ x, x ∈ s.tenancies → x.num = num → x.part = part) →
        ∃ t, exec (.tenancyRequest part num key) s = .next t ∧ t.tenancy? part num = some ⟨part, num, key⟩ ∧ t.dram = s.dram
          ∧ t.allots = s.allots)
      ∧ ((num = 0 ∨ ∃ x, x ∈ s.tenancies ∧ x.num = num ∧ x.part ≠ part) → exec (.tenancyRequest part num key) s = .next s))
    ∧ (∀ meter part tenancy, ((meter < 4096 ∧ (s.tenancy? part tenancy).isSome = true ∧ part < 8 ∧ (∀ p, s.part? part = some p → 1 ≤ p.n)
          ∧ ∀ a, a ∈ s.allots → a.meter = meter → a.part = part) →
        ∃ t, exec (.meterRequest meter part tenancy) s = .next t ∧ ⟨meter, part, tenancy⟩ ∈ t.allots
          ∧ (∀ a, a ∈ t.allots → a.meter = meter → a = ⟨meter, part, tenancy⟩) ∧ t.meterValue meter = s.meterValue meter)
      ∧ ((4096 ≤ meter ∨ ∃ a, a ∈ s.allots ∧ a.meter = meter ∧ a.part ≠ part) →
        exec (.meterRequest meter part tenancy) s = .next s))
    ∧ (∀ meter, (s.meterBound meter = true → exec (.releaseRequest meter) s = .next s)
      ∧ (s.meterBound meter = false → ∃ t, exec (.releaseRequest meter) s = .next t
        ∧ (∀ a, a ∈ t.allots ↔ a ∈ s.allots ∧ a.meter ≠ meter)
        ∧ ((∀ a p i, a ∈ s.allots → a.meter = meter → s.part? a.part = some p → p.hasStack i = false →
          lookupN (s.die i).partials meter = none) → t.meterValue meter = s.meterValue meter)))
    ∧ (∀ meter allow,
      let parts := s.dies.toList.map fun d => (lookupN d.partials meter).getD 0
      let fine : Prop := meter < 4096 ∧ allow.length = 8 ∧ ((parts.zip allow).map fun x => max x.1 x.2).sum ≤ s.bound meter
      (fine → ∃ t, exec (.meterRefresh meter allow) s = .next t ∧ t.journal = s.journal ∧ t.meterValue meter = s.meterValue meter
        ∧ ∀ i a, allow[i]? = some a → lookupN (t.die i).allow meter = some a)
      ∧ (¬ fine → exec (.meterRefresh meter allow) s = .next s)
      ∧ (meter < 4096 → s.bound meter ≤ s.meterValue meter + 2 ^ 29 → ∃ t, exec (.journalWrite meter allow) s = .next t
        ∧ t.bound meter = s.bound meter + 2 ^ 30 ∧ t.meterValue meter = s.meterValue meter)
      ∧ (s.meterValue meter + 2 ^ 29 < s.bound meter → exec (.journalWrite meter allow) s = .next s))

/-- R355, R356, R359, R361: a signed record goes to the host with the next sequence number, the nonce and the log's digest in an
attestation; the log is read; a retired part meters nothing more and gives one final statement, once every counted reply has
left, and its meters keep their values. That a record is signed only where the identity has been reconstructed, which GSTAT.BOOT
above 2 tells, and that an attestation is answered at once, are the model's choices (log 47). -/
def Sys2Proof.Spec.SignedRecordResults : Prop :=
  ∀ (s : State) (nonce : List Byte),
    (2 < s.boot → nonce.length = 32 → ∃ t m, exec (.attestation nonce) s = .next t ∧ t.hostData = s.hostData ++ [m]
      ∧ t.seqNum = s.seqNum + 1 ∧ (s.seqNum ≤ s.seqBound → t.seqNum ≤ t.seqBound) ∧ s.seqBound ≤ t.seqBound
      ∧ fieldAt m 0 4 = 3 ∧ (m.drop 0x40).take 32 = nonce ∧ fieldAt m 0x60 32 = s.mdigest.toNat)
    ∧ (¬ (2 < s.boot ∧ nonce.length = 32) → exec (.attestation nonce) s = .next s)
    ∧ exec .measurementLogRead s = .next { s with hostData := s.hostData ++ [s.mlog.flatten] }
    ∧ exec .chipRetirement s = .next { s with retiring := true }
    ∧ (let counts (b : Bound) : Prop := match (s.translate (stackOf b.addr) b.asid (offsetOf b.addr)).2 with
        | .ok leaf _ => pteMet leaf = true
        | _ => b.meter.isSome = true
      let inFlight : Prop := (∃ r, r ∈ s.reqs ∧ ∃ bs f b, r.st = .performed bs f (some b) ∧ bs ≠ [] ∧ counts b)
        ∨ ∃ m, m ∈ s.moves ∧ ∃ g, g ∈ m.got ∧ ∃ b, g.2.held = some b ∧ counts b;
      (s.retiring = true → s.retired = false → 2 < s.boot → ¬ inFlight → ∃ t m, exec .finalStatement s = .next t ∧ t.retired = true
        ∧ t.hostData = s.hostData ++ [m] ∧ t.seqNum = s.seqNum + 1 ∧ fieldAt m 0 4 = 2
        ∧ ∀ n, n < 4096 → t.meterValue n = s.meterValue n)
      ∧ (¬ (s.retiring = true ∧ s.retired = false ∧ 2 < s.boot ∧ ¬ inFlight) → exec .finalStatement s = .next s))

/-- R152, R295, R307, R363: a legal cut of idle partitions makes its pieces with the scheduling registers at reset; a partition's
reset takes its gangs off their cores; a live update pauses, then moves to the standby or back; a package takes its place
in a domain. That a live update is two events, and what it does to the boot slot and the log, are the model's choices (log 42), and
so is what a reset and a cut leave (log 43). -/
def Obligations.PartitionAndUpdateResults : Prop :=
  (∀ (s : State) (cut : List CutPart),
    let gone := s.parts.filter fun p => cutsAway cut p
    let fine : Prop := (∀ c, c ∈ cut → s.cutPartOk c = true) ∧ cut.Pairwise (fun a b => cutApart a b = true)
      ∧ (∀ p, p ∈ gone → s.idlePart p.first = true) ∧ (∀ i, i < 8 → (s.afterCut cut).tablesOk i = true)
      ∧ (s.afterCut cut).framesAtPeers = true
    (fine → (∀ p, p ∈ s.parts → 1 ≤ p.n) → ∃ t, exec (.partitionCut cut) s = .next t ∧ t.rings = s.rings ∧ t.blocks = s.blocks
      ∧ ∀ c, c ∈ cut → t.part? c.first = some ⟨c.first, c.n, c.fwAsid, c.wbase, c.wasid, Vector.replicate 4 256, 0x0200⟩)
    ∧ (¬ fine → exec (.partitionCut cut) s = .next s))
  ∧ (∀ (s : State) (part : Nat), ∃ t, exec (.partitionReset part) s = .next t ∧ t.parts = s.parts ∧ t.tenancies = s.tenancies
    ∧ t.allots = s.allots ∧ ∀ l g b, s.launch? l.lid = some l → l.part = part → (l.st = .running ∨ l.st = .ebb) → l.status = none →
      g ∈ l.gangs → (g.st = .placed ∨ g.st = .parked ∨ g.st = .saved) → b ∈ t.blocks → b.inGang l.lid g.idx = false)
  ∧ (∀ (s : State) (slot : Nat),
    let image := s.fwSlots[slot]?.getD []
    (slot < 2 → s.boot = 5 → (∀ f, f ∈ s.faults → f.refused = true) → s.update = none →
      ∃ t, exec (.liveUpdate slot none) s = .next t ∧ t.update = (if Config.imageGood image = true then some slot else none)
        ∧ t.mlog.length = s.mlog.length + 1 ∧ t.activeB = s.activeB ∧ t.blocks = s.blocks)
    ∧ (s.update = some slot →
      (∃ t, exec (.liveUpdate slot (some true)) s = .next t ∧ t.update = none ∧ t.activeB = !s.activeB ∧ t.bootSlot = slot
        ∧ t.mlog.length = s.mlog.length + 1 ∧ t.blocks = s.blocks)
      ∧ (∃ t, exec (.liveUpdate slot (some false)) s = .next t ∧ t.update = none ∧ t.activeB = s.activeB ∧ t.bootSlot = s.bootSlot
        ∧ t.mlog = s.mlog ∧ t.blocks = s.blocks))
    ∧ (s.update ≠ some slot → ∀ b, exec (.liveUpdate slot (some b)) s = .next s))
  ∧ ∀ (s : State) (rank x y z : Nat),
    let fine : Prop := s.hasTideway = true ∧ rank < x * y * z ∧ x * y * z ≤ 512
    (fine → exec (.domainConfiguration rank x y z) s = .next { s with rank := rank, shape := some (x, y, z) })
    ∧ (¬ fine → exec (.domainConfiguration rank x y z) s = .next s)

/-- R353 to R355, R358, R359, R361, R364: a reset leaves nothing running, every meter at its journalled bound (at zero on a new
chip, at its final value on a retired one) and the sequence number at its, and begins bring-up at its first step; a step takes its
turn, step 2 boots the image, reconstructs the identity and accepts the configuration record, step 3 zeroes the DRAM, and a failure
holds GSTAT.BOOT; power lost leaves the same, not brought up. The sequence number at its bound, what package flash keeps, DRAM as it
was until step 3, the length of the log, and the turn each step takes are the model's choices (log 41), and so is where the journal
is checked (log 28). -/
def Obligations.PowerAndResetResults : Prop :=
  ∀ (s : State),
    let lost (t : State) : Prop := t.blocks = [] ∧ t.launches = [] ∧ t.rings = [] ∧ t.reqs = [] ∧ t.now = 0 ∧ t.nextLid = 1
      ∧ t.seqNum = s.seqBound ∧ t.journal = s.journal ∧ t.retired = s.retired ∧ t.fwSlots = s.fwSlots ∧ t.dumps = s.dumps
      ∧ t.helper = s.helper ∧ t.certs = s.certs ∧ t.cfgRecord = s.cfgRecord ∧ t.mlog = [] ∧ t.bootErr = false
      ∧ ∀ m, m < 4096 → (s.retired = false → t.meterValue m = if s.begun then s.bound m else 0)
        ∧ (s.retired = true → t.meterValue m = s.meterValue m)
    (∀ stop, ∃ t, exec (.resetMachine stop) s = .next t ∧ lost t ∧ t.boot = 1 ∧ t.dram = s.dram ∧ t.poison = s.poison
      ∧ (stop = none → t.booting = some none) ∧ ∀ n, stop = some n → 1 ≤ n → n ≤ 5 → t.booting = some (some n))
    ∧ (∃ t, exec .powerLoss s = .next t ∧ lost t ∧ t.boot = 0 ∧ t.booting = none ∧ t.dram = Memory.empty ∧ t.poison = [])
    ∧ (s.booting = none → s.bootStep = s)
    ∧ ∀ stop, s.booting = some stop → 1 ≤ s.boot → s.boot < 5 →
      let t := s.bootStep
      let known : State := { s with seed := Config.puf s.helper }
      let good : Prop := Config.puf s.helper ≠ none ∧ Config.recordGood s.cfgRecord = true
        ∧ Config.recordIdentity s.cfgRecord = known.identity ∧ chainOk s.journal = true
      (stop = some s.boot ∨ s.boot = 2 ∧ ¬ good → t.boot = s.boot ∧ t.bootErr = true ∧ t.booting = none)
      ∧ (stop ≠ some s.boot → (s.boot = 2 → good) →
        (s.boot < 4 → t.boot = s.boot + 1 ∧ t.booting = some stop ∧ t.bootErr = s.bootErr)
        ∧ (s.boot = 4 → t.boot = 5 ∧ t.booting = none ∧ (t.bootErr = true ↔ stop = some 5))
        ∧ (s.boot = 2 → t.seed = Config.puf s.helper ∧ t.mlog.length = s.mlog.length + 2
          ∧ t.variant = if Config.recordIsM s.cfgRecord then .m else .x)
        ∧ (s.boot = 3 → t.dram = Memory.empty ∧ t.poison = []) ∧ (s.boot ≠ 3 → t.dram = s.dram))

/-- R174, R215, R278, R296, R297, R362, R366: device time is set once before the first ring; a reference's measurements, its loss and
a write of TCTL move the time unit; register writes act on the registers R366 gives the writer and on nothing else; the host's
window and a transmit command read and write memory, and poison that would leave by a port goes nowhere. What TSTAT is after a
write of TCTL is the model's choice (log 44); so are the host writes and reserved bits that are ignored and the registers of the
dump block (log 46), and what a transmit command does with poison (log 10). -/
def Obligations.TimeAndHostResults : Prop :=
  ∀ (s : State),
    (∀ ns, (s.timeSet = false → exec (.setDeviceTime ns) s = .next { s with now := ns % 2 ^ 64, timeSet := true })
      ∧ (s.timeSet = true → exec (.setDeviceTime ns) s = .next s))
    ∧ (∀ port domain off locked, let src := s.tctl.toNat % 4
      let took : State := { s with toff := off, tstat := if locked = true then 2 else 1 }
      (src = 2 → exec (.ppsInput off locked) s = .next took) ∧ (src ≠ 2 → exec (.ppsInput off locked) s = .next s)
      ∧ (src = 1 → s.tctl.toNat / 4 % 4 < s.eports → port = s.tctl.toNat / 4 % 4 → domain = s.tctl.toNat / 16 % 256 →
        exec (.ptpEventMessage port domain off locked) s = .next took)
      ∧ ((src ≠ 1 ∨ port ≠ s.tctl.toNat / 4 % 4 ∨ domain ≠ s.tctl.toNat / 16 % 256) →
        exec (.ptpEventMessage port domain off locked) s = .next s))
    ∧ (∀ us, (s.timeSource.isSome = true → 2 ≤ s.tstat.toNat →
        exec (.holdover us) s = .next { s with tstat := 3, thold := min (s.thold + us) 0xFFFFFFFF })
      ∧ (s.timeSource = none → exec (.holdover us) s = .next s))
    ∧ (∀ (x : Word) (fw : Bool),
      (∃ t, exec (.registerWrite 0x2000 x fw) s = .next t ∧ t.tctl = x &&& 0xFFF ∧ (t.tstat = 0 ∨ t.tstat = 1) ∧ t.toff = s.toff
        ∧ t.thold = s.thold ∧ t.now = s.now)
      ∧ (∀ ring, ring < 4096 → exec (.registerWrite (0x00800000 + 4 * ring) x fw) s = exec (.doorbell ring) s)
      ∧ (∀ part off p, part < 8 → s.part? part = some p → (off ≤ 0x10 ∧ off % 4 = 0) →
        (fw = false → exec (.registerWrite (0x02000000 + 0x1000 * part + off) x fw) s = .next s)
        ∧ (fw = true → ∃ t p1, exec (.registerWrite (0x02000000 + 0x1000 * part + off) x fw) s = .next t ∧ t.part? part = some p1
          ∧ (off < 0x10 → p1.share[off / 4]? = some (x &&& 0x1FF) ∧ p1.wdog = p.wdog)
          ∧ (off = 0x10 → p1.wdog = x &&& 0xFFFF ∧ p1.share = p.share)))
      ∧ (∀ i, i < s.stackCount →
        (fw = false → exec (.registerWrite (0x01000000 + 0x10000 * i) x fw) s = .next s)
        ∧ (fw = true → ∃ t, exec (.registerWrite (0x01000000 + 0x10000 * i) x fw) s = .next t ∧ t.dram = s.dram
          ∧ (t.die i).mqThresh = x.toNat % 2 ^ 16))
      ∧ (fw = true → ∃ t, exec (.registerWrite 0x03F00004 x fw) s = .next t ∧ t.dumps.length = s.dumps.length
        ∧ ∀ (i : Nat) (d : Dump), s.dumps[i]? = some d → t.dumps[i]? = some { d with retained := x.getLsbD i })
      ∧ (fw = false → exec (.registerWrite 0x03F00004 x fw) s = .next s)
      ∧ (∀ off, off < 0x2000 → exec (.registerWrite off x fw) s = .next s))
    ∧ ∀ part p off n bs, s.part? part = some p →
      let at_ : DWord := p.wbase + BitVec.ofNat 64 off
      (∀ s1 x, off + n ≤ 2 ^ 39 → s.transfer [13, part] ⟨part, some p.wasid, none, .wide, false⟩ at_ n none = (s1, x) →
        (x = none → exec (.hostWindowAccess part off n none) s = .next s1)
        ∧ ∀ r f, x = some (r, f) →
          exec (.hostWindowAccess part off n none) s = .next { s1 with hostData := s1.hostData ++ [r.map (·.1)] })
      ∧ (∀ s1 x, off + bs.length ≤ 2 ^ 39 →
        s.transfer [13, part] ⟨part, some p.wasid, none, .wide, false⟩ at_ bs.length (some bs) = (s1, x) →
        exec (.hostWindowAccess part off n (some bs)) s = .next s1)
      ∧ (2 ^ 39 < off + n → exec (.hostWindowAccess part off n none) s = .next s)
      ∧ ∀ asid addr s1 x, s.transfer [14, part, asid] ⟨part, some asid, none, .wide, false⟩ addr n none = (s1, x) →
        (x = none → exec (.transmitCommand part asid addr n) s = .next s1)
        ∧ ∀ r f, x = some (r, f) →
          (r.any (·.2) = false →
            exec (.transmitCommand part asid addr n) s = .next { s1 with portData := s1.portData ++ [r.map (·.1)] })
          ∧ (r.any (·.2) = true → ∃ t, exec (.transmitCommand part asid addr n) s = .next t ∧ t.portData = s1.portData
            ∧ t.dram = s1.dram ∧ (s1.frozen = false → t.devRings[0]? = (s1.devRings[0]?).map fun g => g.push 4096
              ⟨s1.now, 0x02, 0x80, 0xFF, 0xFF, 0xFF, MCheck.poisonConsumed.code, 0, 0, 0, 0⟩))

/-! ### Decoding, the step, memory and reset -/

/-- R21 to R41, the worked encodings after R45 and after R85: words of every format decode as the spec writes them out, and two
words that are no instruction do not. -/
def Obligations.DecodeReadsSpecWords : Prop :=
  decode 0x92600000#32 none = .ok (.smovi 12 0)
  ∧ decode 0x92582000#32 (some 0x01000100#32) = .ok (.smoviLong 11 0x01000100)
  ∧ decode 0xB0600047#32 none = .ok (.pkrd ⟨12, 0, 0, false, .device, .rlx, true, .b512⟩)
  ∧ decode 0x82618040#32 none = .ok (.saddImm 12 12 0x0040)
  ∧ decode 0xBA680003#32 none = .ok (.barwt 13 false)
  ∧ decode 0x38104020#32 none = .ok (.shlImm 2 2 2 ⟨0, false⟩)
  ∧ decode 0x70020102#32 none = .ok (.ld ⟨0, 16, 2, ⟨0, false⟩⟩ .b32)
  ∧ decode 0xE0000000#32 none = .ok (.phase 0)
  ∧ decode 0x3A880000#32 none = .ok (.icmpS32Imm .lt 1 0 0 ⟨0, false⟩)
  ∧ decode 0x4A200183#32 none = .ok (.fmax ⟨4, 0, 3, ⟨0, false⟩, true, true⟩)
  ∧ decode 0x4A0821A3#32 none = .ok (.fmax ⟨1, 1, 3, ⟨2, false⟩, true, true⟩)
  ∧ decode 0xBC000000#32 none = .ok (.waitc .pkt 0)
  ∧ decode 0xA8000003#32 none = .ok .exit
  ∧ decode 0x5C100101#32 none = .ok (.splat 2 2 ⟨0, false⟩)
  ∧ decode 0x6E006200#32 none = .ok (.give 3 4)
  ∧ decode 0x6C500001#32 none = .ok (.drop 10)
  ∧ decode 0#32 none = .ok (.iadd ⟨0, 0, 0, ⟨0, false⟩, false⟩)
  ∧ decode 0x78000000#32 none = .error .opcode
  ∧ decode 0xFFFFFFFF#32 none = .error .opcode

/-- R18 to R42: an instruction the tables list decodes from the words it is encoded in, every operand at every value, and from
no other words. -/
def Obligations.EncodeDecodeRoundTrip : Prop :=
  (∀ (i : Instr) (w : Word) (x : Option Word), i.wf = true → i.words = some (w, x) → decode w x = .ok i)
  ∧ ∀ (w : Word) (x : Option Word) (i : Instr), decode w x = .ok i →
    i.wf = true ∧ ∃ y, i.words = some (w, y) ∧ (y = none ∨ y = x)

/-- R9, R18, R42, R81, R96, R154, R169, and the model's agenda (log 2): a step takes the turn at the head of the agenda, and with none
left the current agent's; a warp's turn runs the instruction that the bytes at its pc decode to, ILLEGAL_OPCODE where they decode to
none, where the fetch has left its translations at the base die; an event's turn runs the event, and an upset strikes. What a step leaves is the instruction's or the event's next state with the
undo logs kept within their cores' pools (R81): with no log entry held, that state itself, and in any case that state but for its
blocks. That a turn
ends a step of bring-up under way is the model's choice (log 41), and so is that a fetch of a poisoned granule is a machine
check (log 51). -/
def Obligations.StepRunsDecodedInstruction : Prop :=
  let runs (s s0 : State) : Prop :=
    (∀ c, s0.ctx = some c →
      ((∀ k, k ∈ s0.codeKeys c.b c.w.pc.toNat → s0.poison.contains (k / 32) = false) →
        step s = settle (exec (s0.fetch c.b c.w) (s0.fetched c.b c.w.pc.toNat)))
      ∧ ((∃ k, k ∈ s0.codeKeys c.b c.w.pc.toNat ∧ s0.poison.contains (k / 32) = true) →
        step s = .next ((s0.fetched c.b c.w.pc.toNat).asyncMCheck c.wid .poisonConsumed)))
    ∧ (s0.ctx = none → step s = .next s0)
  let timed (s : State) (ns clocks : Nat) (rest : List Turn) : State :=
    ((State.countTime { s with agenda := rest } ns).countClocks clocks).bootStep
  (∀ s : State, s.agenda = [] → runs s s)
  ∧ (∀ (s : State) (ns clocks : Nat) (w : WarpId) (rest : List Turn), s.agenda = ⟨ns, clocks, .agent w⟩ :: rest →
    runs s ((timed s ns clocks rest).takeTurn w))
  ∧ (∀ (s : State) (ns clocks : Nat) (i : Instr) (rest : List Turn), s.agenda = ⟨ns, clocks, .event i⟩ :: rest →
    let s1 := timed s ns clocks rest
    (i.words = none → (∀ w, i ≠ .illegalOpcode w) → step s = settle (exec i s1)) ∧ (i.words ≠ none → step s = .next s1))
  ∧ (∀ (s : State) (ns clocks : Nat) (u : Upset) (rest : List Turn), s.agenda = ⟨ns, clocks, .upset u⟩ :: rest →
    step s = .next ((timed s ns clocks rest).strike u))
  ∧ (∀ o, (∀ t, o ≠ .next t) → settle o = o)
  ∧ (∀ s : State, ∃ t, settle (.next s) = .next t ∧ t = { s with blocks := t.blocks }
    ∧ ((∀ b, b ∈ s.blocks → ∀ w, w ∈ b.warps → w.undo = []) → t = s))
  ∧ ∀ (s : State) (b : Block) (w : Warp) (co : CodeObj) (w0 : Word), s.code? b.part b.code = some co →
    let pc := w.pc.toNat
    let word (at_ : Nat) (x : Word) : Prop := ∀ i, i < 4 → ∃ k, s.codePlace co (b.kern.codeOff + at_ + i) = some k
      ∧ s.dram.read k = x.extractLsb' (8 * i) 8
    word pc w0 → pc + 4 ≤ b.kern.codeSize →
    (∀ w1 i, word (pc + 4) w1 → pc + 8 ≤ b.kern.codeSize → decode w0 (some w1) = .ok i → s.fetch b w = i)
    ∧ (∀ i, b.kern.codeSize < pc + 8 → decode w0 none = .ok i → s.fetch b w = i)
    ∧ (∀ w1 e, word (pc + 4) w1 → pc + 8 ≤ b.kern.codeSize → decode w0 (some w1) = .error e → s.fetch b w = .illegalOpcode w0)

/-- Two memories in canonical form that read alike at every address are the same memory; a byte written is what is read
there, and every other address reads as before. -/
def Obligations.MemoryReadsWhatWasWritten : Prop :=
  (∀ m n : Memory, m.wf = true → n.wf = true → (∀ a, m.read a = n.read a) → m = n)
  ∧ ∀ (m : Memory) (a : Nat) (bs : List Byte), m.wf = true → (m.writeN a bs).wf = true
    ∧ ∀ k, (m.writeN a bs).read k = if a ≤ k ∧ k < a + bs.length then bs.getD (k - a) 0 else m.read k

/-- R163, R165, R364: whatever a step does that goes on, main memory stays in its canonical form, in which no two entries name
one address and no entry holds the zero that an unlisted address reads as. -/
def Obligations.MemoryStaysCanonical : Prop :=
  ∀ s t : State, s.dram.wf = true → step s = .next t → t.dram.wf = true

/-- R279, R288, R307, R362, R364: after reset memory is canonical and reads zero, the first launch identifier is 1, no ring,
launch or gang exists, and device time is 0. That the log rings are not frozen (log 4), that tables the spec gives no reset value
are empty (log 5), and that a step from reset changes nothing, since the agenda is empty and no program runs until one is loaded
(logs 2 and 7), are the model's choices. -/
def Obligations.ResetState : Prop :=
  State.reset.dram.wf = true ∧ (∀ a, State.reset.dram.read a = 0) ∧ State.reset.nextLid = 1 ∧ State.reset.now = 0
  ∧ State.reset.rings = [] ∧ State.reset.launches = [] ∧ State.reset.blocks = [] ∧ State.reset.tctl = 0
  ∧ State.reset.tstat = 0 ∧ State.reset.frozen = false ∧ step State.reset = .next State.reset

/-! ### Rounding and special operands (R108 to R111, R114 to R116, R119, R120), by exact values -/

/-- The four formats of vector floating point (R109). -/
def Sys2Proof.Spec.isFmt (f : Fmt) : Prop := f = .f64 ∨ f = .f32 ∨ f = .f16 ∨ f = .bf16

/-- The encodings of a format. -/
def Sys2Proof.Spec.codes (f : Fmt) : Nat := 2 ^ (1 + f.eb + f.mb)
/-- The sign bit of an encoding, as its weight. -/
def Sys2Proof.Spec.signW (f : Fmt) : Nat := 2 ^ (f.eb + f.mb)
/-- An encoding is negative. -/
def Sys2Proof.Spec.isNeg (f : Fmt) (x : Nat) : Bool := decide (Spec.signW f ≤ x)
/-- The exponent field of an encoding. -/
def Sys2Proof.Spec.expF (f : Fmt) (x : Nat) : Nat := x / 2 ^ f.mb % 2 ^ f.eb
/-- The fraction field of an encoding. -/
def Sys2Proof.Spec.fracF (f : Fmt) (x : Nat) : Nat := x % 2 ^ f.mb
/-- An encoding is a NaN. -/
def Sys2Proof.Spec.isNaN (f : Fmt) (x : Nat) : Bool := decide (Spec.expF f x = 2 ^ f.eb - 1 ∧ Spec.fracF f x ≠ 0)
/-- An encoding is a signalling NaN: the top fraction bit is clear (R110). -/
def Sys2Proof.Spec.isSNaN (f : Fmt) (x : Nat) : Bool := Spec.isNaN f x && decide (Spec.fracF f x < 2 ^ (f.mb - 1))
/-- An encoding is an infinity. -/
def Sys2Proof.Spec.isInf (f : Fmt) (x : Nat) : Bool := decide (Spec.expF f x = 2 ^ f.eb - 1 ∧ Spec.fracF f x = 0)
/-- The infinity of a sign. -/
def Sys2Proof.Spec.infOf (f : Fmt) (neg : Bool) : Nat := (2 ^ f.eb - 1) * 2 ^ f.mb + if neg then Spec.signW f else 0
/-- The largest finite encoding of a sign. -/
def Sys2Proof.Spec.maxOf (f : Fmt) (neg : Bool) : Nat := (2 ^ f.eb - 1) * 2 ^ f.mb - 1 + if neg then Spec.signW f else 0
/-- The zero of a sign. -/
def Sys2Proof.Spec.zeroOf (f : Fmt) (neg : Bool) : Nat := if neg then Spec.signW f else 0

/-- Two to an integer. -/
def Sys2Proof.Spec.pow2 (e : Int) : Rat := (2 : Rat) ^ e

/-- The magnitude that exponent and fraction fields stand for, with a bias and a fraction width (R109). -/
def Sys2Proof.Spec.magnitude (f : Fmt) (ex frac : Nat) : Rat :=
  ((if ex = 0 then frac else 2 ^ f.mb + frac : Nat) : Rat) * Spec.pow2 ((max ex 1 : Nat) - (2 ^ (f.eb - 1) - 1 : Nat) - (f.mb : Int))

/-- The value of a finite encoding, none of an infinity or a NaN. -/
def Sys2Proof.Spec.val (f : Fmt) (x : Nat) : Option Rat :=
  if Spec.expF f x = 2 ^ f.eb - 1 then none
  else some ((if Spec.isNeg f x then -1 else 1) * Spec.magnitude f (Spec.expF f x) (Spec.fracF f x))

/-- A magnitude that need not be rational, by the rationals below it and above it. -/
structure Sys2Proof.Spec.Exact where
  above : Rat → Prop
  below : Rat → Prop

/-- A rational magnitude. -/
def Sys2Proof.Spec.exact (v : Rat) : Spec.Exact := ⟨fun q => q < v, fun q => v < q⟩
/-- The square root of a rational. -/
def Sys2Proof.Spec.root (v : Rat) : Spec.Exact := ⟨fun q => q * q < v, fun q => v < q * q⟩

/-- A mode rounds away from zero at a sign. -/
def Sys2Proof.Spec.away (rm : Rm) (neg : Bool) : Bool := match rm, neg with | .ru, false | .rd, true => true | _, _ => false

/-- A magnitude `v` of a set of magnitudes is the rounding of an exact one: to the nearest with ties to the encoding `code` that
is even, away from zero, or towards it (R109). -/
def Sys2Proof.Spec.rounded (rm : Rm) (neg : Bool) (ex : Spec.Exact) (v : Rat) (odd : Bool) (member : Rat → Prop) : Prop :=
  if rm = .rn then ∀ w, member w →
    (v < w → ¬ ex.above ((v + w) / 2) ∧ (odd = true → ex.below ((v + w) / 2)))
    ∧ (w < v → ¬ ex.below ((v + w) / 2) ∧ (odd = true → ex.above ((v + w) / 2)))
  else if Spec.away rm neg then ¬ ex.above v ∧ ∀ w, member w → ¬ ex.above w → v ≤ w
  else ¬ ex.below v ∧ ∀ w, member w → ¬ ex.below w → w ≤ v

/-- The magnitude rounded with an unbounded exponent lies above the largest finite one (R109): `ulp` is the weight of the last
bit below `top`, twice the greatest power of two. -/
def Sys2Proof.Spec.overflows_ (rm : Rm) (neg : Bool) (ex : Spec.Exact) (top ulp : Rat) : Prop :=
  if rm = .rn then ¬ ex.below (top - ulp / 2) else if Spec.away rm neg then ex.above (top - ulp) else ¬ ex.below top

/-- The magnitude rounded with an unbounded exponent lies below the smallest normal one (R109). -/
def Sys2Proof.Spec.tiny (rm : Rm) (neg : Bool) (ex : Spec.Exact) (least ulp : Rat) : Prop :=
  if rm = .rn then ex.below (least - ulp / 4) else if Spec.away rm neg then ¬ ex.above (least - ulp / 2) else ex.below least

/-- The exceptions of a rounded result: NX, and UF where `uf` (R109). -/
def Sys2Proof.Spec.inexact (e : Exc) (nx uf : Prop) : Prop :=
  (e.getLsbD 4 = true ↔ nx) ∧ (e.getLsbD 3 = true ↔ nx ∧ uf) ∧ e &&& 7#5 = 0

/-- A result is a non-zero exact value of a sign rounded once (R108, R109). -/
def Sys2Proof.Spec.Rounds (f : Fmt) (rm : Rm) (ftz neg : Bool) (ex : Spec.Exact) (r : FRes) : Prop :=
  let bias : Int := (2 ^ (f.eb - 1) - 1 : Nat)
  let least := Spec.pow2 (1 - bias)
  let ulp := Spec.pow2 (1 - bias - f.mb)
  let large := Spec.overflows_ rm neg ex (Spec.pow2 (bias + 1)) (Spec.pow2 (bias - f.mb))
  let tiny := Spec.tiny rm neg ex least ulp
  (large → r.bits = (if rm = .rn ∨ Spec.away rm neg = true then Spec.infOf f neg else Spec.maxOf f neg) ∧ r.exc = 0x14#5)
  ∧ (ftz = true → tiny → r.bits = Spec.zeroOf f neg ∧ r.exc = 0x18#5)
  ∧ (¬ large → ¬ (ftz = true ∧ tiny) → ∃ code v, code < Spec.signW f ∧ r.bits = code + Spec.zeroOf f neg ∧ Spec.val f code = some v
      ∧ Spec.rounded rm neg ex v (code % 2 == 1) (fun w => ∃ y, y < Spec.signW f ∧ Spec.val f y = some w)
      ∧ Spec.inexact r.exc (ex.above v ∨ ex.below v) tiny)

/-- The largest finite code of an F8 format: 448 and 57,344 (R120). -/
def Sys2Proof.Spec.f8Top (k : F8) : Nat := match k with | .e4 => 0x7E | .e5 => 0x7B
/-- Exponent and fraction bits of an F8 format. -/
def Sys2Proof.Spec.f8Form (k : F8) : Fmt := match k with | .e4 => ⟨4, 3⟩ | .e5 => ⟨5, 2⟩
/-- The magnitude of an F8 code. -/
def Sys2Proof.Spec.f8Val (k : F8) (code : Nat) : Rat :=
  Spec.magnitude (Spec.f8Form k) (code / 2 ^ (Spec.f8Form k).mb) (code % 2 ^ (Spec.f8Form k).mb)

/-- A result is a non-zero exact value of a sign packed to F8 (R120): the code of the magnitude rounded once, or where that
exceeds the largest one the largest with .sat, else the result of R109 in E5 and the NaN in E4. -/
def Sys2Proof.Spec.RoundsF8 (k : F8) (rm : Rm) (sat neg : Bool) (ex : Spec.Exact) (r : FRes) : Prop :=
  let f := Spec.f8Form k
  let bias : Int := (2 ^ (f.eb - 1) - 1 : Nat)
  let sign := if neg then 0x80 else 0
  let large : Prop := match k with
    | .e5 => Spec.overflows_ rm neg ex 65536 8192
    | .e4 => if rm = .rn then ex.above 464 else if Spec.away rm neg then ex.above 448 else ¬ ex.below 480
  (large → r.exc = 0x14#5 ∧ r.bits = sign + if sat then Spec.f8Top k else
      match k with | .e4 => 0x7F | .e5 => if rm = .rn ∨ Spec.away rm neg = true then 0x7C else 0x7B)
  ∧ (¬ large → ∃ code, code ≤ Spec.f8Top k ∧ r.bits = code + sign
      ∧ Spec.rounded rm neg ex (Spec.f8Val k code) (code % 2 == 1) (fun w => ∃ y, y ≤ Spec.f8Top k ∧ Spec.f8Val k y = w)
      ∧ Spec.inexact r.exc (ex.above (Spec.f8Val k code) ∨ ex.below (Spec.f8Val k code))
        (Spec.tiny rm neg ex (Spec.pow2 (1 - bias)) (Spec.pow2 (1 - bias - f.mb))))

/-- A sum of two exact values, rounded once; an exact zero of opposite signs is +0, or −0 under .rd (R109). -/
def Sys2Proof.Spec.SumOf (f : Fmt) (rm : Rm) (ftz : Bool) (a b : Rat) (na nb : Bool) (r : FRes) : Prop :=
  let v := a + b
  (v ≠ 0 → Spec.Rounds f rm ftz (decide (v < 0)) (Spec.exact (if v < 0 then -v else v)) r)
  ∧ (v = 0 → r = ⟨Spec.zeroOf f (if na = nb then na else decide (rm = .rd)), 0⟩)

/-- A value with a sign rounded once, or a zero of that sign. -/
def Sys2Proof.Spec.ValueOf (f : Fmt) (rm : Rm) (ftz : Bool) (v : Rat) (neg : Bool) (r : FRes) : Prop :=
  (v ≠ 0 → Spec.Rounds f rm ftz neg (Spec.exact (if v < 0 then -v else v)) r) ∧ (v = 0 → r = ⟨Spec.zeroOf f neg, 0⟩)

/-- R108, R109, R111, R116, R119, R120: on finite operands FADD, FSUB, FMUL, FFMA, FDIV, FSQRT, CVT to a floating type and PKF8 give the
exact value rounded once by the mode, ties to even at .rn, with the overflow results, the flush of tiny results and the exceptions of the
rule; FRND gives the integral value that its mode chooses, in the operand's format and with its sign, and never raises NX. -/
def Obligations.RoundingIsExactOnce : Prop :=
  ∀ (f g : Fmt) (rm : Rm) (ftz : Bool) (x y z : Nat) (a b d : Rat), Spec.isFmt f → Spec.isFmt g →
    x < Spec.codes f → y < Spec.codes f → z < Spec.codes f →
    Spec.val f x = some a → Spec.val f y = some b → Spec.val f z = some d →
    let nx := Spec.isNeg f x
    let ny := Spec.isNeg f y
    let nz := Spec.isNeg f z
    Spec.SumOf f rm ftz a b nx ny (f.add rm ftz false x y)
    ∧ Spec.SumOf f rm ftz a (-b) nx (!ny) (f.add rm ftz true x y)
    ∧ Spec.ValueOf f rm ftz (a * b) (nx != ny) (f.mul rm ftz x y)
    ∧ Spec.SumOf f rm ftz (a * b) d (nx != ny) nz (f.fma rm ftz x y z)
    ∧ (b ≠ 0 → Spec.ValueOf f rm ftz (a / b) (nx != ny) (f.div rm ftz x y))
    ∧ (0 < a → Spec.Rounds f rm ftz false (Spec.root a) (f.sqrt rm ftz x))
    ∧ Spec.ValueOf g rm (ftz && decide (g ≠ .f64)) a nx (f.convert g rm false ftz x)
    ∧ (∀ v : Int, Spec.ValueOf g rm (ftz && decide (g ≠ .f64)) v (decide (v < 0)) (g.ofIntVal rm ftz v))
    ∧ (∀ (k : F8) (sat : Bool), (a ≠ 0 → Spec.RoundsF8 k rm sat nx (Spec.exact (if a < 0 then -a else a)) (f8Pack k f rm sat x))
        ∧ (a = 0 → f8Pack k f rm sat x = ⟨if nx then 0x80 else 0, 0⟩))
    ∧ (∃ n : Nat, Spec.val f (f.rint rm x).bits = some ((if nx then -1 else 1) * (n : Rat)) ∧ Spec.isNeg f (f.rint rm x).bits = nx
        ∧ (f.rint rm x).exc = 0
        ∧ Spec.rounded rm nx (Spec.exact (if a < 0 then -a else a)) n (n % 2 == 1) (fun w => ∃ k : Nat, w = (k : Rat)))

/-- The first NaN of some operands, quieted, where there is one; NV where one of them signals (R110). -/
def Sys2Proof.Spec.NaNOf (f : Fmt) (xs : List Nat) (r : FRes) : Prop :=
  ∀ x, xs.find? (Spec.isNaN f) = some x →
    r = ⟨if Spec.isSNaN f x then x + 2 ^ (f.mb - 1) else x, if xs.any (Spec.isSNaN f) then 1#5 else 0⟩

/-- The canonical quiet NaN with NV, the result of an invalid operation (R110). -/
def Sys2Proof.Spec.invalid (f : Fmt) : FRes := ⟨(2 ^ f.eb - 1) * 2 ^ f.mb + 2 ^ (f.mb - 1), 1#5⟩

/-- A value of the extended line, for the order of R114 and R115: its sign, and 0, 1 or 2 for a finite value and an infinity,
with the value. -/
def Sys2Proof.Spec.less (f : Fmt) (x y : Nat) : Prop :=
  match Spec.val f x, Spec.val f y with
  | some a, some b => a < b
  | some _, none => Spec.isNeg f y = false
  | none, some _ => Spec.isNeg f x = true
  | none, none => Spec.isNeg f x = true ∧ Spec.isNeg f y = false

/-- R110, R111, R114, R115, R119, R120: what operations give on NaNs, infinities and zeros: the first NaN quieted, or the canonical
NaN with NV where the operation is invalid; infinities and signed zeros as the arithmetic gives them; DZ and the infinity for a
division by zero; FMIN, FMAX and FCMP by the order of the values, −0 below +0 in the first two and equal to it in the third;
conversions to integers clamped with NV, to narrower formats saturated, and to F8 within its largest magnitude. -/
def Obligations.SpecialOperandResults : Prop :=
  ∀ (f g : Fmt) (rm : Rm) (ftz sub : Bool) (x y z : Nat), Spec.isFmt f → Spec.isFmt g →
    x < Spec.codes f → y < Spec.codes f → z < Spec.codes f →
    let nx := Spec.isNeg f x
    let ny := Spec.isNeg f y
    let nan2 : Prop := Spec.isNaN f x = true ∨ Spec.isNaN f y = true
    let zero (u : Nat) : Prop := Spec.val f u = some 0
    let inf (u : Nat) : Prop := Spec.isInf f u = true
    -- NaN operands
    Spec.NaNOf f [x, y] (f.add rm ftz sub x y) ∧ Spec.NaNOf f [x, y] (f.mul rm ftz x y) ∧ Spec.NaNOf f [x, y] (f.div rm ftz x y)
    ∧ Spec.NaNOf f [x] (f.sqrt rm ftz x) ∧ Spec.NaNOf f [x] (f.rint rm x)
    ∧ (¬ (inf x ∧ zero y ∨ zero x ∧ inf y) → Spec.NaNOf f [x, y, z] (f.fma rm ftz x y z))
    ∧ ((inf x ∧ zero y ∨ zero x ∧ inf y) → Spec.isNaN f z = true →
      f.fma rm ftz x y z = ⟨if Spec.isSNaN f z then z + 2 ^ (f.mb - 1) else z, 1#5⟩)
    -- infinities and zeros
    ∧ (inf x → inf y → f.add rm ftz sub x y = if nx = (ny != sub) then ⟨x, 0⟩ else Spec.invalid f)
    ∧ (inf x → (Spec.val f y).isSome = true → f.add rm ftz sub x y = ⟨x, 0⟩)
    ∧ ((Spec.val f x).isSome = true → inf y → f.add rm ftz sub x y = ⟨Spec.infOf f (ny != sub), 0⟩)
    ∧ (¬ nan2 → (inf x ∨ inf y) → f.mul rm ftz x y = if zero x ∨ zero y then Spec.invalid f else ⟨Spec.infOf f (nx != ny), 0⟩)
    ∧ (inf x → inf y → f.div rm ftz x y = Spec.invalid f)
    ∧ (zero x → zero y → f.div rm ftz x y = Spec.invalid f)
    ∧ (∀ a, Spec.val f x = some a → a ≠ 0 → zero y → f.div rm ftz x y = ⟨Spec.infOf f (nx != ny), 2#5⟩)
    ∧ (inf x → (Spec.val f y).isSome = true → f.div rm ftz x y = ⟨Spec.infOf f (nx != ny), 0⟩)
    ∧ ((Spec.val f x).isSome = true → inf y → f.div rm ftz x y = ⟨Spec.zeroOf f (nx != ny), 0⟩)
    ∧ (zero x → f.sqrt rm ftz x = ⟨x, 0⟩) ∧ (inf x → f.sqrt rm ftz x = if nx then Spec.invalid f else ⟨x, 0⟩)
    ∧ (∀ a, Spec.val f x = some a → a < 0 → f.sqrt rm ftz x = Spec.invalid f)
    ∧ (inf x → f.rint rm x = ⟨x, 0⟩)
    -- minimum, maximum and compare
    ∧ (let nv : Exc := if Spec.isSNaN f x || Spec.isSNaN f y then 1#5 else 0
      let before : Prop := Spec.less f x y ∨ (zero x ∧ zero y ∧ nx = true)
      (∀ hi, Spec.isNaN f x = true → Spec.isNaN f y = true → f.minmax hi x y = ⟨(Spec.invalid f).bits, nv⟩)
      ∧ (∀ hi, Spec.isNaN f x = true → Spec.isNaN f y = false → f.minmax hi x y = ⟨y, nv⟩)
      ∧ (∀ hi, Spec.isNaN f x = false → Spec.isNaN f y = true → f.minmax hi x y = ⟨x, nv⟩)
      ∧ (¬ nan2 → before → f.minmax false x y = ⟨x, 0⟩ ∧ f.minmax true x y = ⟨y, 0⟩)
      ∧ (¬ nan2 → ¬ before → f.minmax false x y = ⟨y, 0⟩ ∧ f.minmax true x y = ⟨x, 0⟩)
      ∧ (∀ k : FCond, (f.cmp k x y).1 = true ↔ match k with
        | .un => nan2
        | .ord => ¬ nan2
        | .eq => ¬ nan2 ∧ ¬ Spec.less f x y ∧ ¬ Spec.less f y x
        | .ne => nan2 ∨ Spec.less f x y ∨ Spec.less f y x
        | .lt => ¬ nan2 ∧ Spec.less f x y
        | .le => ¬ nan2 ∧ ¬ Spec.less f y x
        | .gt => ¬ nan2 ∧ Spec.less f y x
        | .ge => ¬ nan2 ∧ ¬ Spec.less f x y)
      ∧ (∀ k : FCond, (f.cmp k x y).2 = if k = .lt ∨ k = .le ∨ k = .gt ∨ k = .ge then (if nan2 then 1#5 else 0) else nv))
    -- conversions
    ∧ (∀ sat, Spec.isNaN f x = true → Spec.isNaN g (f.convert g rm sat ftz x).bits = true
      ∧ Spec.isSNaN g (f.convert g rm sat ftz x).bits = false ∧ Spec.isNeg g (f.convert g rm sat ftz x).bits = nx
      ∧ (f.convert g rm sat ftz x).exc = if Spec.isSNaN f x then 1#5 else 0)
    ∧ (∀ sat, inf x → f.convert g rm sat ftz x = ⟨if sat then Spec.maxOf g nx else Spec.infOf g nx, 0⟩)
    ∧ ((Spec.val f x).isSome = true → (f.convert g rm true ftz x).exc = (f.convert g rm false ftz x).exc
      ∧ (f.convert g rm true ftz x).bits = if Spec.isInf g (f.convert g rm false ftz x).bits then Spec.maxOf g nx
        else (f.convert g rm false ftz x).bits)
    ∧ (∀ t : Ty, t.isInt = true →
      (Spec.isNaN f x = true → toIntTy t rm (f.unpack x) = (0, 1#5))
      ∧ (inf x → toIntTy t rm (f.unpack x) = (if nx then t.lo else t.hi, 1#5))
      ∧ (∀ a, Spec.val f x = some a → ∃ n : Nat, let v : Int := if nx then -(n : Int) else n
          Spec.rounded rm nx (Spec.exact (if a < 0 then -a else a)) n (n % 2 == 1) (fun w => ∃ k : Nat, w = (k : Rat))
          ∧ toIntTy t rm (f.unpack x) = if v < t.lo then (t.lo, 1#5) else if t.hi < v then (t.hi, 1#5)
            else (v, if (v : Rat) = a then 0 else 0x10#5)))
    ∧ (∀ (k : F8) (sat : Bool), let r := f8Pack k f rm sat x
      (Spec.isNaN f x = true → r = ⟨(match k with | .e4 => 0x7F | .e5 => 0x7E) + (if nx then 0x80 else 0),
        if Spec.isSNaN f x then 1#5 else 0⟩)
      ∧ (inf x → r = ⟨(if sat then (match k with | .e4 => 0x7E | .e5 => 0x7B) else (match k with | .e4 => 0x7F | .e5 => 0x7C))
          + (if nx then 0x80 else 0), match k, sat with | .e4, false => 1#5 | _, _ => 0⟩)
      ∧ (sat = true → Spec.isNaN f x = false → r.bits % 0x80 ≤ match k with | .e4 => 0x7E | .e5 => 0x7B))

/-! ### Statements of several parts -/

/-- R88, R101, R103, R104, R17, R77. Lane integer instructions at .s32 without a modifier word: every part holds. -/
def Obligations.IntWordResults : Prop := Spec.IntBinaryWordResults ∧ Spec.IntUnaryWordResults

/-- R100, R103, R104, R102. Lane integer instructions at every type, with saturation: every part holds. -/
def Obligations.IntTypedResults : Prop := Spec.IntTypedBinaryResults ∧ Spec.IntTypedOtherResults

/-- R105, R107, R108, R109, R110, R111, R112, R114, R117, R126. Floating-point arithmetic and unary instructions: every part holds. -/
def Obligations.FloatResults : Prop := Spec.FloatArithmeticResults ∧ Spec.FloatUnaryResults

/-- R102, R107, R118, R119, R120, R121, R126. CVT, PKF8 and UPF8: every part holds. -/
def Obligations.ConvertAndPackResults : Prop := Spec.ConvertResults ∧ Spec.PackF8Results

/-- R63, R88, R89, R90, R92, R93, R94, R95, R102. Moves, cross-lane reads, predicates and divergence: every part holds. -/
def Obligations.MoveAndPredicateResults : Prop := Spec.MoveAndShuffleResults ∧ Spec.PredicateAndDivergenceResults

/-- R49, R79, R82, R83, R85, R86. Map edits, the handoff of rows between warps, and names that map no row: every part holds. -/
def Obligations.MapAndHandoffResults : Prop := Spec.MapEditResults ∧ Spec.HandoffResults ∧ Spec.UnmappedNameTraps

/-- R28, R88, R122, R123, R124. The uniform ALU in register and literal forms: every part holds. -/
def Obligations.UniformResults : Prop := Spec.UniformBinaryResults ∧ Spec.UniformLiteralResults

/-- R29, R64, R97, R98, R99, R131, R139, R200. Branches, calls, returns and EXIT: every part holds. -/
def Obligations.ControlAndExitResults : Prop := Spec.ControlResults ∧ Spec.ExitResults

/-- R79, R102, R155, R156, R162, R178, R179, R205, R209, R139. LD and ST in both their forms, and where they trap: every part holds. -/
def Obligations.LaneMemoryResults : Prop := Spec.LoadResults ∧ Spec.StoreResults ∧ Spec.LoadStoreChecks

/-- R33, R79, R102, R126, R139, R155, R156, R180. ATOM performs its lanes in ascending order, and where it traps: every part holds. -/
def Obligations.AtomicResults : Prop := Spec.AtomicLaneResults ∧ Spec.AtomicChecks

/-- R52, R125, R139, R156, R158, R182, R290. SPILL, FILL, SLD, SST and SLDK, and their traps: every part holds. -/
def Obligations.SpillAndUniformMemoryResults : Prop := Spec.SpillAndFillResults ∧ Spec.UniformMemoryResults

/-- R147, R149, R150, R184, R185, R204, R205. What packets hand over, and the order of their checks: every part holds. -/
def Obligations.PacketResults : Prop := Spec.PacketHandOverResults ∧ Spec.PacketChecks

/-- R107, R126, R218, R238, R254, R255, R256, R257. AZERO, ALD, AST and AMOVV: every part holds. -/
def Obligations.AccumulatorResults : Prop := Spec.AccumulatorNameResults ∧ Spec.AccumulatorMoveResults

/-- R70, R319, R320. BARB and PHASE: every part holds. -/
def Obligations.BarrierAndPhaseResults : Prop := Spec.BlockBarrierResults ∧ Spec.PhaseResults

/-- R64, R74, R75, R272, R273, R321, R322, R323, R324, R325, R327. GETWORK, VALID, LCNT, COLL, CANCEL and WRAPEND: every part holds. -/
def Obligations.WorkAndCancelResults : Prop := Spec.WorkInstructionResults ∧ Spec.CancelAndWrapEndResults

/-- R165, R166, R167, R168, R169, R170, R171, R173, R177, R368. Fault resolution, invalidation, identifiers and migration: every part holds. -/
def Obligations.TranslationAndMigrationResults : Prop := Spec.TranslationEventResults ∧ Spec.MigrationEventResults

/-- R131, R139, R189, R190, R193, R194, R200, R253, R255, R259, R272, R321. Copies, answers and matrix completions: every part holds. -/
def Obligations.CopyAndMatrixEventResults : Prop := Spec.CopyEventResults ∧ Spec.QueryAndMatrixEventResults

/-- R276, R277, R278, R279, R280, R281, R282, R285, R286. Rings, the merge, and the condition and timeout of WAITCNT: every part holds. -/
def Obligations.RingResults : Prop := Spec.RingRequestResults ∧ Spec.RingEventResults ∧ Spec.WaitcntHeadResults

/-- R74, R75, R285, R307, R348, R359, R360. WAITCNT, SIGNAL, CANCEL and METERSNAP packets, and the signing queue: every part holds. -/
def Obligations.ControlPacketResults : Prop := Spec.PacketAnswerResults ∧ Spec.SigningQueueResults

/-- R52, R73, R143, R158, R286, R287, R290, R291, R292, R299, R328. Prologue passes, submission and completion records: every part holds. -/
def Obligations.PassAndRecordResults : Prop := Spec.PrologueResults ∧ Spec.CompletionRecordBytes ∧ Spec.RecordVerdicts

/-- R52, R140, R141, R142, R302, R303, R304, R305, R307. Placement, gather, save and resume: every part holds. -/
def Obligations.SchedulerResults : Prop := Spec.PlacementEventResults ∧ Spec.SaveAndResumeResults

/-- R81, R138, R141, R143, R144, R146, R212, R294, R318, R326, R364. The debugger, the undo pools, machine checks, fatal events and the tide tick: every part holds. -/
def Obligations.DebugAndDeviceResults : Prop := Spec.DebugEventResults ∧ Spec.UndoPoolResults ∧ Spec.DeviceEventResults

/-- R10, R82, R237, R289, R355, R356, R359, R361. Code objects, the measurement log and signed records: every part holds. -/
def Obligations.CodeAndRecordResults : Prop := Spec.CodeImageResults ∧ Spec.CodeObjectResults ∧ Spec.SignedRecordResults
end

