-- ==== Sys2Proof/Laws/Names.lean ====
section
/-! SUPPORT. What the shared operations on rows and names do: keyed lists, reference counts, `vwrite`, `sput` and `pput`,
and what running an instruction comes to once its checks have passed. -/
namespace Sys2Proof.Machine

/-! ### Keyed lists -/

theorem lookupN_nil {α : Type} (k : Nat) : lookupN ([] : List (Nat × α)) k = none := rfl

theorem lookupN_cons {α : Type} (j : Nat) (y : α) (t : List (Nat × α)) (k : Nat) :
    lookupN ((j, y) :: t) k = if j = k then some y else lookupN t k := by
  by_cases h : j = k <;> simp [lookupN, h]

theorem lookupN_insertN {α : Type} (l : List (Nat × α)) (k j : Nat) (x : α) :
    lookupN (insertN l k x) j = if k = j then some x else lookupN l j := by
  induction l with
  | nil => simp [insertN, lookupN_cons, lookupN_nil]
  | cons a t ih =>
    obtain ⟨i, y⟩ := a
    simp only [insertN]
    split
    · exact lookupN_cons ..
    · split
      · next h => subst h; rw [lookupN_cons, lookupN_cons]; split <;> rfl
      · next h =>
        rw [lookupN_cons, ih, lookupN_cons]
        by_cases h1 : i = j <;> by_cases h2 : k = j <;> simp_all

theorem lookupN_eraseN {α : Type} (l : List (Nat × α)) (k j : Nat) :
    lookupN (eraseN l k) j = if k = j then none else lookupN l j := by
  induction l with
  | nil => simp [eraseN, lookupN_nil]
  | cons a t ih =>
    obtain ⟨i, y⟩ := a
    rw [lookupN_cons]
    by_cases h : i = k
    · rw [show eraseN ((i, y) :: t) k = eraseN t k by simp [eraseN, h], ih]
      by_cases h2 : k = j <;> simp_all
    · rw [show eraseN ((i, y) :: t) k = (i, y) :: eraseN t k by simp [eraseN, h], lookupN_cons, ih]
      by_cases h1 : i = j <;> by_cases h2 : k = j <;> simp_all

/-! ### Rows -/

theorem row?_putRow (b : Block) (id k : Nat) (r : Row) :
    (b.putRow id r).row? k = if id = k then some r else b.row? k := by
  simp only [Block.row?, Block.putRow, lookupN_insertN]

/-- What dropping a reference leaves of a row (R50, R77): the row named has one reference fewer, and is freed at none. -/
theorem row?_decRow (b : Block) (id k : Nat) :
    (b.decRow id).row? k = if id = k then
        (b.row? id).bind fun r => if r.count ≤ 1 then none else some { r with count := r.count - 1 }
      else b.row? k := by
  unfold Block.decRow
  cases h : b.row? id with
  | none => simp only [Option.bind_none]; split <;> simp_all
  | some r =>
    simp only [Option.bind_some]
    by_cases hc : r.count ≤ 1
    · simp only [hc, if_true]; show lookupN (eraseN b.rows id) k = _; rw [lookupN_eraseN]; rfl
    · simp only [hc, if_false]; show lookupN (insertN b.rows id _) k = _; rw [lookupN_insertN]; rfl

theorem row?_dropRef_none (b : Block) (m : Option Nat) (k : Nat) (h : b.row? k = none) :
    (b.dropRef m).row? k = none := by
  cases m with
  | none => exact h
  | some id =>
    show (b.decRow id).row? k = none
    rw [row?_decRow]
    split
    · next e => subst e; simp [h]
    · exact h

theorem dropRef_frame (b : Block) (m : Option Nat) : b.dropRef m = { b with rows := (b.dropRef m).rows } := by
  cases m with
  | none => rfl
  | some id =>
    show b.decRow id = { b with rows := (b.decRow id).rows }
    unfold Block.decRow
    split
    · split <;> rfl
    · rfl

theorem foldl_max_le {α : Type} (l : List α) (f : α → Nat) (m : Nat) : m ≤ l.foldl (fun n x => max n (f x)) m := by
  induction l generalizing m with
  | nil => exact Nat.le_refl _
  | cons a t ih => exact Nat.le_trans (Nat.le_max_left ..) (ih _)

theorem freshRow_above (l : List (Nat × Row)) (m k : Nat) (h : l.foldl (fun n x => max n (x.1 + 1)) m ≤ k) :
    lookupN l k = none := by
  induction l generalizing m with
  | nil => rfl
  | cons a t ih =>
    obtain ⟨i, y⟩ := a
    simp only [List.foldl_cons] at h
    rw [lookupN_cons, if_neg, ih _ h]
    have := foldl_max_le t (fun x : Nat × Row => x.1 + 1) (max m (i + 1))
    omega

/-- A fresh row's number names no row yet. -/
theorem row?_freshRow (b : Block) : b.row? b.freshRow = none := freshRow_above b.rows 0 _ (Nat.le_refl _)

/-! ### Writing a v-name (R17) -/

/-- `vwrite` does what R17 says of write(v, row), whatever the state. -/
theorem vwrite_wrote (c : Ctx) (n : Name) (act : Mask) (x : Nat → Word) (bad : Mask) :
    c.Wrote n act x bad (c.vwrite n act x bad) := by
  refine ⟨c.b.freshRow, c.newRow n act x bad, row?_freshRow c.b, rfl, rfl, ?_, ?_, rfl, ?_, ?_, rfl⟩
  · show Block.putRow _ _ _ = _
    rw [dropRef_frame c.b]; rfl
  · show (Block.putRow _ _ _).row? _ = _
    rw [row?_putRow, if_pos rfl]
  · intro k hk
    show (Block.putRow _ _ _).row? k = _
    rw [row?_putRow, if_neg (fun e => hk e.symm)]
  · intro i
    simp only [Ctx.newRow, Fin.getElem_fin, Vector.getElem_ofFn]

/-- `vwriteW` writes a name or a pair. -/
theorem vwriteW_wrote (c : Ctx) (n : Name) (wide : Bool) (act : Mask) (x : Nat → BitVec 64) (bad : Mask) :
    c.WroteDbl n wide act x bad (c.vwriteW n wide act x bad) := by
  refine ⟨_, vwrite_wrote c n act _ bad, ?_⟩
  cases wide
  · rfl
  · exact vwrite_wrote ..

/-! ### Writing an s-name and a p-name -/

theorem sget_sput (w : Warp) (n k : Name) (x : Word) (bad : Bool) :
    (w.sput n x bad).sget k = if k = n then x else w.sget k := by
  show (w.s.set n.toNat x n.isLt)[k.toNat] = _
  rw [Vector.getElem_set]
  by_cases h : k = n
  · simp [h]
  · have : n.toNat ≠ k.toNat := fun e => h (BitVec.eq_of_toNat_eq e.symm)
    simp [h, this, Warp.sget]

theorem bit_at (n k : Nat) (hk : k < 64) : (1#64 <<< n).getLsbD k = decide (k = n) := by
  simp only [BitVec.getLsbD_shiftLeft, BitVec.getLsbD_one, hk, decide_true, Bool.true_and]
  by_cases h : k < n
  · have : k ≠ n := by omega
    simp [h, this]
  · by_cases e : k = n
    · simp [e]
    · have : k - n ≠ 0 := by omega
      simp [h, e, this]

theorem sbad_sput (w : Warp) (n k : Name) (x : Word) (bad : Bool) :
    (w.sput n x bad).sbad k = if k = n then bad else w.sbad k := by
  have hk : k.toNat < 64 := k.isLt
  have h2 : (k = n) = (k.toNat = n.toNat) := propext ⟨fun e => e ▸ rfl, fun e => BitVec.eq_of_toNat_eq e⟩
  show BitVec.getLsbD (if bad then _ else _) k.toNat = _
  have h := bit_at n.toNat k.toNat hk
  cases bad
  · simp only [Bool.false_eq_true, if_false, BitVec.getLsbD_and, BitVec.getLsbD_not, h, hk, decide_true, Bool.true_and, h2]
    by_cases e : k.toNat = n.toNat <;> simp [e, Warp.sbad]
  · simp only [if_true, BitVec.getLsbD_or, h, h2]
    by_cases e : k.toNat = n.toNat <;> simp [e, Warp.sbad]

theorem sput_setS (c : Ctx) (n : Name) (x : Word) (bad : Bool) : c.SetS n x bad (c.sput n x bad) :=
  ⟨rfl, fun _ => ⟨sget_sput .., sbad_sput ..⟩⟩

theorem pput_frame (w : Warp) (n : PName) (lanes x bad : Mask) :
    w.pput n lanes x bad = { w with p := (w.pput n lanes x bad).p, pPoison := (w.pput n lanes x bad).pPoison } := by
  unfold Warp.pput
  split <;> rfl

theorem pget_pput (w : Warp) (n k : PName) (lanes x bad : Mask) :
    (w.pput n lanes x bad).pget k = if k = n ∧ n ≠ 0 then (w.pget n &&& ~~~lanes) ||| (x &&& lanes) else w.pget k := by
  by_cases h0 : n = 0
  · simp [Warp.pput, h0]
  · by_cases hk0 : k = 0
    · subst hk0
      rw [if_neg (fun h => h0 h.1.symm)]; rfl
    · simp only [Warp.pput, h0, if_false, Warp.pget, hk0, Vector.getElem_set, not_false_eq_true, and_true, ne_eq]
      by_cases hkn : k = n
      · subst hkn; simp
      · have : n.toNat ≠ k.toNat := fun e => hkn (BitVec.eq_of_toNat_eq e.symm)
        simp [hkn, this]

theorem pbad_pput (w : Warp) (n k : PName) (lanes x bad : Mask) :
    (w.pput n lanes x bad).pbad k = if k = n ∧ n ≠ 0 then (w.pbad n &&& ~~~lanes) ||| (bad &&& lanes) else w.pbad k := by
  by_cases h0 : n = 0
  · simp [Warp.pput, h0]
  · by_cases hk0 : k = 0
    · subst hk0
      rw [if_neg (fun h => h0 h.1.symm)]; rfl
    · simp only [Warp.pput, h0, if_false, Warp.pbad, hk0, Vector.getElem_set, not_false_eq_true, and_true, ne_eq]
      by_cases hkn : k = n
      · subst hkn; simp
      · have : n.toNat ≠ k.toNat := fun e => hkn (BitVec.eq_of_toNat_eq e.symm)
        simp [hkn, this]

theorem pput_setP (c : Ctx) (n : PName) (lanes x bad : Mask) : c.SetP n lanes x bad (c.pput n lanes x bad) := by
  refine ⟨?_, rfl, fun k hk => ?_, fun h0 => ?_⟩
  · show ({ c with w := c.w.pput n lanes x bad } : Ctx) = _
    rw [pput_frame]; rfl
  · have : ¬ (k = n ∧ n ≠ 0) := by
      rintro ⟨rfl, h0⟩
      rcases hk with h | h
      · exact h rfl
      · exact h0 h
    constructor
    · show (c.w.pput n lanes x bad).pget k = _
      rw [pget_pput, if_neg this]
    · show (c.w.pput n lanes x bad).pbad k = _
      rw [pbad_pput, if_neg this]
  · constructor
    · show (c.w.pput n lanes x bad).pget n = _
      rw [pget_pput, if_pos ⟨rfl, h0⟩]
    · show (c.w.pput n lanes x bad).pbad n = _
      rw [pbad_pput, if_pos ⟨rfl, h0⟩]

/-! ### Running an instruction -/

theorem ctxAt_s (s : State) (a : WarpId) (c : Ctx) (h : s.ctxAt a = some c) : c.s = s := by
  unfold State.ctxAt at h
  split at h
  · cases h
  · split at h
    · split at h
      · cases h
      · split at h
        · cases h
        · cases h; rfl
    · cases h

theorem ctx_s (s : State) (c : Ctx) (h : s.ctx = some c) : c.s = s := by
  unfold State.ctx at h
  cases hc : s.cur with
  | none => simp [hc] at h
  | some a => rw [hc] at h; exact ctxAt_s s a c h

/-- An instruction that its warp may execute does what its meaning says. -/
theorem run_admits (s : State) (c : Ctx) (i : Instr) (f : Ctx → Eff) (h : s.ctx = some c) (ha : c.admits i = true) :
    s.run i f = .next (c.finish i (f c)) := by
  unfold Ctx.admits at ha
  simp only [Bool.and_eq_true, Bool.not_eq_true', Option.isNone_iff_eq_none] at ha
  simp only [State.run, h, ha.1, ha.2, Bool.false_eq_true, if_false]

theorem needs_mapped (c : Ctx) (act : Mask) (ns : List Name) (k : Eff) (h : c.mapped act ns = true) :
    c.needs act ns k = k := by
  unfold Ctx.mapped at h
  unfold Ctx.needs
  split
  · rfl
  · next ha =>
    have hn : (ns.all fun n => (c.w.vmap n).isSome) = true := by
      rcases Bool.or_eq_true_iff.mp h with h | h
      · exact absurd (of_decide_eq_true h) ha
      · exact h
    have : c.unmapped? ns = none := by
      unfold Ctx.unmapped?
      rw [List.find?_eq_none]
      intro n hm
      have := List.all_eq_true.mp hn n hm
      cases hv : c.w.vmap n <;> simp_all
    rw [this]

end Sys2Proof.Machine
end

