-- ==== Sys2Proof/Laws/Lanes.lean ====
section
/-! SUPPORT. What the lane shapes come to: operands read, `laneOp` and `predOp`, and words seen through double words. -/
namespace Sys2Proof.Machine

/-! ### Operands (R100) -/

/-- An operand read is what the statements call its words and its poison. -/
theorem Opnd.read_eq (c : Ctx) (n : Name) (s wide : Bool) :
    Opnd.read c ⟨n, s, wide⟩ = ⟨c.dbl n s wide, c.badDbl n s wide⟩ := by
  cases s <;> cases wide
  · rfl
  · rfl
  · show (⟨fun _ => _, if c.w.sbad n || false then _ else _⟩ : Read) = ⟨fun _ => _, if c.w.sbad n then _ else _⟩
    rw [Bool.or_false]; rfl
  · show (⟨fun _ => _, if c.w.sbad n || (true && c.w.sbad (n + 1)) then _ else _⟩ : Read) =
      ⟨fun _ => _, (if c.w.sbad n then _ else _) ||| (if c.w.sbad (n + 1) then _ else _)⟩
    cases c.w.sbad n <;> cases c.w.sbad (n + 1) <;> rfl

theorem Opnd.vnames_eq (n : Name) (s wide : Bool) : Opnd.vnames ⟨n, s, wide⟩ = srcNames n s wide := by
  cases s <;> cases wide <;> rfl

theorem dbl_narrow (c : Ctx) (n : Name) (s : Bool) (i : Nat) : c.dbl n s false i = (c.word n s i).setWidth 64 := rfl

theorem loWord_setWidth (x : Word) : loWord (x.setWidth 64) = x := by
  simp [loWord]

/-! ### Shapes -/

/-- An instruction that retires leaves what its meaning computed. -/
theorem runs_done (s : State) (c : Ctx) (i : Instr) (f : Ctx → Eff) (pc : Word) (k : Ctx) (P : Ctx → Prop)
    (h : s.ctx = some c) (ha : c.admits i = true) (he : exec i s = s.run i f) (hf : f c = .retire k pc) (hp : P k) :
    s.Runs c i pc P :=
  ⟨k, hp, by rw [he, run_admits s c i f h ha, hf]; rfl⟩

/-- The lane shape: one result of its operands in each active lane, to a name or a pair. -/
theorem laneOp_eq (c : Ctx) (g : Guard) (len : Nat) (d : Name) (wide : Bool) (os : List Opnd)
    (f : Nat → List (BitVec 64) → BitVec 64) (hm : c.mapped (c.active g) (os.flatMap Opnd.vnames) = true) :
    c.laneOp g len d wide os f = .retire (c.vwriteW d wide (c.active g)
      (fun i => f i ((os.map (Opnd.read c)).map fun r => r.val i))
      ((os.map (Opnd.read c)).foldl (fun m r => m ||| r.bad) 0)) (c.next len) := by
  unfold Ctx.laneOp
  rw [needs_mapped _ _ _ _ hm]
  simp only [Ctx.done, Ctx.next]
  congr 2
  cases wide <;> rfl

/-- The predicate shape: one bit of its operands in each active lane. -/
theorem predOp_eq (c : Ctx) (g : Guard) (len : Nat) (pd : PName) (os : List Opnd)
    (f : Nat → List (BitVec 64) → Bool) (hm : c.mapped (c.active g) (os.flatMap Opnd.vnames) = true) :
    c.predOp g len pd os f = .retire (c.pput pd (c.active g)
      (maskOf fun i => f i ((os.map (Opnd.read c)).map fun r => r.val i))
      ((os.map (Opnd.read c)).foldl (fun m r => m ||| r.bad) 0)) (c.next len) := by
  unfold Ctx.predOp
  rw [needs_mapped _ _ _ _ hm]
  simp only [Ctx.done, Ctx.next]
  congr 2
  show (c.w.pput _ _ _ _).pc = _
  rw [pput_frame]

/-- A narrow result's words. -/
theorem wroteDbl_narrow (c : Ctx) (n : Name) (act : Mask) (x : Nat → BitVec 64) (bad : Mask) (c1 : Ctx) :
    c.WroteDbl n false act x bad c1 ↔ c.Wrote n act (fun i => (x i).setWidth 32) bad c1 := by
  constructor
  · rintro ⟨c0, h, e⟩
    have : c1 = c0 := by simpa using e
    subst this; exact h
  · intro h; exact ⟨c1, h, by simp⟩

/-- What is written depends on the values of the active lanes alone. -/
theorem wrote_congr (c : Ctx) (n : Name) (act : Mask) (x y : Nat → Word) (bad : Mask) (c1 : Ctx)
    (h : ∀ i, i < 32 → act.getLsbD i = true → x i = y i) (hw : c.Wrote n act x bad c1) : c.Wrote n act y bad c1 := by
  obtain ⟨id, row, h1, h2, h3, h4, h5, h6, h7, h8, h9⟩ := hw
  refine ⟨id, row, h1, h2, h3, h4, h5, h6, h7, fun i => ?_, h9⟩
  rw [h8 i]
  by_cases ha : act.getLsbD i.val = true
  · simp only [ha, if_true, h i.val i.isLt ha]
  · simp only [ha]; rfl

theorem wroteDbl_congr (c : Ctx) (n : Name) (wide : Bool) (act : Mask) (x y : Nat → BitVec 64) (bad : Mask) (c1 : Ctx)
    (h : ∀ i, i < 32 → act.getLsbD i = true → x i = y i) (hw : c.WroteDbl n wide act x bad c1) :
    c.WroteDbl n wide act y bad c1 := by
  obtain ⟨c0, h0, h1⟩ := hw
  refine ⟨c0, wrote_congr c n act (fun i => (x i).setWidth 32) _ bad c0 (fun i hi ha => by rw [h i hi ha]) h0, ?_⟩
  cases wide
  · exact h1
  · exact wrote_congr c0 (n + 1) act (fun i => (x i).extractLsb' 32 32) _ bad c1 (fun i hi ha => by rw [h i hi ha]) h1

/-! ### Lanes of a mask -/

theorem mem_lanesOf (m : Mask) (i : Nat) : i ∈ lanesOf m ↔ i < 32 ∧ m.getLsbD i = true := by
  simp [lanesOf]

theorem lookupN_map {α : Type} (l : List Nat) (f : Nat → α) (i : Nat) (h : i ∈ l) :
    lookupN (l.map fun k => (k, f k)) i = some (f i) := by
  induction l with
  | nil => cases h
  | cons a t ih =>
    rw [List.map_cons, lookupN_cons]
    by_cases e : a = i
    · subst e; simp
    · rw [if_neg e, ih]
      rcases List.mem_cons.mp h with h | h
      · exact absurd h.symm e
      · exact h

end Sys2Proof.Machine
end

