-- ==== Sys2Proof/Laws/Memory.lean ====
section
/-! SUPPORT. Every operation on a memory keeps its canonical form: addresses strictly rising, no entry holding 0. -/
namespace Sys2Proof.Machine

/-! ### Cells -/

/-- A canonical list from a higher bound on is one from a lower bound on. -/
theorem cellsWf_mono (l : List Host.Cell) (lo hi : Nat) (h : lo ≤ hi) (hw : cellsWf hi l = true) : cellsWf lo l = true := by
  cases l with
  | nil => rfl
  | cons x t =>
    simp only [cellsWf, Bool.and_eq_true, decide_eq_true_eq] at hw ⊢
    exact ⟨⟨by omega, hw.1.2⟩, hw.2⟩

/-- A written byte keeps the form, from any bound that is not above its address. -/
theorem writeCells_wf (l : List Host.Cell) (lo a : Nat) (v : Byte) (h : lo ≤ a) (hw : cellsWf lo l = true) :
    cellsWf lo (writeCells l a v) = true := by
  induction l generalizing lo with
  | nil =>
    unfold writeCells
    by_cases hv : v = 0
    · rw [if_pos hv]; rfl
    · rw [if_neg hv]
      simp only [cellsWf, Bool.and_eq_true, decide_eq_true_eq]
      exact ⟨⟨h, bne_iff_ne.mpr hv⟩, trivial⟩
  | cons x t ih =>
    obtain ⟨b, w⟩ := x
    simp only [cellsWf, Bool.and_eq_true, decide_eq_true_eq] at hw
    unfold writeCells
    by_cases hab : a < b
    · rw [if_pos hab]
      by_cases hv : v = 0
      · rw [if_pos hv]
        simp only [cellsWf, Bool.and_eq_true, decide_eq_true_eq]
        exact hw
      · rw [if_neg hv]
        simp only [cellsWf, Bool.and_eq_true, decide_eq_true_eq]
        exact ⟨⟨h, bne_iff_ne.mpr hv⟩, ⟨⟨by omega, hw.1.2⟩, hw.2⟩⟩
    · rw [if_neg hab]
      by_cases hab' : a = b
      · rw [if_pos hab']
        by_cases hv : v = 0
        · rw [if_pos hv]; exact cellsWf_mono t lo (b + 1) (by omega) hw.2
        · subst hab'
          rw [if_neg hv]
          simp only [cellsWf, Bool.and_eq_true, decide_eq_true_eq]
          exact ⟨⟨h, bne_iff_ne.mpr hv⟩, hw.2⟩
      · rw [if_neg hab']
        simp only [cellsWf, Bool.and_eq_true, decide_eq_true_eq]
        exact ⟨hw.1, ih (b + 1) (by omega) hw.2⟩

/-- Cells taken away keep the form. -/
theorem filter_wf (l : List Host.Cell) (p : Host.Cell → Bool) (lo : Nat) (hw : cellsWf lo l = true) :
    cellsWf lo (l.filter p) = true := by
  induction l generalizing lo with
  | nil => rfl
  | cons x t ih =>
    obtain ⟨b, w⟩ := x
    simp only [cellsWf, Bool.and_eq_true, decide_eq_true_eq] at hw
    rw [List.filter_cons]
    split
    · simp only [cellsWf, Bool.and_eq_true, decide_eq_true_eq]
      exact ⟨hw.1, ih (b + 1) hw.2⟩
    · exact ih lo (cellsWf_mono t lo (b + 1) (by omega) hw.2)

/-! ### Memories -/

theorem Memory.empty_wf : Memory.empty.wf = true := rfl

theorem Memory.write_wf (m : Memory) (a : Nat) (v : Byte) (h : m.wf = true) : (m.write a v).wf = true :=
  writeCells_wf m.cells 0 a v (Nat.zero_le a) h

theorem Memory.writeN_wf (m : Memory) (a : Nat) (bs : List Byte) (h : m.wf = true) : (m.writeN a bs).wf = true := by
  induction bs generalizing m a with
  | nil => exact h
  | cons v t ih => exact ih _ _ (m.write_wf a v h)

theorem Memory.writeMask_wf (m : Memory) (a : Nat) (mask : Nat → Bool) (i : Nat) (bs : List Byte) (h : m.wf = true) :
    (m.writeMask a mask i bs).wf = true := by
  induction bs generalizing m i with
  | nil => exact h
  | cons v t ih =>
    unfold Memory.writeMask
    apply ih
    split
    · exact m.write_wf _ v h
    · exact h

/-- Any number of byte writes in turn keep the form. -/
theorem Memory.foldl_write_wf {α : Type} (l : List α) (a : α → Nat) (v : α → Byte) (m : Memory) (h : m.wf = true) :
    (l.foldl (fun (m : Memory) x => m.write (a x) (v x)) m).wf = true := by
  induction l generalizing m with
  | nil => exact h
  | cons x t ih => exact ih _ (m.write_wf _ _ h)

/-- Any number of writes of byte lists in turn keep the form. -/
theorem Memory.foldl_writeN_wf {α : Type} (l : List α) (a : α → Nat) (v : α → List Byte) (m : Memory) (h : m.wf = true) :
    (l.foldl (fun (m : Memory) x => m.writeN (a x) (v x)) m).wf = true := by
  induction l generalizing m with
  | nil => exact h
  | cons x t ih => exact ih _ (m.writeN_wf _ _ h)

/-- The bytes of an address range taken away, as a partition's end and a scrub of stacks do, keep the form. -/
theorem Memory.filter_wf (m : Memory) (p : Host.Cell → Bool) (h : m.wf = true) :
    (Memory.mk (m.cells.filter p)).wf = true := Machine.filter_wf m.cells p 0 h

/-! ### The state -/

/-- Reset memory is canonical. -/
theorem reset_dram_wf : State.reset.dram.wf = true := rfl

/-- A fresh scratchpad allocation is canonical. -/
theorem Scratch.fresh_wf (n : Nat) : (Scratch.fresh n).bytes.wf = true := rfl

/-- A scratchpad store keeps the form. -/
theorem Scratch.put_wf (sc : Scratch) (off : Nat) (bs : List Byte) (bad : Bool) (h : sc.bytes.wf = true) :
    (sc.put off bs bad).bytes.wf = true := sc.bytes.writeN_wf off bs h

@[simp] theorem Scratch.put_size (sc : Scratch) (off : Nat) (bs : List Byte) (bad : Bool) :
    (sc.put off bs bad).size = sc.size := rfl
@[simp] theorem Scratch.put_pend (sc : Scratch) (off : Nat) (bs : List Byte) (bad : Bool) :
    (sc.put off bs bad).pend = sc.pend := rfl
@[simp] theorem Scratch.setPend_size (sc : Scratch) (line n : Nat) : (sc.setPend line n).size = sc.size := rfl
@[simp] theorem Scratch.setPend_bytes (sc : Scratch) (line n : Nat) : (sc.setPend line n).bytes = sc.bytes := rfl
@[simp] theorem Scratch.setPend_poison (sc : Scratch) (line n : Nat) : (sc.setPend line n).poison = sc.poison := rfl
@[simp] theorem Scratch.taint_bytes (sc : Scratch) (off n : Nat) : (sc.taint off n).bytes = sc.bytes := rfl
@[simp] theorem Scratch.taint_pend (sc : Scratch) (off n : Nat) : (sc.taint off n).pend = sc.pend := rfl

/-- A line's pending count, written and read back. -/
theorem Scratch.pendOf_setPend_zero (sc : Scratch) (line : Nat) : (sc.setPend line 0).pendOf line = 0 := by
  unfold Scratch.setPend Scratch.pendOf
  simp only [if_true]
  have : lookupN (eraseN sc.pend line) line = none := by
    unfold lookupN eraseN
    rw [Option.map_eq_none_iff, List.find?_eq_none]
    intro x hx
    have := (List.mem_filter.mp hx).2
    simp only [bne_iff_ne, ne_eq] at this
    simpa using this
  rw [this]; rfl

end Sys2Proof.Machine
end

