-- ==== Sys2Proof/Laws/State.lean ====
section
/-! SUPPORT. What each update of the state, a block, a warp or a warp's copy leaves of each field: one lemma per field and
update, so that no proof unfolds one. -/
namespace Sys2Proof.Machine

/-! ### State.setDie -/

@[simp] theorem State.setDie_agenda (s : State) (i : Nat) (d : BaseDie) : (s.setDie i d).agenda = s.agenda := rfl
@[simp] theorem State.setDie_cur (s : State) (i : Nat) (d : BaseDie) : (s.setDie i d).cur = s.cur := rfl
@[simp] theorem State.setDie_fresh (s : State) (i : Nat) (d : BaseDie) : (s.setDie i d).fresh = s.fresh := rfl
@[simp] theorem State.setDie_upset (s : State) (i : Nat) (d : BaseDie) : (s.setDie i d).upset = s.upset := rfl
@[simp] theorem State.setDie_nextSeq (s : State) (i : Nat) (d : BaseDie) : (s.setDie i d).nextSeq = s.nextSeq := rfl
@[simp] theorem State.setDie_hostData (s : State) (i : Nat) (d : BaseDie) : (s.setDie i d).hostData = s.hostData := rfl
@[simp] theorem State.setDie_irqs (s : State) (i : Nat) (d : BaseDie) : (s.setDie i d).irqs = s.irqs := rfl
@[simp] theorem State.setDie_portData (s : State) (i : Nat) (d : BaseDie) : (s.setDie i d).portData = s.portData := rfl
@[simp] theorem State.setDie_variant (s : State) (i : Nat) (d : BaseDie) : (s.setDie i d).variant = s.variant := rfl
@[simp] theorem State.setDie_rank (s : State) (i : Nat) (d : BaseDie) : (s.setDie i d).rank = s.rank := rfl
@[simp] theorem State.setDie_shape (s : State) (i : Nat) (d : BaseDie) : (s.setDie i d).shape = s.shape := rfl
@[simp] theorem State.setDie_now (s : State) (i : Nat) (d : BaseDie) : (s.setDie i d).now = s.now := rfl
@[simp] theorem State.setDie_timeSet (s : State) (i : Nat) (d : BaseDie) : (s.setDie i d).timeSet = s.timeSet := rfl
@[simp] theorem State.setDie_clock (s : State) (i : Nat) (d : BaseDie) : (s.setDie i d).clock = s.clock := rfl
@[simp] theorem State.setDie_ticks (s : State) (i : Nat) (d : BaseDie) : (s.setDie i d).ticks = s.ticks := rfl
@[simp] theorem State.setDie_capped (s : State) (i : Nat) (d : BaseDie) : (s.setDie i d).capped = s.capped := rfl
@[simp] theorem State.setDie_capWant (s : State) (i : Nat) (d : BaseDie) : (s.setDie i d).capWant = s.capWant := rfl
@[simp] theorem State.setDie_tctl (s : State) (i : Nat) (d : BaseDie) : (s.setDie i d).tctl = s.tctl := rfl
@[simp] theorem State.setDie_tstat (s : State) (i : Nat) (d : BaseDie) : (s.setDie i d).tstat = s.tstat := rfl
@[simp] theorem State.setDie_toff (s : State) (i : Nat) (d : BaseDie) : (s.setDie i d).toff = s.toff := rfl
@[simp] theorem State.setDie_thold (s : State) (i : Nat) (d : BaseDie) : (s.setDie i d).thold = s.thold := rfl
@[simp] theorem State.setDie_boot (s : State) (i : Nat) (d : BaseDie) : (s.setDie i d).boot = s.boot := rfl
@[simp] theorem State.setDie_bootErr (s : State) (i : Nat) (d : BaseDie) : (s.setDie i d).bootErr = s.bootErr := rfl
@[simp] theorem State.setDie_booting (s : State) (i : Nat) (d : BaseDie) : (s.setDie i d).booting = s.booting := rfl
@[simp] theorem State.setDie_helper (s : State) (i : Nat) (d : BaseDie) : (s.setDie i d).helper = s.helper := rfl
@[simp] theorem State.setDie_certs (s : State) (i : Nat) (d : BaseDie) : (s.setDie i d).certs = s.certs := rfl
@[simp] theorem State.setDie_cfgRecord (s : State) (i : Nat) (d : BaseDie) : (s.setDie i d).cfgRecord = s.cfgRecord := rfl
@[simp] theorem State.setDie_seed (s : State) (i : Nat) (d : BaseDie) : (s.setDie i d).seed = s.seed := rfl
@[simp] theorem State.setDie_activeB (s : State) (i : Nat) (d : BaseDie) : (s.setDie i d).activeB = s.activeB := rfl
@[simp] theorem State.setDie_parts (s : State) (i : Nat) (d : BaseDie) : (s.setDie i d).parts = s.parts := rfl
@[simp] theorem State.setDie_tenancies (s : State) (i : Nat) (d : BaseDie) : (s.setDie i d).tenancies = s.tenancies := rfl
@[simp] theorem State.setDie_allots (s : State) (i : Nat) (d : BaseDie) : (s.setDie i d).allots = s.allots := rfl
@[simp] theorem State.setDie_journal (s : State) (i : Nat) (d : BaseDie) : (s.setDie i d).journal = s.journal := rfl
@[simp] theorem State.setDie_begun (s : State) (i : Nat) (d : BaseDie) : (s.setDie i d).begun = s.begun := rfl
@[simp] theorem State.setDie_finals (s : State) (i : Nat) (d : BaseDie) : (s.setDie i d).finals = s.finals := rfl
@[simp] theorem State.setDie_retired (s : State) (i : Nat) (d : BaseDie) : (s.setDie i d).retired = s.retired := rfl
@[simp] theorem State.setDie_retiring (s : State) (i : Nat) (d : BaseDie) : (s.setDie i d).retiring = s.retiring := rfl
@[simp] theorem State.setDie_seqNum (s : State) (i : Nat) (d : BaseDie) : (s.setDie i d).seqNum = s.seqNum := rfl
@[simp] theorem State.setDie_seqBound (s : State) (i : Nat) (d : BaseDie) : (s.setDie i d).seqBound = s.seqBound := rfl
@[simp] theorem State.setDie_signQ (s : State) (i : Nat) (d : BaseDie) : (s.setDie i d).signQ = s.signQ := rfl
@[simp] theorem State.setDie_mlog (s : State) (i : Nat) (d : BaseDie) : (s.setDie i d).mlog = s.mlog := rfl
@[simp] theorem State.setDie_mdigest (s : State) (i : Nat) (d : BaseDie) : (s.setDie i d).mdigest = s.mdigest := rfl
@[simp] theorem State.setDie_fwSlots (s : State) (i : Nat) (d : BaseDie) : (s.setDie i d).fwSlots = s.fwSlots := rfl
@[simp] theorem State.setDie_bootSlot (s : State) (i : Nat) (d : BaseDie) : (s.setDie i d).bootSlot = s.bootSlot := rfl
@[simp] theorem State.setDie_update (s : State) (i : Nat) (d : BaseDie) : (s.setDie i d).update = s.update := rfl
@[simp] theorem State.setDie_coreRings (s : State) (i : Nat) (d : BaseDie) : (s.setDie i d).coreRings = s.coreRings := rfl
@[simp] theorem State.setDie_devRings (s : State) (i : Nat) (d : BaseDie) : (s.setDie i d).devRings = s.devRings := rfl
@[simp] theorem State.setDie_frozen (s : State) (i : Nat) (d : BaseDie) : (s.setDie i d).frozen = s.frozen := rfl
@[simp] theorem State.setDie_dumps (s : State) (i : Nat) (d : BaseDie) : (s.setDie i d).dumps = s.dumps := rfl
@[simp] theorem State.setDie_dumpPage (s : State) (i : Nat) (d : BaseDie) : (s.setDie i d).dumpPage = s.dumpPage := rfl
@[simp] theorem State.setDie_dram (s : State) (i : Nat) (d : BaseDie) : (s.setDie i d).dram = s.dram := rfl
@[simp] theorem State.setDie_poison (s : State) (i : Nat) (d : BaseDie) : (s.setDie i d).poison = s.poison := rfl
@[simp] theorem State.setDie_symErr (s : State) (i : Nat) (d : BaseDie) : (s.setDie i d).symErr = s.symErr := rfl
@[simp] theorem State.setDie_writers (s : State) (i : Nat) (d : BaseDie) : (s.setDie i d).writers = s.writers := rfl
@[simp] theorem State.setDie_dies (s : State) (i : Nat) (d : BaseDie) : (s.setDie i d).dies = s.dies.setIfInBounds i d := rfl
@[simp] theorem State.setDie_faults (s : State) (i : Nat) (d : BaseDie) : (s.setDie i d).faults = s.faults := rfl
@[simp] theorem State.setDie_codes (s : State) (i : Nat) (d : BaseDie) : (s.setDie i d).codes = s.codes := rfl
@[simp] theorem State.setDie_rings (s : State) (i : Nat) (d : BaseDie) : (s.setDie i d).rings = s.rings := rfl
@[simp] theorem State.setDie_groups (s : State) (i : Nat) (d : BaseDie) : (s.setDie i d).groups = s.groups := rfl
@[simp] theorem State.setDie_taken (s : State) (i : Nat) (d : BaseDie) : (s.setDie i d).taken = s.taken := rfl
@[simp] theorem State.setDie_jobs (s : State) (i : Nat) (d : BaseDie) : (s.setDie i d).jobs = s.jobs := rfl
@[simp] theorem State.setDie_nextLid (s : State) (i : Nat) (d : BaseDie) : (s.setDie i d).nextLid = s.nextLid := rfl
@[simp] theorem State.setDie_launches (s : State) (i : Nat) (d : BaseDie) : (s.setDie i d).launches = s.launches := rfl
@[simp] theorem State.setDie_passes (s : State) (i : Nat) (d : BaseDie) : (s.setDie i d).passes = s.passes := rfl
@[simp] theorem State.setDie_dues (s : State) (i : Nat) (d : BaseDie) : (s.setDie i d).dues = s.dues := rfl
@[simp] theorem State.setDie_blocks (s : State) (i : Nat) (d : BaseDie) : (s.setDie i d).blocks = s.blocks := rfl
@[simp] theorem State.setDie_reqs (s : State) (i : Nat) (d : BaseDie) : (s.setDie i d).reqs = s.reqs := rfl
@[simp] theorem State.setDie_moves (s : State) (i : Nat) (d : BaseDie) : (s.setDie i d).moves = s.moves := rfl
@[simp] theorem State.setDie_copies (s : State) (i : Nat) (d : BaseDie) : (s.setDie i d).copies = s.copies := rfl
@[simp] theorem State.setDie_queries (s : State) (i : Nat) (d : BaseDie) : (s.setDie i d).queries = s.queries := rfl
@[simp] theorem State.setDie_gathers (s : State) (i : Nat) (d : BaseDie) : (s.setDie i d).gathers = s.gathers := rfl
@[simp] theorem State.setDie_engines (s : State) (i : Nat) (d : BaseDie) : (s.setDie i d).engines = s.engines := rfl

/-! ### State.setEngine -/

@[simp] theorem State.setEngine_agenda (s : State) (i : Nat) (e : TwEngine) : (s.setEngine i e).agenda = s.agenda := rfl
@[simp] theorem State.setEngine_cur (s : State) (i : Nat) (e : TwEngine) : (s.setEngine i e).cur = s.cur := rfl
@[simp] theorem State.setEngine_fresh (s : State) (i : Nat) (e : TwEngine) : (s.setEngine i e).fresh = s.fresh := rfl
@[simp] theorem State.setEngine_upset (s : State) (i : Nat) (e : TwEngine) : (s.setEngine i e).upset = s.upset := rfl
@[simp] theorem State.setEngine_nextSeq (s : State) (i : Nat) (e : TwEngine) : (s.setEngine i e).nextSeq = s.nextSeq := rfl
@[simp] theorem State.setEngine_hostData (s : State) (i : Nat) (e : TwEngine) : (s.setEngine i e).hostData = s.hostData := rfl
@[simp] theorem State.setEngine_irqs (s : State) (i : Nat) (e : TwEngine) : (s.setEngine i e).irqs = s.irqs := rfl
@[simp] theorem State.setEngine_portData (s : State) (i : Nat) (e : TwEngine) : (s.setEngine i e).portData = s.portData := rfl
@[simp] theorem State.setEngine_variant (s : State) (i : Nat) (e : TwEngine) : (s.setEngine i e).variant = s.variant := rfl
@[simp] theorem State.setEngine_rank (s : State) (i : Nat) (e : TwEngine) : (s.setEngine i e).rank = s.rank := rfl
@[simp] theorem State.setEngine_shape (s : State) (i : Nat) (e : TwEngine) : (s.setEngine i e).shape = s.shape := rfl
@[simp] theorem State.setEngine_now (s : State) (i : Nat) (e : TwEngine) : (s.setEngine i e).now = s.now := rfl
@[simp] theorem State.setEngine_timeSet (s : State) (i : Nat) (e : TwEngine) : (s.setEngine i e).timeSet = s.timeSet := rfl
@[simp] theorem State.setEngine_clock (s : State) (i : Nat) (e : TwEngine) : (s.setEngine i e).clock = s.clock := rfl
@[simp] theorem State.setEngine_ticks (s : State) (i : Nat) (e : TwEngine) : (s.setEngine i e).ticks = s.ticks := rfl
@[simp] theorem State.setEngine_capped (s : State) (i : Nat) (e : TwEngine) : (s.setEngine i e).capped = s.capped := rfl
@[simp] theorem State.setEngine_capWant (s : State) (i : Nat) (e : TwEngine) : (s.setEngine i e).capWant = s.capWant := rfl
@[simp] theorem State.setEngine_tctl (s : State) (i : Nat) (e : TwEngine) : (s.setEngine i e).tctl = s.tctl := rfl
@[simp] theorem State.setEngine_tstat (s : State) (i : Nat) (e : TwEngine) : (s.setEngine i e).tstat = s.tstat := rfl
@[simp] theorem State.setEngine_toff (s : State) (i : Nat) (e : TwEngine) : (s.setEngine i e).toff = s.toff := rfl
@[simp] theorem State.setEngine_thold (s : State) (i : Nat) (e : TwEngine) : (s.setEngine i e).thold = s.thold := rfl
@[simp] theorem State.setEngine_boot (s : State) (i : Nat) (e : TwEngine) : (s.setEngine i e).boot = s.boot := rfl
@[simp] theorem State.setEngine_bootErr (s : State) (i : Nat) (e : TwEngine) : (s.setEngine i e).bootErr = s.bootErr := rfl
@[simp] theorem State.setEngine_booting (s : State) (i : Nat) (e : TwEngine) : (s.setEngine i e).booting = s.booting := rfl
@[simp] theorem State.setEngine_helper (s : State) (i : Nat) (e : TwEngine) : (s.setEngine i e).helper = s.helper := rfl
@[simp] theorem State.setEngine_certs (s : State) (i : Nat) (e : TwEngine) : (s.setEngine i e).certs = s.certs := rfl
@[simp] theorem State.setEngine_cfgRecord (s : State) (i : Nat) (e : TwEngine) : (s.setEngine i e).cfgRecord = s.cfgRecord := rfl
@[simp] theorem State.setEngine_seed (s : State) (i : Nat) (e : TwEngine) : (s.setEngine i e).seed = s.seed := rfl
@[simp] theorem State.setEngine_activeB (s : State) (i : Nat) (e : TwEngine) : (s.setEngine i e).activeB = s.activeB := rfl
@[simp] theorem State.setEngine_parts (s : State) (i : Nat) (e : TwEngine) : (s.setEngine i e).parts = s.parts := rfl
@[simp] theorem State.setEngine_tenancies (s : State) (i : Nat) (e : TwEngine) : (s.setEngine i e).tenancies = s.tenancies := rfl
@[simp] theorem State.setEngine_allots (s : State) (i : Nat) (e : TwEngine) : (s.setEngine i e).allots = s.allots := rfl
@[simp] theorem State.setEngine_journal (s : State) (i : Nat) (e : TwEngine) : (s.setEngine i e).journal = s.journal := rfl
@[simp] theorem State.setEngine_begun (s : State) (i : Nat) (e : TwEngine) : (s.setEngine i e).begun = s.begun := rfl
@[simp] theorem State.setEngine_finals (s : State) (i : Nat) (e : TwEngine) : (s.setEngine i e).finals = s.finals := rfl
@[simp] theorem State.setEngine_retired (s : State) (i : Nat) (e : TwEngine) : (s.setEngine i e).retired = s.retired := rfl
@[simp] theorem State.setEngine_retiring (s : State) (i : Nat) (e : TwEngine) : (s.setEngine i e).retiring = s.retiring := rfl
@[simp] theorem State.setEngine_seqNum (s : State) (i : Nat) (e : TwEngine) : (s.setEngine i e).seqNum = s.seqNum := rfl
@[simp] theorem State.setEngine_seqBound (s : State) (i : Nat) (e : TwEngine) : (s.setEngine i e).seqBound = s.seqBound := rfl
@[simp] theorem State.setEngine_signQ (s : State) (i : Nat) (e : TwEngine) : (s.setEngine i e).signQ = s.signQ := rfl
@[simp] theorem State.setEngine_mlog (s : State) (i : Nat) (e : TwEngine) : (s.setEngine i e).mlog = s.mlog := rfl
@[simp] theorem State.setEngine_mdigest (s : State) (i : Nat) (e : TwEngine) : (s.setEngine i e).mdigest = s.mdigest := rfl
@[simp] theorem State.setEngine_fwSlots (s : State) (i : Nat) (e : TwEngine) : (s.setEngine i e).fwSlots = s.fwSlots := rfl
@[simp] theorem State.setEngine_bootSlot (s : State) (i : Nat) (e : TwEngine) : (s.setEngine i e).bootSlot = s.bootSlot := rfl
@[simp] theorem State.setEngine_update (s : State) (i : Nat) (e : TwEngine) : (s.setEngine i e).update = s.update := rfl
@[simp] theorem State.setEngine_coreRings (s : State) (i : Nat) (e : TwEngine) : (s.setEngine i e).coreRings = s.coreRings := rfl
@[simp] theorem State.setEngine_devRings (s : State) (i : Nat) (e : TwEngine) : (s.setEngine i e).devRings = s.devRings := rfl
@[simp] theorem State.setEngine_frozen (s : State) (i : Nat) (e : TwEngine) : (s.setEngine i e).frozen = s.frozen := rfl
@[simp] theorem State.setEngine_dumps (s : State) (i : Nat) (e : TwEngine) : (s.setEngine i e).dumps = s.dumps := rfl
@[simp] theorem State.setEngine_dumpPage (s : State) (i : Nat) (e : TwEngine) : (s.setEngine i e).dumpPage = s.dumpPage := rfl
@[simp] theorem State.setEngine_dram (s : State) (i : Nat) (e : TwEngine) : (s.setEngine i e).dram = s.dram := rfl
@[simp] theorem State.setEngine_poison (s : State) (i : Nat) (e : TwEngine) : (s.setEngine i e).poison = s.poison := rfl
@[simp] theorem State.setEngine_symErr (s : State) (i : Nat) (e : TwEngine) : (s.setEngine i e).symErr = s.symErr := rfl
@[simp] theorem State.setEngine_writers (s : State) (i : Nat) (e : TwEngine) : (s.setEngine i e).writers = s.writers := rfl
@[simp] theorem State.setEngine_dies (s : State) (i : Nat) (e : TwEngine) : (s.setEngine i e).dies = s.dies := rfl
@[simp] theorem State.setEngine_faults (s : State) (i : Nat) (e : TwEngine) : (s.setEngine i e).faults = s.faults := rfl
@[simp] theorem State.setEngine_codes (s : State) (i : Nat) (e : TwEngine) : (s.setEngine i e).codes = s.codes := rfl
@[simp] theorem State.setEngine_rings (s : State) (i : Nat) (e : TwEngine) : (s.setEngine i e).rings = s.rings := rfl
@[simp] theorem State.setEngine_groups (s : State) (i : Nat) (e : TwEngine) : (s.setEngine i e).groups = s.groups := rfl
@[simp] theorem State.setEngine_taken (s : State) (i : Nat) (e : TwEngine) : (s.setEngine i e).taken = s.taken := rfl
@[simp] theorem State.setEngine_jobs (s : State) (i : Nat) (e : TwEngine) : (s.setEngine i e).jobs = s.jobs := rfl
@[simp] theorem State.setEngine_nextLid (s : State) (i : Nat) (e : TwEngine) : (s.setEngine i e).nextLid = s.nextLid := rfl
@[simp] theorem State.setEngine_launches (s : State) (i : Nat) (e : TwEngine) : (s.setEngine i e).launches = s.launches := rfl
@[simp] theorem State.setEngine_passes (s : State) (i : Nat) (e : TwEngine) : (s.setEngine i e).passes = s.passes := rfl
@[simp] theorem State.setEngine_dues (s : State) (i : Nat) (e : TwEngine) : (s.setEngine i e).dues = s.dues := rfl
@[simp] theorem State.setEngine_blocks (s : State) (i : Nat) (e : TwEngine) : (s.setEngine i e).blocks = s.blocks := rfl
@[simp] theorem State.setEngine_reqs (s : State) (i : Nat) (e : TwEngine) : (s.setEngine i e).reqs = s.reqs := rfl
@[simp] theorem State.setEngine_moves (s : State) (i : Nat) (e : TwEngine) : (s.setEngine i e).moves = s.moves := rfl
@[simp] theorem State.setEngine_copies (s : State) (i : Nat) (e : TwEngine) : (s.setEngine i e).copies = s.copies := rfl
@[simp] theorem State.setEngine_queries (s : State) (i : Nat) (e : TwEngine) : (s.setEngine i e).queries = s.queries := rfl
@[simp] theorem State.setEngine_gathers (s : State) (i : Nat) (e : TwEngine) : (s.setEngine i e).gathers = s.gathers := rfl
@[simp] theorem State.setEngine_engines (s : State) (i : Nat) (e : TwEngine) : (s.setEngine i e).engines = s.engines.setIfInBounds i e := rfl

/-! ### State.setBlock -/

@[simp] theorem State.setBlock_agenda (s : State) (b : Block) : (s.setBlock b).agenda = s.agenda := rfl
@[simp] theorem State.setBlock_cur (s : State) (b : Block) : (s.setBlock b).cur = s.cur := rfl
@[simp] theorem State.setBlock_fresh (s : State) (b : Block) : (s.setBlock b).fresh = s.fresh := rfl
@[simp] theorem State.setBlock_upset (s : State) (b : Block) : (s.setBlock b).upset = s.upset := rfl
@[simp] theorem State.setBlock_nextSeq (s : State) (b : Block) : (s.setBlock b).nextSeq = s.nextSeq := rfl
@[simp] theorem State.setBlock_hostData (s : State) (b : Block) : (s.setBlock b).hostData = s.hostData := rfl
@[simp] theorem State.setBlock_irqs (s : State) (b : Block) : (s.setBlock b).irqs = s.irqs := rfl
@[simp] theorem State.setBlock_portData (s : State) (b : Block) : (s.setBlock b).portData = s.portData := rfl
@[simp] theorem State.setBlock_variant (s : State) (b : Block) : (s.setBlock b).variant = s.variant := rfl
@[simp] theorem State.setBlock_rank (s : State) (b : Block) : (s.setBlock b).rank = s.rank := rfl
@[simp] theorem State.setBlock_shape (s : State) (b : Block) : (s.setBlock b).shape = s.shape := rfl
@[simp] theorem State.setBlock_now (s : State) (b : Block) : (s.setBlock b).now = s.now := rfl
@[simp] theorem State.setBlock_timeSet (s : State) (b : Block) : (s.setBlock b).timeSet = s.timeSet := rfl
@[simp] theorem State.setBlock_clock (s : State) (b : Block) : (s.setBlock b).clock = s.clock := rfl
@[simp] theorem State.setBlock_ticks (s : State) (b : Block) : (s.setBlock b).ticks = s.ticks := rfl
@[simp] theorem State.setBlock_capped (s : State) (b : Block) : (s.setBlock b).capped = s.capped := rfl
@[simp] theorem State.setBlock_capWant (s : State) (b : Block) : (s.setBlock b).capWant = s.capWant := rfl
@[simp] theorem State.setBlock_tctl (s : State) (b : Block) : (s.setBlock b).tctl = s.tctl := rfl
@[simp] theorem State.setBlock_tstat (s : State) (b : Block) : (s.setBlock b).tstat = s.tstat := rfl
@[simp] theorem State.setBlock_toff (s : State) (b : Block) : (s.setBlock b).toff = s.toff := rfl
@[simp] theorem State.setBlock_thold (s : State) (b : Block) : (s.setBlock b).thold = s.thold := rfl
@[simp] theorem State.setBlock_boot (s : State) (b : Block) : (s.setBlock b).boot = s.boot := rfl
@[simp] theorem State.setBlock_bootErr (s : State) (b : Block) : (s.setBlock b).bootErr = s.bootErr := rfl
@[simp] theorem State.setBlock_booting (s : State) (b : Block) : (s.setBlock b).booting = s.booting := rfl
@[simp] theorem State.setBlock_helper (s : State) (b : Block) : (s.setBlock b).helper = s.helper := rfl
@[simp] theorem State.setBlock_certs (s : State) (b : Block) : (s.setBlock b).certs = s.certs := rfl
@[simp] theorem State.setBlock_cfgRecord (s : State) (b : Block) : (s.setBlock b).cfgRecord = s.cfgRecord := rfl
@[simp] theorem State.setBlock_seed (s : State) (b : Block) : (s.setBlock b).seed = s.seed := rfl
@[simp] theorem State.setBlock_activeB (s : State) (b : Block) : (s.setBlock b).activeB = s.activeB := rfl
@[simp] theorem State.setBlock_parts (s : State) (b : Block) : (s.setBlock b).parts = s.parts := rfl
@[simp] theorem State.setBlock_tenancies (s : State) (b : Block) : (s.setBlock b).tenancies = s.tenancies := rfl
@[simp] theorem State.setBlock_allots (s : State) (b : Block) : (s.setBlock b).allots = s.allots := rfl
@[simp] theorem State.setBlock_journal (s : State) (b : Block) : (s.setBlock b).journal = s.journal := rfl
@[simp] theorem State.setBlock_begun (s : State) (b : Block) : (s.setBlock b).begun = s.begun := rfl
@[simp] theorem State.setBlock_finals (s : State) (b : Block) : (s.setBlock b).finals = s.finals := rfl
@[simp] theorem State.setBlock_retired (s : State) (b : Block) : (s.setBlock b).retired = s.retired := rfl
@[simp] theorem State.setBlock_retiring (s : State) (b : Block) : (s.setBlock b).retiring = s.retiring := rfl
@[simp] theorem State.setBlock_seqNum (s : State) (b : Block) : (s.setBlock b).seqNum = s.seqNum := rfl
@[simp] theorem State.setBlock_seqBound (s : State) (b : Block) : (s.setBlock b).seqBound = s.seqBound := rfl
@[simp] theorem State.setBlock_signQ (s : State) (b : Block) : (s.setBlock b).signQ = s.signQ := rfl
@[simp] theorem State.setBlock_mlog (s : State) (b : Block) : (s.setBlock b).mlog = s.mlog := rfl
@[simp] theorem State.setBlock_mdigest (s : State) (b : Block) : (s.setBlock b).mdigest = s.mdigest := rfl
@[simp] theorem State.setBlock_fwSlots (s : State) (b : Block) : (s.setBlock b).fwSlots = s.fwSlots := rfl
@[simp] theorem State.setBlock_bootSlot (s : State) (b : Block) : (s.setBlock b).bootSlot = s.bootSlot := rfl
@[simp] theorem State.setBlock_update (s : State) (b : Block) : (s.setBlock b).update = s.update := rfl
@[simp] theorem State.setBlock_coreRings (s : State) (b : Block) : (s.setBlock b).coreRings = s.coreRings := rfl
@[simp] theorem State.setBlock_devRings (s : State) (b : Block) : (s.setBlock b).devRings = s.devRings := rfl
@[simp] theorem State.setBlock_frozen (s : State) (b : Block) : (s.setBlock b).frozen = s.frozen := rfl
@[simp] theorem State.setBlock_dumps (s : State) (b : Block) : (s.setBlock b).dumps = s.dumps := rfl
@[simp] theorem State.setBlock_dumpPage (s : State) (b : Block) : (s.setBlock b).dumpPage = s.dumpPage := rfl
@[simp] theorem State.setBlock_dram (s : State) (b : Block) : (s.setBlock b).dram = s.dram := rfl
@[simp] theorem State.setBlock_poison (s : State) (b : Block) : (s.setBlock b).poison = s.poison := rfl
@[simp] theorem State.setBlock_symErr (s : State) (b : Block) : (s.setBlock b).symErr = s.symErr := rfl
@[simp] theorem State.setBlock_writers (s : State) (b : Block) : (s.setBlock b).writers = s.writers := rfl
@[simp] theorem State.setBlock_dies (s : State) (b : Block) : (s.setBlock b).dies = s.dies := rfl
@[simp] theorem State.setBlock_faults (s : State) (b : Block) : (s.setBlock b).faults = s.faults := rfl
@[simp] theorem State.setBlock_codes (s : State) (b : Block) : (s.setBlock b).codes = s.codes := rfl
@[simp] theorem State.setBlock_rings (s : State) (b : Block) : (s.setBlock b).rings = s.rings := rfl
@[simp] theorem State.setBlock_groups (s : State) (b : Block) : (s.setBlock b).groups = s.groups := rfl
@[simp] theorem State.setBlock_taken (s : State) (b : Block) : (s.setBlock b).taken = s.taken := rfl
@[simp] theorem State.setBlock_jobs (s : State) (b : Block) : (s.setBlock b).jobs = s.jobs := rfl
@[simp] theorem State.setBlock_nextLid (s : State) (b : Block) : (s.setBlock b).nextLid = s.nextLid := rfl
@[simp] theorem State.setBlock_launches (s : State) (b : Block) : (s.setBlock b).launches = s.launches := rfl
@[simp] theorem State.setBlock_passes (s : State) (b : Block) : (s.setBlock b).passes = s.passes := rfl
@[simp] theorem State.setBlock_dues (s : State) (b : Block) : (s.setBlock b).dues = s.dues := rfl
@[simp] theorem State.setBlock_blocks (s : State) (b : Block) : (s.setBlock b).blocks = s.blocks.map fun x => if x.key == b.key then b else x := rfl
@[simp] theorem State.setBlock_reqs (s : State) (b : Block) : (s.setBlock b).reqs = s.reqs := rfl
@[simp] theorem State.setBlock_moves (s : State) (b : Block) : (s.setBlock b).moves = s.moves := rfl
@[simp] theorem State.setBlock_copies (s : State) (b : Block) : (s.setBlock b).copies = s.copies := rfl
@[simp] theorem State.setBlock_queries (s : State) (b : Block) : (s.setBlock b).queries = s.queries := rfl
@[simp] theorem State.setBlock_gathers (s : State) (b : Block) : (s.setBlock b).gathers = s.gathers := rfl
@[simp] theorem State.setBlock_engines (s : State) (b : Block) : (s.setBlock b).engines = s.engines := rfl

/-! ### State.setLaunch -/

@[simp] theorem State.setLaunch_agenda (s : State) (l : Launch) : (s.setLaunch l).agenda = s.agenda := rfl
@[simp] theorem State.setLaunch_cur (s : State) (l : Launch) : (s.setLaunch l).cur = s.cur := rfl
@[simp] theorem State.setLaunch_fresh (s : State) (l : Launch) : (s.setLaunch l).fresh = s.fresh := rfl
@[simp] theorem State.setLaunch_upset (s : State) (l : Launch) : (s.setLaunch l).upset = s.upset := rfl
@[simp] theorem State.setLaunch_nextSeq (s : State) (l : Launch) : (s.setLaunch l).nextSeq = s.nextSeq := rfl
@[simp] theorem State.setLaunch_hostData (s : State) (l : Launch) : (s.setLaunch l).hostData = s.hostData := rfl
@[simp] theorem State.setLaunch_irqs (s : State) (l : Launch) : (s.setLaunch l).irqs = s.irqs := rfl
@[simp] theorem State.setLaunch_portData (s : State) (l : Launch) : (s.setLaunch l).portData = s.portData := rfl
@[simp] theorem State.setLaunch_variant (s : State) (l : Launch) : (s.setLaunch l).variant = s.variant := rfl
@[simp] theorem State.setLaunch_rank (s : State) (l : Launch) : (s.setLaunch l).rank = s.rank := rfl
@[simp] theorem State.setLaunch_shape (s : State) (l : Launch) : (s.setLaunch l).shape = s.shape := rfl
@[simp] theorem State.setLaunch_now (s : State) (l : Launch) : (s.setLaunch l).now = s.now := rfl
@[simp] theorem State.setLaunch_timeSet (s : State) (l : Launch) : (s.setLaunch l).timeSet = s.timeSet := rfl
@[simp] theorem State.setLaunch_clock (s : State) (l : Launch) : (s.setLaunch l).clock = s.clock := rfl
@[simp] theorem State.setLaunch_ticks (s : State) (l : Launch) : (s.setLaunch l).ticks = s.ticks := rfl
@[simp] theorem State.setLaunch_capped (s : State) (l : Launch) : (s.setLaunch l).capped = s.capped := rfl
@[simp] theorem State.setLaunch_capWant (s : State) (l : Launch) : (s.setLaunch l).capWant = s.capWant := rfl
@[simp] theorem State.setLaunch_tctl (s : State) (l : Launch) : (s.setLaunch l).tctl = s.tctl := rfl
@[simp] theorem State.setLaunch_tstat (s : State) (l : Launch) : (s.setLaunch l).tstat = s.tstat := rfl
@[simp] theorem State.setLaunch_toff (s : State) (l : Launch) : (s.setLaunch l).toff = s.toff := rfl
@[simp] theorem State.setLaunch_thold (s : State) (l : Launch) : (s.setLaunch l).thold = s.thold := rfl
@[simp] theorem State.setLaunch_boot (s : State) (l : Launch) : (s.setLaunch l).boot = s.boot := rfl
@[simp] theorem State.setLaunch_bootErr (s : State) (l : Launch) : (s.setLaunch l).bootErr = s.bootErr := rfl
@[simp] theorem State.setLaunch_booting (s : State) (l : Launch) : (s.setLaunch l).booting = s.booting := rfl
@[simp] theorem State.setLaunch_helper (s : State) (l : Launch) : (s.setLaunch l).helper = s.helper := rfl
@[simp] theorem State.setLaunch_certs (s : State) (l : Launch) : (s.setLaunch l).certs = s.certs := rfl
@[simp] theorem State.setLaunch_cfgRecord (s : State) (l : Launch) : (s.setLaunch l).cfgRecord = s.cfgRecord := rfl
@[simp] theorem State.setLaunch_seed (s : State) (l : Launch) : (s.setLaunch l).seed = s.seed := rfl
@[simp] theorem State.setLaunch_activeB (s : State) (l : Launch) : (s.setLaunch l).activeB = s.activeB := rfl
@[simp] theorem State.setLaunch_parts (s : State) (l : Launch) : (s.setLaunch l).parts = s.parts := rfl
@[simp] theorem State.setLaunch_tenancies (s : State) (l : Launch) : (s.setLaunch l).tenancies = s.tenancies := rfl
@[simp] theorem State.setLaunch_allots (s : State) (l : Launch) : (s.setLaunch l).allots = s.allots := rfl
@[simp] theorem State.setLaunch_journal (s : State) (l : Launch) : (s.setLaunch l).journal = s.journal := rfl
@[simp] theorem State.setLaunch_begun (s : State) (l : Launch) : (s.setLaunch l).begun = s.begun := rfl
@[simp] theorem State.setLaunch_finals (s : State) (l : Launch) : (s.setLaunch l).finals = s.finals := rfl
@[simp] theorem State.setLaunch_retired (s : State) (l : Launch) : (s.setLaunch l).retired = s.retired := rfl
@[simp] theorem State.setLaunch_retiring (s : State) (l : Launch) : (s.setLaunch l).retiring = s.retiring := rfl
@[simp] theorem State.setLaunch_seqNum (s : State) (l : Launch) : (s.setLaunch l).seqNum = s.seqNum := rfl
@[simp] theorem State.setLaunch_seqBound (s : State) (l : Launch) : (s.setLaunch l).seqBound = s.seqBound := rfl
@[simp] theorem State.setLaunch_signQ (s : State) (l : Launch) : (s.setLaunch l).signQ = s.signQ := rfl
@[simp] theorem State.setLaunch_mlog (s : State) (l : Launch) : (s.setLaunch l).mlog = s.mlog := rfl
@[simp] theorem State.setLaunch_mdigest (s : State) (l : Launch) : (s.setLaunch l).mdigest = s.mdigest := rfl
@[simp] theorem State.setLaunch_fwSlots (s : State) (l : Launch) : (s.setLaunch l).fwSlots = s.fwSlots := rfl
@[simp] theorem State.setLaunch_bootSlot (s : State) (l : Launch) : (s.setLaunch l).bootSlot = s.bootSlot := rfl
@[simp] theorem State.setLaunch_update (s : State) (l : Launch) : (s.setLaunch l).update = s.update := rfl
@[simp] theorem State.setLaunch_coreRings (s : State) (l : Launch) : (s.setLaunch l).coreRings = s.coreRings := rfl
@[simp] theorem State.setLaunch_devRings (s : State) (l : Launch) : (s.setLaunch l).devRings = s.devRings := rfl
@[simp] theorem State.setLaunch_frozen (s : State) (l : Launch) : (s.setLaunch l).frozen = s.frozen := rfl
@[simp] theorem State.setLaunch_dumps (s : State) (l : Launch) : (s.setLaunch l).dumps = s.dumps := rfl
@[simp] theorem State.setLaunch_dumpPage (s : State) (l : Launch) : (s.setLaunch l).dumpPage = s.dumpPage := rfl
@[simp] theorem State.setLaunch_dram (s : State) (l : Launch) : (s.setLaunch l).dram = s.dram := rfl
@[simp] theorem State.setLaunch_poison (s : State) (l : Launch) : (s.setLaunch l).poison = s.poison := rfl
@[simp] theorem State.setLaunch_symErr (s : State) (l : Launch) : (s.setLaunch l).symErr = s.symErr := rfl
@[simp] theorem State.setLaunch_writers (s : State) (l : Launch) : (s.setLaunch l).writers = s.writers := rfl
@[simp] theorem State.setLaunch_dies (s : State) (l : Launch) : (s.setLaunch l).dies = s.dies := rfl
@[simp] theorem State.setLaunch_faults (s : State) (l : Launch) : (s.setLaunch l).faults = s.faults := rfl
@[simp] theorem State.setLaunch_codes (s : State) (l : Launch) : (s.setLaunch l).codes = s.codes := rfl
@[simp] theorem State.setLaunch_rings (s : State) (l : Launch) : (s.setLaunch l).rings = s.rings := rfl
@[simp] theorem State.setLaunch_groups (s : State) (l : Launch) : (s.setLaunch l).groups = s.groups := rfl
@[simp] theorem State.setLaunch_taken (s : State) (l : Launch) : (s.setLaunch l).taken = s.taken := rfl
@[simp] theorem State.setLaunch_jobs (s : State) (l : Launch) : (s.setLaunch l).jobs = s.jobs := rfl
@[simp] theorem State.setLaunch_nextLid (s : State) (l : Launch) : (s.setLaunch l).nextLid = s.nextLid := rfl
@[simp] theorem State.setLaunch_launches (s : State) (l : Launch) : (s.setLaunch l).launches = s.launches.map fun x => if x.lid == l.lid then l else x := rfl
@[simp] theorem State.setLaunch_passes (s : State) (l : Launch) : (s.setLaunch l).passes = s.passes := rfl
@[simp] theorem State.setLaunch_dues (s : State) (l : Launch) : (s.setLaunch l).dues = s.dues := rfl
@[simp] theorem State.setLaunch_blocks (s : State) (l : Launch) : (s.setLaunch l).blocks = s.blocks := rfl
@[simp] theorem State.setLaunch_reqs (s : State) (l : Launch) : (s.setLaunch l).reqs = s.reqs := rfl
@[simp] theorem State.setLaunch_moves (s : State) (l : Launch) : (s.setLaunch l).moves = s.moves := rfl
@[simp] theorem State.setLaunch_copies (s : State) (l : Launch) : (s.setLaunch l).copies = s.copies := rfl
@[simp] theorem State.setLaunch_queries (s : State) (l : Launch) : (s.setLaunch l).queries = s.queries := rfl
@[simp] theorem State.setLaunch_gathers (s : State) (l : Launch) : (s.setLaunch l).gathers = s.gathers := rfl
@[simp] theorem State.setLaunch_engines (s : State) (l : Launch) : (s.setLaunch l).engines = s.engines := rfl

/-! ### State.setJob -/

@[simp] theorem State.setJob_agenda (s : State) (j : Job) : (s.setJob j).agenda = s.agenda := rfl
@[simp] theorem State.setJob_cur (s : State) (j : Job) : (s.setJob j).cur = s.cur := rfl
@[simp] theorem State.setJob_fresh (s : State) (j : Job) : (s.setJob j).fresh = s.fresh := rfl
@[simp] theorem State.setJob_upset (s : State) (j : Job) : (s.setJob j).upset = s.upset := rfl
@[simp] theorem State.setJob_nextSeq (s : State) (j : Job) : (s.setJob j).nextSeq = s.nextSeq := rfl
@[simp] theorem State.setJob_hostData (s : State) (j : Job) : (s.setJob j).hostData = s.hostData := rfl
@[simp] theorem State.setJob_irqs (s : State) (j : Job) : (s.setJob j).irqs = s.irqs := rfl
@[simp] theorem State.setJob_portData (s : State) (j : Job) : (s.setJob j).portData = s.portData := rfl
@[simp] theorem State.setJob_variant (s : State) (j : Job) : (s.setJob j).variant = s.variant := rfl
@[simp] theorem State.setJob_rank (s : State) (j : Job) : (s.setJob j).rank = s.rank := rfl
@[simp] theorem State.setJob_shape (s : State) (j : Job) : (s.setJob j).shape = s.shape := rfl
@[simp] theorem State.setJob_now (s : State) (j : Job) : (s.setJob j).now = s.now := rfl
@[simp] theorem State.setJob_timeSet (s : State) (j : Job) : (s.setJob j).timeSet = s.timeSet := rfl
@[simp] theorem State.setJob_clock (s : State) (j : Job) : (s.setJob j).clock = s.clock := rfl
@[simp] theorem State.setJob_ticks (s : State) (j : Job) : (s.setJob j).ticks = s.ticks := rfl
@[simp] theorem State.setJob_capped (s : State) (j : Job) : (s.setJob j).capped = s.capped := rfl
@[simp] theorem State.setJob_capWant (s : State) (j : Job) : (s.setJob j).capWant = s.capWant := rfl
@[simp] theorem State.setJob_tctl (s : State) (j : Job) : (s.setJob j).tctl = s.tctl := rfl
@[simp] theorem State.setJob_tstat (s : State) (j : Job) : (s.setJob j).tstat = s.tstat := rfl
@[simp] theorem State.setJob_toff (s : State) (j : Job) : (s.setJob j).toff = s.toff := rfl
@[simp] theorem State.setJob_thold (s : State) (j : Job) : (s.setJob j).thold = s.thold := rfl
@[simp] theorem State.setJob_boot (s : State) (j : Job) : (s.setJob j).boot = s.boot := rfl
@[simp] theorem State.setJob_bootErr (s : State) (j : Job) : (s.setJob j).bootErr = s.bootErr := rfl
@[simp] theorem State.setJob_booting (s : State) (j : Job) : (s.setJob j).booting = s.booting := rfl
@[simp] theorem State.setJob_helper (s : State) (j : Job) : (s.setJob j).helper = s.helper := rfl
@[simp] theorem State.setJob_certs (s : State) (j : Job) : (s.setJob j).certs = s.certs := rfl
@[simp] theorem State.setJob_cfgRecord (s : State) (j : Job) : (s.setJob j).cfgRecord = s.cfgRecord := rfl
@[simp] theorem State.setJob_seed (s : State) (j : Job) : (s.setJob j).seed = s.seed := rfl
@[simp] theorem State.setJob_activeB (s : State) (j : Job) : (s.setJob j).activeB = s.activeB := rfl
@[simp] theorem State.setJob_parts (s : State) (j : Job) : (s.setJob j).parts = s.parts := rfl
@[simp] theorem State.setJob_tenancies (s : State) (j : Job) : (s.setJob j).tenancies = s.tenancies := rfl
@[simp] theorem State.setJob_allots (s : State) (j : Job) : (s.setJob j).allots = s.allots := rfl
@[simp] theorem State.setJob_journal (s : State) (j : Job) : (s.setJob j).journal = s.journal := rfl
@[simp] theorem State.setJob_begun (s : State) (j : Job) : (s.setJob j).begun = s.begun := rfl
@[simp] theorem State.setJob_finals (s : State) (j : Job) : (s.setJob j).finals = s.finals := rfl
@[simp] theorem State.setJob_retired (s : State) (j : Job) : (s.setJob j).retired = s.retired := rfl
@[simp] theorem State.setJob_retiring (s : State) (j : Job) : (s.setJob j).retiring = s.retiring := rfl
@[simp] theorem State.setJob_seqNum (s : State) (j : Job) : (s.setJob j).seqNum = s.seqNum := rfl
@[simp] theorem State.setJob_seqBound (s : State) (j : Job) : (s.setJob j).seqBound = s.seqBound := rfl
@[simp] theorem State.setJob_signQ (s : State) (j : Job) : (s.setJob j).signQ = s.signQ := rfl
@[simp] theorem State.setJob_mlog (s : State) (j : Job) : (s.setJob j).mlog = s.mlog := rfl
@[simp] theorem State.setJob_mdigest (s : State) (j : Job) : (s.setJob j).mdigest = s.mdigest := rfl
@[simp] theorem State.setJob_fwSlots (s : State) (j : Job) : (s.setJob j).fwSlots = s.fwSlots := rfl
@[simp] theorem State.setJob_bootSlot (s : State) (j : Job) : (s.setJob j).bootSlot = s.bootSlot := rfl
@[simp] theorem State.setJob_update (s : State) (j : Job) : (s.setJob j).update = s.update := rfl
@[simp] theorem State.setJob_coreRings (s : State) (j : Job) : (s.setJob j).coreRings = s.coreRings := rfl
@[simp] theorem State.setJob_devRings (s : State) (j : Job) : (s.setJob j).devRings = s.devRings := rfl
@[simp] theorem State.setJob_frozen (s : State) (j : Job) : (s.setJob j).frozen = s.frozen := rfl
@[simp] theorem State.setJob_dumps (s : State) (j : Job) : (s.setJob j).dumps = s.dumps := rfl
@[simp] theorem State.setJob_dumpPage (s : State) (j : Job) : (s.setJob j).dumpPage = s.dumpPage := rfl
@[simp] theorem State.setJob_dram (s : State) (j : Job) : (s.setJob j).dram = s.dram := rfl
@[simp] theorem State.setJob_poison (s : State) (j : Job) : (s.setJob j).poison = s.poison := rfl
@[simp] theorem State.setJob_symErr (s : State) (j : Job) : (s.setJob j).symErr = s.symErr := rfl
@[simp] theorem State.setJob_writers (s : State) (j : Job) : (s.setJob j).writers = s.writers := rfl
@[simp] theorem State.setJob_dies (s : State) (j : Job) : (s.setJob j).dies = s.dies := rfl
@[simp] theorem State.setJob_faults (s : State) (j : Job) : (s.setJob j).faults = s.faults := rfl
@[simp] theorem State.setJob_codes (s : State) (j : Job) : (s.setJob j).codes = s.codes := rfl
@[simp] theorem State.setJob_rings (s : State) (j : Job) : (s.setJob j).rings = s.rings := rfl
@[simp] theorem State.setJob_groups (s : State) (j : Job) : (s.setJob j).groups = s.groups := rfl
@[simp] theorem State.setJob_taken (s : State) (j : Job) : (s.setJob j).taken = s.taken := rfl
@[simp] theorem State.setJob_jobs (s : State) (j : Job) : (s.setJob j).jobs = s.jobs.map fun x => if x.part == j.part && x.id == j.id then j else x := rfl
@[simp] theorem State.setJob_nextLid (s : State) (j : Job) : (s.setJob j).nextLid = s.nextLid := rfl
@[simp] theorem State.setJob_launches (s : State) (j : Job) : (s.setJob j).launches = s.launches := rfl
@[simp] theorem State.setJob_passes (s : State) (j : Job) : (s.setJob j).passes = s.passes := rfl
@[simp] theorem State.setJob_dues (s : State) (j : Job) : (s.setJob j).dues = s.dues := rfl
@[simp] theorem State.setJob_blocks (s : State) (j : Job) : (s.setJob j).blocks = s.blocks := rfl
@[simp] theorem State.setJob_reqs (s : State) (j : Job) : (s.setJob j).reqs = s.reqs := rfl
@[simp] theorem State.setJob_moves (s : State) (j : Job) : (s.setJob j).moves = s.moves := rfl
@[simp] theorem State.setJob_copies (s : State) (j : Job) : (s.setJob j).copies = s.copies := rfl
@[simp] theorem State.setJob_queries (s : State) (j : Job) : (s.setJob j).queries = s.queries := rfl
@[simp] theorem State.setJob_gathers (s : State) (j : Job) : (s.setJob j).gathers = s.gathers := rfl
@[simp] theorem State.setJob_engines (s : State) (j : Job) : (s.setJob j).engines = s.engines := rfl

/-! ### State.setRing -/

@[simp] theorem State.setRing_agenda (s : State) (r : Ring) : (s.setRing r).agenda = s.agenda := rfl
@[simp] theorem State.setRing_cur (s : State) (r : Ring) : (s.setRing r).cur = s.cur := rfl
@[simp] theorem State.setRing_fresh (s : State) (r : Ring) : (s.setRing r).fresh = s.fresh := rfl
@[simp] theorem State.setRing_upset (s : State) (r : Ring) : (s.setRing r).upset = s.upset := rfl
@[simp] theorem State.setRing_nextSeq (s : State) (r : Ring) : (s.setRing r).nextSeq = s.nextSeq := rfl
@[simp] theorem State.setRing_hostData (s : State) (r : Ring) : (s.setRing r).hostData = s.hostData := rfl
@[simp] theorem State.setRing_irqs (s : State) (r : Ring) : (s.setRing r).irqs = s.irqs := rfl
@[simp] theorem State.setRing_portData (s : State) (r : Ring) : (s.setRing r).portData = s.portData := rfl
@[simp] theorem State.setRing_variant (s : State) (r : Ring) : (s.setRing r).variant = s.variant := rfl
@[simp] theorem State.setRing_rank (s : State) (r : Ring) : (s.setRing r).rank = s.rank := rfl
@[simp] theorem State.setRing_shape (s : State) (r : Ring) : (s.setRing r).shape = s.shape := rfl
@[simp] theorem State.setRing_now (s : State) (r : Ring) : (s.setRing r).now = s.now := rfl
@[simp] theorem State.setRing_timeSet (s : State) (r : Ring) : (s.setRing r).timeSet = s.timeSet := rfl
@[simp] theorem State.setRing_clock (s : State) (r : Ring) : (s.setRing r).clock = s.clock := rfl
@[simp] theorem State.setRing_ticks (s : State) (r : Ring) : (s.setRing r).ticks = s.ticks := rfl
@[simp] theorem State.setRing_capped (s : State) (r : Ring) : (s.setRing r).capped = s.capped := rfl
@[simp] theorem State.setRing_capWant (s : State) (r : Ring) : (s.setRing r).capWant = s.capWant := rfl
@[simp] theorem State.setRing_tctl (s : State) (r : Ring) : (s.setRing r).tctl = s.tctl := rfl
@[simp] theorem State.setRing_tstat (s : State) (r : Ring) : (s.setRing r).tstat = s.tstat := rfl
@[simp] theorem State.setRing_toff (s : State) (r : Ring) : (s.setRing r).toff = s.toff := rfl
@[simp] theorem State.setRing_thold (s : State) (r : Ring) : (s.setRing r).thold = s.thold := rfl
@[simp] theorem State.setRing_boot (s : State) (r : Ring) : (s.setRing r).boot = s.boot := rfl
@[simp] theorem State.setRing_bootErr (s : State) (r : Ring) : (s.setRing r).bootErr = s.bootErr := rfl
@[simp] theorem State.setRing_booting (s : State) (r : Ring) : (s.setRing r).booting = s.booting := rfl
@[simp] theorem State.setRing_helper (s : State) (r : Ring) : (s.setRing r).helper = s.helper := rfl
@[simp] theorem State.setRing_certs (s : State) (r : Ring) : (s.setRing r).certs = s.certs := rfl
@[simp] theorem State.setRing_cfgRecord (s : State) (r : Ring) : (s.setRing r).cfgRecord = s.cfgRecord := rfl
@[simp] theorem State.setRing_seed (s : State) (r : Ring) : (s.setRing r).seed = s.seed := rfl
@[simp] theorem State.setRing_activeB (s : State) (r : Ring) : (s.setRing r).activeB = s.activeB := rfl
@[simp] theorem State.setRing_parts (s : State) (r : Ring) : (s.setRing r).parts = s.parts := rfl
@[simp] theorem State.setRing_tenancies (s : State) (r : Ring) : (s.setRing r).tenancies = s.tenancies := rfl
@[simp] theorem State.setRing_allots (s : State) (r : Ring) : (s.setRing r).allots = s.allots := rfl
@[simp] theorem State.setRing_journal (s : State) (r : Ring) : (s.setRing r).journal = s.journal := rfl
@[simp] theorem State.setRing_begun (s : State) (r : Ring) : (s.setRing r).begun = s.begun := rfl
@[simp] theorem State.setRing_finals (s : State) (r : Ring) : (s.setRing r).finals = s.finals := rfl
@[simp] theorem State.setRing_retired (s : State) (r : Ring) : (s.setRing r).retired = s.retired := rfl
@[simp] theorem State.setRing_retiring (s : State) (r : Ring) : (s.setRing r).retiring = s.retiring := rfl
@[simp] theorem State.setRing_seqNum (s : State) (r : Ring) : (s.setRing r).seqNum = s.seqNum := rfl
@[simp] theorem State.setRing_seqBound (s : State) (r : Ring) : (s.setRing r).seqBound = s.seqBound := rfl
@[simp] theorem State.setRing_signQ (s : State) (r : Ring) : (s.setRing r).signQ = s.signQ := rfl
@[simp] theorem State.setRing_mlog (s : State) (r : Ring) : (s.setRing r).mlog = s.mlog := rfl
@[simp] theorem State.setRing_mdigest (s : State) (r : Ring) : (s.setRing r).mdigest = s.mdigest := rfl
@[simp] theorem State.setRing_fwSlots (s : State) (r : Ring) : (s.setRing r).fwSlots = s.fwSlots := rfl
@[simp] theorem State.setRing_bootSlot (s : State) (r : Ring) : (s.setRing r).bootSlot = s.bootSlot := rfl
@[simp] theorem State.setRing_update (s : State) (r : Ring) : (s.setRing r).update = s.update := rfl
@[simp] theorem State.setRing_coreRings (s : State) (r : Ring) : (s.setRing r).coreRings = s.coreRings := rfl
@[simp] theorem State.setRing_devRings (s : State) (r : Ring) : (s.setRing r).devRings = s.devRings := rfl
@[simp] theorem State.setRing_frozen (s : State) (r : Ring) : (s.setRing r).frozen = s.frozen := rfl
@[simp] theorem State.setRing_dumps (s : State) (r : Ring) : (s.setRing r).dumps = s.dumps := rfl
@[simp] theorem State.setRing_dumpPage (s : State) (r : Ring) : (s.setRing r).dumpPage = s.dumpPage := rfl
@[simp] theorem State.setRing_dram (s : State) (r : Ring) : (s.setRing r).dram = s.dram := rfl
@[simp] theorem State.setRing_poison (s : State) (r : Ring) : (s.setRing r).poison = s.poison := rfl
@[simp] theorem State.setRing_symErr (s : State) (r : Ring) : (s.setRing r).symErr = s.symErr := rfl
@[simp] theorem State.setRing_writers (s : State) (r : Ring) : (s.setRing r).writers = s.writers := rfl
@[simp] theorem State.setRing_dies (s : State) (r : Ring) : (s.setRing r).dies = s.dies := rfl
@[simp] theorem State.setRing_faults (s : State) (r : Ring) : (s.setRing r).faults = s.faults := rfl
@[simp] theorem State.setRing_codes (s : State) (r : Ring) : (s.setRing r).codes = s.codes := rfl
@[simp] theorem State.setRing_rings (s : State) (r : Ring) : (s.setRing r).rings = s.rings.map fun x => if x.num == r.num then r else x := rfl
@[simp] theorem State.setRing_groups (s : State) (r : Ring) : (s.setRing r).groups = s.groups := rfl
@[simp] theorem State.setRing_taken (s : State) (r : Ring) : (s.setRing r).taken = s.taken := rfl
@[simp] theorem State.setRing_jobs (s : State) (r : Ring) : (s.setRing r).jobs = s.jobs := rfl
@[simp] theorem State.setRing_nextLid (s : State) (r : Ring) : (s.setRing r).nextLid = s.nextLid := rfl
@[simp] theorem State.setRing_launches (s : State) (r : Ring) : (s.setRing r).launches = s.launches := rfl
@[simp] theorem State.setRing_passes (s : State) (r : Ring) : (s.setRing r).passes = s.passes := rfl
@[simp] theorem State.setRing_dues (s : State) (r : Ring) : (s.setRing r).dues = s.dues := rfl
@[simp] theorem State.setRing_blocks (s : State) (r : Ring) : (s.setRing r).blocks = s.blocks := rfl
@[simp] theorem State.setRing_reqs (s : State) (r : Ring) : (s.setRing r).reqs = s.reqs := rfl
@[simp] theorem State.setRing_moves (s : State) (r : Ring) : (s.setRing r).moves = s.moves := rfl
@[simp] theorem State.setRing_copies (s : State) (r : Ring) : (s.setRing r).copies = s.copies := rfl
@[simp] theorem State.setRing_queries (s : State) (r : Ring) : (s.setRing r).queries = s.queries := rfl
@[simp] theorem State.setRing_gathers (s : State) (r : Ring) : (s.setRing r).gathers = s.gathers := rfl
@[simp] theorem State.setRing_engines (s : State) (r : Ring) : (s.setRing r).engines = s.engines := rfl

/-! ### State.setGroup -/

@[simp] theorem State.setGroup_agenda (s : State) (g : Group) : (s.setGroup g).agenda = s.agenda := rfl
@[simp] theorem State.setGroup_cur (s : State) (g : Group) : (s.setGroup g).cur = s.cur := rfl
@[simp] theorem State.setGroup_fresh (s : State) (g : Group) : (s.setGroup g).fresh = s.fresh := rfl
@[simp] theorem State.setGroup_upset (s : State) (g : Group) : (s.setGroup g).upset = s.upset := rfl
@[simp] theorem State.setGroup_nextSeq (s : State) (g : Group) : (s.setGroup g).nextSeq = s.nextSeq := rfl
@[simp] theorem State.setGroup_hostData (s : State) (g : Group) : (s.setGroup g).hostData = s.hostData := rfl
@[simp] theorem State.setGroup_irqs (s : State) (g : Group) : (s.setGroup g).irqs = s.irqs := rfl
@[simp] theorem State.setGroup_portData (s : State) (g : Group) : (s.setGroup g).portData = s.portData := rfl
@[simp] theorem State.setGroup_variant (s : State) (g : Group) : (s.setGroup g).variant = s.variant := rfl
@[simp] theorem State.setGroup_rank (s : State) (g : Group) : (s.setGroup g).rank = s.rank := rfl
@[simp] theorem State.setGroup_shape (s : State) (g : Group) : (s.setGroup g).shape = s.shape := rfl
@[simp] theorem State.setGroup_now (s : State) (g : Group) : (s.setGroup g).now = s.now := rfl
@[simp] theorem State.setGroup_timeSet (s : State) (g : Group) : (s.setGroup g).timeSet = s.timeSet := rfl
@[simp] theorem State.setGroup_clock (s : State) (g : Group) : (s.setGroup g).clock = s.clock := rfl
@[simp] theorem State.setGroup_ticks (s : State) (g : Group) : (s.setGroup g).ticks = s.ticks := rfl
@[simp] theorem State.setGroup_capped (s : State) (g : Group) : (s.setGroup g).capped = s.capped := rfl
@[simp] theorem State.setGroup_capWant (s : State) (g : Group) : (s.setGroup g).capWant = s.capWant := rfl
@[simp] theorem State.setGroup_tctl (s : State) (g : Group) : (s.setGroup g).tctl = s.tctl := rfl
@[simp] theorem State.setGroup_tstat (s : State) (g : Group) : (s.setGroup g).tstat = s.tstat := rfl
@[simp] theorem State.setGroup_toff (s : State) (g : Group) : (s.setGroup g).toff = s.toff := rfl
@[simp] theorem State.setGroup_thold (s : State) (g : Group) : (s.setGroup g).thold = s.thold := rfl
@[simp] theorem State.setGroup_boot (s : State) (g : Group) : (s.setGroup g).boot = s.boot := rfl
@[simp] theorem State.setGroup_bootErr (s : State) (g : Group) : (s.setGroup g).bootErr = s.bootErr := rfl
@[simp] theorem State.setGroup_booting (s : State) (g : Group) : (s.setGroup g).booting = s.booting := rfl
@[simp] theorem State.setGroup_helper (s : State) (g : Group) : (s.setGroup g).helper = s.helper := rfl
@[simp] theorem State.setGroup_certs (s : State) (g : Group) : (s.setGroup g).certs = s.certs := rfl
@[simp] theorem State.setGroup_cfgRecord (s : State) (g : Group) : (s.setGroup g).cfgRecord = s.cfgRecord := rfl
@[simp] theorem State.setGroup_seed (s : State) (g : Group) : (s.setGroup g).seed = s.seed := rfl
@[simp] theorem State.setGroup_activeB (s : State) (g : Group) : (s.setGroup g).activeB = s.activeB := rfl
@[simp] theorem State.setGroup_parts (s : State) (g : Group) : (s.setGroup g).parts = s.parts := rfl
@[simp] theorem State.setGroup_tenancies (s : State) (g : Group) : (s.setGroup g).tenancies = s.tenancies := rfl
@[simp] theorem State.setGroup_allots (s : State) (g : Group) : (s.setGroup g).allots = s.allots := rfl
@[simp] theorem State.setGroup_journal (s : State) (g : Group) : (s.setGroup g).journal = s.journal := rfl
@[simp] theorem State.setGroup_begun (s : State) (g : Group) : (s.setGroup g).begun = s.begun := rfl
@[simp] theorem State.setGroup_finals (s : State) (g : Group) : (s.setGroup g).finals = s.finals := rfl
@[simp] theorem State.setGroup_retired (s : State) (g : Group) : (s.setGroup g).retired = s.retired := rfl
@[simp] theorem State.setGroup_retiring (s : State) (g : Group) : (s.setGroup g).retiring = s.retiring := rfl
@[simp] theorem State.setGroup_seqNum (s : State) (g : Group) : (s.setGroup g).seqNum = s.seqNum := rfl
@[simp] theorem State.setGroup_seqBound (s : State) (g : Group) : (s.setGroup g).seqBound = s.seqBound := rfl
@[simp] theorem State.setGroup_signQ (s : State) (g : Group) : (s.setGroup g).signQ = s.signQ := rfl
@[simp] theorem State.setGroup_mlog (s : State) (g : Group) : (s.setGroup g).mlog = s.mlog := rfl
@[simp] theorem State.setGroup_mdigest (s : State) (g : Group) : (s.setGroup g).mdigest = s.mdigest := rfl
@[simp] theorem State.setGroup_fwSlots (s : State) (g : Group) : (s.setGroup g).fwSlots = s.fwSlots := rfl
@[simp] theorem State.setGroup_bootSlot (s : State) (g : Group) : (s.setGroup g).bootSlot = s.bootSlot := rfl
@[simp] theorem State.setGroup_update (s : State) (g : Group) : (s.setGroup g).update = s.update := rfl
@[simp] theorem State.setGroup_coreRings (s : State) (g : Group) : (s.setGroup g).coreRings = s.coreRings := rfl
@[simp] theorem State.setGroup_devRings (s : State) (g : Group) : (s.setGroup g).devRings = s.devRings := rfl
@[simp] theorem State.setGroup_frozen (s : State) (g : Group) : (s.setGroup g).frozen = s.frozen := rfl
@[simp] theorem State.setGroup_dumps (s : State) (g : Group) : (s.setGroup g).dumps = s.dumps := rfl
@[simp] theorem State.setGroup_dumpPage (s : State) (g : Group) : (s.setGroup g).dumpPage = s.dumpPage := rfl
@[simp] theorem State.setGroup_dram (s : State) (g : Group) : (s.setGroup g).dram = s.dram := rfl
@[simp] theorem State.setGroup_poison (s : State) (g : Group) : (s.setGroup g).poison = s.poison := rfl
@[simp] theorem State.setGroup_symErr (s : State) (g : Group) : (s.setGroup g).symErr = s.symErr := rfl
@[simp] theorem State.setGroup_writers (s : State) (g : Group) : (s.setGroup g).writers = s.writers := rfl
@[simp] theorem State.setGroup_dies (s : State) (g : Group) : (s.setGroup g).dies = s.dies := rfl
@[simp] theorem State.setGroup_faults (s : State) (g : Group) : (s.setGroup g).faults = s.faults := rfl
@[simp] theorem State.setGroup_codes (s : State) (g : Group) : (s.setGroup g).codes = s.codes := rfl
@[simp] theorem State.setGroup_rings (s : State) (g : Group) : (s.setGroup g).rings = s.rings := rfl
@[simp] theorem State.setGroup_groups (s : State) (g : Group) : (s.setGroup g).groups = s.groups.map fun x => if x.num == g.num then g else x := rfl
@[simp] theorem State.setGroup_taken (s : State) (g : Group) : (s.setGroup g).taken = s.taken := rfl
@[simp] theorem State.setGroup_jobs (s : State) (g : Group) : (s.setGroup g).jobs = s.jobs := rfl
@[simp] theorem State.setGroup_nextLid (s : State) (g : Group) : (s.setGroup g).nextLid = s.nextLid := rfl
@[simp] theorem State.setGroup_launches (s : State) (g : Group) : (s.setGroup g).launches = s.launches := rfl
@[simp] theorem State.setGroup_passes (s : State) (g : Group) : (s.setGroup g).passes = s.passes := rfl
@[simp] theorem State.setGroup_dues (s : State) (g : Group) : (s.setGroup g).dues = s.dues := rfl
@[simp] theorem State.setGroup_blocks (s : State) (g : Group) : (s.setGroup g).blocks = s.blocks := rfl
@[simp] theorem State.setGroup_reqs (s : State) (g : Group) : (s.setGroup g).reqs = s.reqs := rfl
@[simp] theorem State.setGroup_moves (s : State) (g : Group) : (s.setGroup g).moves = s.moves := rfl
@[simp] theorem State.setGroup_copies (s : State) (g : Group) : (s.setGroup g).copies = s.copies := rfl
@[simp] theorem State.setGroup_queries (s : State) (g : Group) : (s.setGroup g).queries = s.queries := rfl
@[simp] theorem State.setGroup_gathers (s : State) (g : Group) : (s.setGroup g).gathers = s.gathers := rfl
@[simp] theorem State.setGroup_engines (s : State) (g : Group) : (s.setGroup g).engines = s.engines := rfl

/-! ### State.setPart -/

@[simp] theorem State.setPart_agenda (s : State) (p : Partition) : (s.setPart p).agenda = s.agenda := rfl
@[simp] theorem State.setPart_cur (s : State) (p : Partition) : (s.setPart p).cur = s.cur := rfl
@[simp] theorem State.setPart_fresh (s : State) (p : Partition) : (s.setPart p).fresh = s.fresh := rfl
@[simp] theorem State.setPart_upset (s : State) (p : Partition) : (s.setPart p).upset = s.upset := rfl
@[simp] theorem State.setPart_nextSeq (s : State) (p : Partition) : (s.setPart p).nextSeq = s.nextSeq := rfl
@[simp] theorem State.setPart_hostData (s : State) (p : Partition) : (s.setPart p).hostData = s.hostData := rfl
@[simp] theorem State.setPart_irqs (s : State) (p : Partition) : (s.setPart p).irqs = s.irqs := rfl
@[simp] theorem State.setPart_portData (s : State) (p : Partition) : (s.setPart p).portData = s.portData := rfl
@[simp] theorem State.setPart_variant (s : State) (p : Partition) : (s.setPart p).variant = s.variant := rfl
@[simp] theorem State.setPart_rank (s : State) (p : Partition) : (s.setPart p).rank = s.rank := rfl
@[simp] theorem State.setPart_shape (s : State) (p : Partition) : (s.setPart p).shape = s.shape := rfl
@[simp] theorem State.setPart_now (s : State) (p : Partition) : (s.setPart p).now = s.now := rfl
@[simp] theorem State.setPart_timeSet (s : State) (p : Partition) : (s.setPart p).timeSet = s.timeSet := rfl
@[simp] theorem State.setPart_clock (s : State) (p : Partition) : (s.setPart p).clock = s.clock := rfl
@[simp] theorem State.setPart_ticks (s : State) (p : Partition) : (s.setPart p).ticks = s.ticks := rfl
@[simp] theorem State.setPart_capped (s : State) (p : Partition) : (s.setPart p).capped = s.capped := rfl
@[simp] theorem State.setPart_capWant (s : State) (p : Partition) : (s.setPart p).capWant = s.capWant := rfl
@[simp] theorem State.setPart_tctl (s : State) (p : Partition) : (s.setPart p).tctl = s.tctl := rfl
@[simp] theorem State.setPart_tstat (s : State) (p : Partition) : (s.setPart p).tstat = s.tstat := rfl
@[simp] theorem State.setPart_toff (s : State) (p : Partition) : (s.setPart p).toff = s.toff := rfl
@[simp] theorem State.setPart_thold (s : State) (p : Partition) : (s.setPart p).thold = s.thold := rfl
@[simp] theorem State.setPart_boot (s : State) (p : Partition) : (s.setPart p).boot = s.boot := rfl
@[simp] theorem State.setPart_bootErr (s : State) (p : Partition) : (s.setPart p).bootErr = s.bootErr := rfl
@[simp] theorem State.setPart_booting (s : State) (p : Partition) : (s.setPart p).booting = s.booting := rfl
@[simp] theorem State.setPart_helper (s : State) (p : Partition) : (s.setPart p).helper = s.helper := rfl
@[simp] theorem State.setPart_certs (s : State) (p : Partition) : (s.setPart p).certs = s.certs := rfl
@[simp] theorem State.setPart_cfgRecord (s : State) (p : Partition) : (s.setPart p).cfgRecord = s.cfgRecord := rfl
@[simp] theorem State.setPart_seed (s : State) (p : Partition) : (s.setPart p).seed = s.seed := rfl
@[simp] theorem State.setPart_activeB (s : State) (p : Partition) : (s.setPart p).activeB = s.activeB := rfl
@[simp] theorem State.setPart_parts (s : State) (p : Partition) : (s.setPart p).parts = s.parts.map fun x => if x.first == p.first then p else x := rfl
@[simp] theorem State.setPart_tenancies (s : State) (p : Partition) : (s.setPart p).tenancies = s.tenancies := rfl
@[simp] theorem State.setPart_allots (s : State) (p : Partition) : (s.setPart p).allots = s.allots := rfl
@[simp] theorem State.setPart_journal (s : State) (p : Partition) : (s.setPart p).journal = s.journal := rfl
@[simp] theorem State.setPart_begun (s : State) (p : Partition) : (s.setPart p).begun = s.begun := rfl
@[simp] theorem State.setPart_finals (s : State) (p : Partition) : (s.setPart p).finals = s.finals := rfl
@[simp] theorem State.setPart_retired (s : State) (p : Partition) : (s.setPart p).retired = s.retired := rfl
@[simp] theorem State.setPart_retiring (s : State) (p : Partition) : (s.setPart p).retiring = s.retiring := rfl
@[simp] theorem State.setPart_seqNum (s : State) (p : Partition) : (s.setPart p).seqNum = s.seqNum := rfl
@[simp] theorem State.setPart_seqBound (s : State) (p : Partition) : (s.setPart p).seqBound = s.seqBound := rfl
@[simp] theorem State.setPart_signQ (s : State) (p : Partition) : (s.setPart p).signQ = s.signQ := rfl
@[simp] theorem State.setPart_mlog (s : State) (p : Partition) : (s.setPart p).mlog = s.mlog := rfl
@[simp] theorem State.setPart_mdigest (s : State) (p : Partition) : (s.setPart p).mdigest = s.mdigest := rfl
@[simp] theorem State.setPart_fwSlots (s : State) (p : Partition) : (s.setPart p).fwSlots = s.fwSlots := rfl
@[simp] theorem State.setPart_bootSlot (s : State) (p : Partition) : (s.setPart p).bootSlot = s.bootSlot := rfl
@[simp] theorem State.setPart_update (s : State) (p : Partition) : (s.setPart p).update = s.update := rfl
@[simp] theorem State.setPart_coreRings (s : State) (p : Partition) : (s.setPart p).coreRings = s.coreRings := rfl
@[simp] theorem State.setPart_devRings (s : State) (p : Partition) : (s.setPart p).devRings = s.devRings := rfl
@[simp] theorem State.setPart_frozen (s : State) (p : Partition) : (s.setPart p).frozen = s.frozen := rfl
@[simp] theorem State.setPart_dumps (s : State) (p : Partition) : (s.setPart p).dumps = s.dumps := rfl
@[simp] theorem State.setPart_dumpPage (s : State) (p : Partition) : (s.setPart p).dumpPage = s.dumpPage := rfl
@[simp] theorem State.setPart_dram (s : State) (p : Partition) : (s.setPart p).dram = s.dram := rfl
@[simp] theorem State.setPart_poison (s : State) (p : Partition) : (s.setPart p).poison = s.poison := rfl
@[simp] theorem State.setPart_symErr (s : State) (p : Partition) : (s.setPart p).symErr = s.symErr := rfl
@[simp] theorem State.setPart_writers (s : State) (p : Partition) : (s.setPart p).writers = s.writers := rfl
@[simp] theorem State.setPart_dies (s : State) (p : Partition) : (s.setPart p).dies = s.dies := rfl
@[simp] theorem State.setPart_faults (s : State) (p : Partition) : (s.setPart p).faults = s.faults := rfl
@[simp] theorem State.setPart_codes (s : State) (p : Partition) : (s.setPart p).codes = s.codes := rfl
@[simp] theorem State.setPart_rings (s : State) (p : Partition) : (s.setPart p).rings = s.rings := rfl
@[simp] theorem State.setPart_groups (s : State) (p : Partition) : (s.setPart p).groups = s.groups := rfl
@[simp] theorem State.setPart_taken (s : State) (p : Partition) : (s.setPart p).taken = s.taken := rfl
@[simp] theorem State.setPart_jobs (s : State) (p : Partition) : (s.setPart p).jobs = s.jobs := rfl
@[simp] theorem State.setPart_nextLid (s : State) (p : Partition) : (s.setPart p).nextLid = s.nextLid := rfl
@[simp] theorem State.setPart_launches (s : State) (p : Partition) : (s.setPart p).launches = s.launches := rfl
@[simp] theorem State.setPart_passes (s : State) (p : Partition) : (s.setPart p).passes = s.passes := rfl
@[simp] theorem State.setPart_dues (s : State) (p : Partition) : (s.setPart p).dues = s.dues := rfl
@[simp] theorem State.setPart_blocks (s : State) (p : Partition) : (s.setPart p).blocks = s.blocks := rfl
@[simp] theorem State.setPart_reqs (s : State) (p : Partition) : (s.setPart p).reqs = s.reqs := rfl
@[simp] theorem State.setPart_moves (s : State) (p : Partition) : (s.setPart p).moves = s.moves := rfl
@[simp] theorem State.setPart_copies (s : State) (p : Partition) : (s.setPart p).copies = s.copies := rfl
@[simp] theorem State.setPart_queries (s : State) (p : Partition) : (s.setPart p).queries = s.queries := rfl
@[simp] theorem State.setPart_gathers (s : State) (p : Partition) : (s.setPart p).gathers = s.gathers := rfl
@[simp] theorem State.setPart_engines (s : State) (p : Partition) : (s.setPart p).engines = s.engines := rfl

/-! ### Block.setWarp -/

@[simp] theorem Block.setWarp_key (b : Block) (w : Warp) : (b.setWarp w).key = b.key := rfl
@[simp] theorem Block.setWarp_kind (b : Block) (w : Warp) : (b.setWarp w).kind = b.kind := rfl
@[simp] theorem Block.setWarp_code (b : Block) (w : Warp) : (b.setWarp w).code = b.code := rfl
@[simp] theorem Block.setWarp_part (b : Block) (w : Warp) : (b.setWarp w).part = b.part := rfl
@[simp] theorem Block.setWarp_kern (b : Block) (w : Warp) : (b.setWarp w).kern = b.kern := rfl
@[simp] theorem Block.setWarp_asid (b : Block) (w : Warp) : (b.setWarp w).asid = b.asid := rfl
@[simp] theorem Block.setWarp_gsize (b : Block) (w : Warp) : (b.setWarp w).gsize = b.gsize := rfl
@[simp] theorem Block.setWarp_lanes (b : Block) (w : Warp) : (b.setWarp w).lanes = b.lanes := rfl
@[simp] theorem Block.setWarp_debug (b : Block) (w : Warp) : (b.setWarp w).debug = b.debug := rfl
@[simp] theorem Block.setWarp_st (b : Block) (w : Warp) : (b.setWarp w).st = b.st := rfl
@[simp] theorem Block.setWarp_boundary (b : Block) (w : Warp) : (b.setWarp w).boundary = b.boundary := rfl
@[simp] theorem Block.setWarp_cluster (b : Block) (w : Warp) : (b.setWarp w).cluster = b.cluster := rfl
@[simp] theorem Block.setWarp_core (b : Block) (w : Warp) : (b.setWarp w).core = b.core := rfl
@[simp] theorem Block.setWarp_rows (b : Block) (w : Warp) : (b.setWarp w).rows = b.rows := rfl
@[simp] theorem Block.setWarp_slots (b : Block) (w : Warp) : (b.setWarp w).slots = b.slots := rfl
@[simp] theorem Block.setWarp_scr (b : Block) (w : Warp) : (b.setWarp w).scr = b.scr := rfl
@[simp] theorem Block.setWarp_holder (b : Block) (w : Warp) : (b.setWarp w).holder = b.holder := rfl
@[simp] theorem Block.setWarp_tiles (b : Block) (w : Warp) : (b.setWarp w).tiles = b.tiles := rfl
@[simp] theorem Block.setWarp_ob (b : Block) (w : Warp) : (b.setWarp w).ob = b.ob := rfl
@[simp] theorem Block.setWarp_snap (b : Block) (w : Warp) : (b.setWarp w).snap = b.snap := rfl
@[simp] theorem Block.setWarp_steps (b : Block) (w : Warp) : (b.setWarp w).steps = b.steps := rfl
@[simp] theorem Block.setWarp_xfers (b : Block) (w : Warp) : (b.setWarp w).xfers = b.xfers := rfl
@[simp] theorem Block.setWarp_warps (b : Block) (w : Warp) : (b.setWarp w).warps = b.warps.map fun x => if x.num == w.num then w else x := rfl
@[simp] theorem Block.setWarp_area (b : Block) (w : Warp) : (b.setWarp w).area = b.area := rfl

/-! ### Block.putRow -/

@[simp] theorem Block.putRow_key (b : Block) (id : Nat) (r : Row) : (b.putRow id r).key = b.key := rfl
@[simp] theorem Block.putRow_kind (b : Block) (id : Nat) (r : Row) : (b.putRow id r).kind = b.kind := rfl
@[simp] theorem Block.putRow_code (b : Block) (id : Nat) (r : Row) : (b.putRow id r).code = b.code := rfl
@[simp] theorem Block.putRow_part (b : Block) (id : Nat) (r : Row) : (b.putRow id r).part = b.part := rfl
@[simp] theorem Block.putRow_kern (b : Block) (id : Nat) (r : Row) : (b.putRow id r).kern = b.kern := rfl
@[simp] theorem Block.putRow_asid (b : Block) (id : Nat) (r : Row) : (b.putRow id r).asid = b.asid := rfl
@[simp] theorem Block.putRow_gsize (b : Block) (id : Nat) (r : Row) : (b.putRow id r).gsize = b.gsize := rfl
@[simp] theorem Block.putRow_lanes (b : Block) (id : Nat) (r : Row) : (b.putRow id r).lanes = b.lanes := rfl
@[simp] theorem Block.putRow_debug (b : Block) (id : Nat) (r : Row) : (b.putRow id r).debug = b.debug := rfl
@[simp] theorem Block.putRow_st (b : Block) (id : Nat) (r : Row) : (b.putRow id r).st = b.st := rfl
@[simp] theorem Block.putRow_boundary (b : Block) (id : Nat) (r : Row) : (b.putRow id r).boundary = b.boundary := rfl
@[simp] theorem Block.putRow_cluster (b : Block) (id : Nat) (r : Row) : (b.putRow id r).cluster = b.cluster := rfl
@[simp] theorem Block.putRow_core (b : Block) (id : Nat) (r : Row) : (b.putRow id r).core = b.core := rfl
@[simp] theorem Block.putRow_rows (b : Block) (id : Nat) (r : Row) : (b.putRow id r).rows = insertN b.rows id r := rfl
@[simp] theorem Block.putRow_slots (b : Block) (id : Nat) (r : Row) : (b.putRow id r).slots = b.slots := rfl
@[simp] theorem Block.putRow_scr (b : Block) (id : Nat) (r : Row) : (b.putRow id r).scr = b.scr := rfl
@[simp] theorem Block.putRow_holder (b : Block) (id : Nat) (r : Row) : (b.putRow id r).holder = b.holder := rfl
@[simp] theorem Block.putRow_tiles (b : Block) (id : Nat) (r : Row) : (b.putRow id r).tiles = b.tiles := rfl
@[simp] theorem Block.putRow_ob (b : Block) (id : Nat) (r : Row) : (b.putRow id r).ob = b.ob := rfl
@[simp] theorem Block.putRow_snap (b : Block) (id : Nat) (r : Row) : (b.putRow id r).snap = b.snap := rfl
@[simp] theorem Block.putRow_steps (b : Block) (id : Nat) (r : Row) : (b.putRow id r).steps = b.steps := rfl
@[simp] theorem Block.putRow_xfers (b : Block) (id : Nat) (r : Row) : (b.putRow id r).xfers = b.xfers := rfl
@[simp] theorem Block.putRow_warps (b : Block) (id : Nat) (r : Row) : (b.putRow id r).warps = b.warps := rfl
@[simp] theorem Block.putRow_area (b : Block) (id : Nat) (r : Row) : (b.putRow id r).area = b.area := rfl

/-! ### Block.setTile -/

@[simp] theorem Block.setTile_key (b : Block) (t : Tile) : (b.setTile t).key = b.key := rfl
@[simp] theorem Block.setTile_kind (b : Block) (t : Tile) : (b.setTile t).kind = b.kind := rfl
@[simp] theorem Block.setTile_code (b : Block) (t : Tile) : (b.setTile t).code = b.code := rfl
@[simp] theorem Block.setTile_part (b : Block) (t : Tile) : (b.setTile t).part = b.part := rfl
@[simp] theorem Block.setTile_kern (b : Block) (t : Tile) : (b.setTile t).kern = b.kern := rfl
@[simp] theorem Block.setTile_asid (b : Block) (t : Tile) : (b.setTile t).asid = b.asid := rfl
@[simp] theorem Block.setTile_gsize (b : Block) (t : Tile) : (b.setTile t).gsize = b.gsize := rfl
@[simp] theorem Block.setTile_lanes (b : Block) (t : Tile) : (b.setTile t).lanes = b.lanes := rfl
@[simp] theorem Block.setTile_debug (b : Block) (t : Tile) : (b.setTile t).debug = b.debug := rfl
@[simp] theorem Block.setTile_st (b : Block) (t : Tile) : (b.setTile t).st = b.st := rfl
@[simp] theorem Block.setTile_boundary (b : Block) (t : Tile) : (b.setTile t).boundary = b.boundary := rfl
@[simp] theorem Block.setTile_cluster (b : Block) (t : Tile) : (b.setTile t).cluster = b.cluster := rfl
@[simp] theorem Block.setTile_core (b : Block) (t : Tile) : (b.setTile t).core = b.core := rfl
@[simp] theorem Block.setTile_rows (b : Block) (t : Tile) : (b.setTile t).rows = b.rows := rfl
@[simp] theorem Block.setTile_slots (b : Block) (t : Tile) : (b.setTile t).slots = b.slots := rfl
@[simp] theorem Block.setTile_scr (b : Block) (t : Tile) : (b.setTile t).scr = b.scr := rfl
@[simp] theorem Block.setTile_holder (b : Block) (t : Tile) : (b.setTile t).holder = b.holder := rfl
@[simp] theorem Block.setTile_tiles (b : Block) (t : Tile) : (b.setTile t).tiles = b.tiles.map fun x => if x.id == t.id then t else x := rfl
@[simp] theorem Block.setTile_ob (b : Block) (t : Tile) : (b.setTile t).ob = b.ob := rfl
@[simp] theorem Block.setTile_snap (b : Block) (t : Tile) : (b.setTile t).snap = b.snap := rfl
@[simp] theorem Block.setTile_steps (b : Block) (t : Tile) : (b.setTile t).steps = b.steps := rfl
@[simp] theorem Block.setTile_xfers (b : Block) (t : Tile) : (b.setTile t).xfers = b.xfers := rfl
@[simp] theorem Block.setTile_warps (b : Block) (t : Tile) : (b.setTile t).warps = b.warps := rfl
@[simp] theorem Block.setTile_area (b : Block) (t : Tile) : (b.setTile t).area = b.area := rfl

/-! ### Warp.sput -/

@[simp] theorem Warp.sput_num (w : Warp) (n : Name) (x : Word) (bad : Bool) : (w.sput n x bad).num = w.num := rfl
@[simp] theorem Warp.sput_slot (w : Warp) (n : Name) (x : Word) (bad : Bool) : (w.sput n x bad).slot = w.slot := rfl
@[simp] theorem Warp.sput_pc (w : Warp) (n : Name) (x : Word) (bad : Bool) : (w.sput n x bad).pc = w.pc := rfl
@[simp] theorem Warp.sput_s (w : Warp) (n : Name) (x : Word) (bad : Bool) : (w.sput n x bad).s = w.s.set n.toNat x n.isLt := rfl
@[simp] theorem Warp.sput_v (w : Warp) (n : Name) (x : Word) (bad : Bool) : (w.sput n x bad).v = w.v := rfl
@[simp] theorem Warp.sput_p (w : Warp) (n : Name) (x : Word) (bad : Bool) : (w.sput n x bad).p = w.p := rfl
@[simp] theorem Warp.sput_pPoison (w : Warp) (n : Name) (x : Word) (bad : Bool) : (w.sput n x bad).pPoison = w.pPoison := rfl
@[simp] theorem Warp.sput_acc (w : Warp) (n : Name) (x : Word) (bad : Bool) : (w.sput n x bad).acc = w.acc := rfl
@[simp] theorem Warp.sput_launched (w : Warp) (n : Name) (x : Word) (bad : Bool) : (w.sput n x bad).launched = w.launched := rfl
@[simp] theorem Warp.sput_exited (w : Warp) (n : Name) (x : Word) (bad : Bool) : (w.sput n x bad).exited = w.exited := rfl
@[simp] theorem Warp.sput_m (w : Warp) (n : Name) (x : Word) (bad : Bool) : (w.sput n x bad).m = w.m := rfl
@[simp] theorem Warp.sput_stack (w : Warp) (n : Name) (x : Word) (bad : Bool) : (w.sput n x bad).stack = w.stack := rfl
@[simp] theorem Warp.sput_flg (w : Warp) (n : Name) (x : Word) (bad : Bool) : (w.sput n x bad).flg = w.flg := rfl
@[simp] theorem Warp.sput_tpc (w : Warp) (n : Name) (x : Word) (bad : Bool) : (w.sput n x bad).tpc = w.tpc := rfl
@[simp] theorem Warp.sput_tcause (w : Warp) (n : Name) (x : Word) (bad : Bool) : (w.sput n x bad).tcause = w.tcause := rfl
@[simp] theorem Warp.sput_tlanes (w : Warp) (n : Name) (x : Word) (bad : Bool) : (w.sput n x bad).tlanes = w.tlanes := rfl
@[simp] theorem Warp.sput_taddr (w : Warp) (n : Name) (x : Word) (bad : Bool) : (w.sput n x bad).taddr = w.taddr := rfl
@[simp] theorem Warp.sput_taddrh (w : Warp) (n : Name) (x : Word) (bad : Bool) : (w.sput n x bad).taddrh = w.taddrh := rfl
@[simp] theorem Warp.sput_tinfo (w : Warp) (n : Name) (x : Word) (bad : Bool) : (w.sput n x bad).tinfo = w.tinfo := rfl
@[simp] theorem Warp.sput_saved (w : Warp) (n : Name) (x : Word) (bad : Bool) : (w.sput n x bad).saved = w.saved := rfl
@[simp] theorem Warp.sput_ebbpc (w : Warp) (n : Name) (x : Word) (bad : Bool) : (w.sput n x bad).ebbpc = w.ebbpc := rfl
@[simp] theorem Warp.sput_inWrap (w : Warp) (n : Name) (x : Word) (bad : Bool) : (w.sput n x bad).inWrap = w.inWrap := rfl
@[simp] theorem Warp.sput_ops (w : Warp) (n : Name) (x : Word) (bad : Bool) : (w.sput n x bad).ops = w.ops := rfl
@[simp] theorem Warp.sput_ctr (w : Warp) (n : Name) (x : Word) (bad : Bool) : (w.sput n x bad).ctr = w.ctr := rfl
@[simp] theorem Warp.sput_ctrPc (w : Warp) (n : Name) (x : Word) (bad : Bool) : (w.sput n x bad).ctrPc = w.ctrPc := rfl
@[simp] theorem Warp.sput_wdog (w : Warp) (n : Name) (x : Word) (bad : Bool) : (w.sput n x bad).wdog = w.wdog := rfl
@[simp] theorem Warp.sput_st (w : Warp) (n : Name) (x : Word) (bad : Bool) : (w.sput n x bad).st = w.st := rfl
@[simp] theorem Warp.sput_ended (w : Warp) (n : Name) (x : Word) (bad : Bool) : (w.sput n x bad).ended = w.ended := rfl
@[simp] theorem Warp.sput_undo (w : Warp) (n : Name) (x : Word) (bad : Bool) : (w.sput n x bad).undo = w.undo := rfl
@[simp] theorem Warp.sput_halted (w : Warp) (n : Name) (x : Word) (bad : Bool) : (w.sput n x bad).halted = w.halted := rfl
@[simp] theorem Warp.sput_stepOne (w : Warp) (n : Name) (x : Word) (bad : Bool) : (w.sput n x bad).stepOne = w.stepOne := rfl
@[simp] theorem Warp.sput_mtxOps (w : Warp) (n : Name) (x : Word) (bad : Bool) : (w.sput n x bad).mtxOps = w.mtxOps := rfl
@[simp] theorem Warp.sput_late (w : Warp) (n : Name) (x : Word) (bad : Bool) : (w.sput n x bad).late = w.late := rfl

/-! ### Warp.setVmap -/

@[simp] theorem Warp.setVmap_num (w : Warp) (n : Name) (r : Option Nat) : (w.setVmap n r).num = w.num := rfl
@[simp] theorem Warp.setVmap_slot (w : Warp) (n : Name) (r : Option Nat) : (w.setVmap n r).slot = w.slot := rfl
@[simp] theorem Warp.setVmap_pc (w : Warp) (n : Name) (r : Option Nat) : (w.setVmap n r).pc = w.pc := rfl
@[simp] theorem Warp.setVmap_s (w : Warp) (n : Name) (r : Option Nat) : (w.setVmap n r).s = w.s := rfl
@[simp] theorem Warp.setVmap_sPoison (w : Warp) (n : Name) (r : Option Nat) : (w.setVmap n r).sPoison = w.sPoison := rfl
@[simp] theorem Warp.setVmap_v (w : Warp) (n : Name) (r : Option Nat) : (w.setVmap n r).v = w.v.set n.toNat r n.isLt := rfl
@[simp] theorem Warp.setVmap_p (w : Warp) (n : Name) (r : Option Nat) : (w.setVmap n r).p = w.p := rfl
@[simp] theorem Warp.setVmap_pPoison (w : Warp) (n : Name) (r : Option Nat) : (w.setVmap n r).pPoison = w.pPoison := rfl
@[simp] theorem Warp.setVmap_acc (w : Warp) (n : Name) (r : Option Nat) : (w.setVmap n r).acc = w.acc := rfl
@[simp] theorem Warp.setVmap_launched (w : Warp) (n : Name) (r : Option Nat) : (w.setVmap n r).launched = w.launched := rfl
@[simp] theorem Warp.setVmap_exited (w : Warp) (n : Name) (r : Option Nat) : (w.setVmap n r).exited = w.exited := rfl
@[simp] theorem Warp.setVmap_m (w : Warp) (n : Name) (r : Option Nat) : (w.setVmap n r).m = w.m := rfl
@[simp] theorem Warp.setVmap_stack (w : Warp) (n : Name) (r : Option Nat) : (w.setVmap n r).stack = w.stack := rfl
@[simp] theorem Warp.setVmap_flg (w : Warp) (n : Name) (r : Option Nat) : (w.setVmap n r).flg = w.flg := rfl
@[simp] theorem Warp.setVmap_tpc (w : Warp) (n : Name) (r : Option Nat) : (w.setVmap n r).tpc = w.tpc := rfl
@[simp] theorem Warp.setVmap_tcause (w : Warp) (n : Name) (r : Option Nat) : (w.setVmap n r).tcause = w.tcause := rfl
@[simp] theorem Warp.setVmap_tlanes (w : Warp) (n : Name) (r : Option Nat) : (w.setVmap n r).tlanes = w.tlanes := rfl
@[simp] theorem Warp.setVmap_taddr (w : Warp) (n : Name) (r : Option Nat) : (w.setVmap n r).taddr = w.taddr := rfl
@[simp] theorem Warp.setVmap_taddrh (w : Warp) (n : Name) (r : Option Nat) : (w.setVmap n r).taddrh = w.taddrh := rfl
@[simp] theorem Warp.setVmap_tinfo (w : Warp) (n : Name) (r : Option Nat) : (w.setVmap n r).tinfo = w.tinfo := rfl
@[simp] theorem Warp.setVmap_saved (w : Warp) (n : Name) (r : Option Nat) : (w.setVmap n r).saved = w.saved := rfl
@[simp] theorem Warp.setVmap_ebbpc (w : Warp) (n : Name) (r : Option Nat) : (w.setVmap n r).ebbpc = w.ebbpc := rfl
@[simp] theorem Warp.setVmap_inWrap (w : Warp) (n : Name) (r : Option Nat) : (w.setVmap n r).inWrap = w.inWrap := rfl
@[simp] theorem Warp.setVmap_ops (w : Warp) (n : Name) (r : Option Nat) : (w.setVmap n r).ops = w.ops := rfl
@[simp] theorem Warp.setVmap_ctr (w : Warp) (n : Name) (r : Option Nat) : (w.setVmap n r).ctr = w.ctr := rfl
@[simp] theorem Warp.setVmap_ctrPc (w : Warp) (n : Name) (r : Option Nat) : (w.setVmap n r).ctrPc = w.ctrPc := rfl
@[simp] theorem Warp.setVmap_wdog (w : Warp) (n : Name) (r : Option Nat) : (w.setVmap n r).wdog = w.wdog := rfl
@[simp] theorem Warp.setVmap_st (w : Warp) (n : Name) (r : Option Nat) : (w.setVmap n r).st = w.st := rfl
@[simp] theorem Warp.setVmap_ended (w : Warp) (n : Name) (r : Option Nat) : (w.setVmap n r).ended = w.ended := rfl
@[simp] theorem Warp.setVmap_undo (w : Warp) (n : Name) (r : Option Nat) : (w.setVmap n r).undo = w.undo := rfl
@[simp] theorem Warp.setVmap_halted (w : Warp) (n : Name) (r : Option Nat) : (w.setVmap n r).halted = w.halted := rfl
@[simp] theorem Warp.setVmap_stepOne (w : Warp) (n : Name) (r : Option Nat) : (w.setVmap n r).stepOne = w.stepOne := rfl
@[simp] theorem Warp.setVmap_mtxOps (w : Warp) (n : Name) (r : Option Nat) : (w.setVmap n r).mtxOps = w.mtxOps := rfl
@[simp] theorem Warp.setVmap_late (w : Warp) (n : Name) (r : Option Nat) : (w.setVmap n r).late = w.late := rfl

/-! ### Warp.setAcc -/

@[simp] theorem Warp.setAcc_num (w : Warp) (n : AName) (a : AccName) : (w.setAcc n a).num = w.num := rfl
@[simp] theorem Warp.setAcc_slot (w : Warp) (n : AName) (a : AccName) : (w.setAcc n a).slot = w.slot := rfl
@[simp] theorem Warp.setAcc_pc (w : Warp) (n : AName) (a : AccName) : (w.setAcc n a).pc = w.pc := rfl
@[simp] theorem Warp.setAcc_s (w : Warp) (n : AName) (a : AccName) : (w.setAcc n a).s = w.s := rfl
@[simp] theorem Warp.setAcc_sPoison (w : Warp) (n : AName) (a : AccName) : (w.setAcc n a).sPoison = w.sPoison := rfl
@[simp] theorem Warp.setAcc_v (w : Warp) (n : AName) (a : AccName) : (w.setAcc n a).v = w.v := rfl
@[simp] theorem Warp.setAcc_p (w : Warp) (n : AName) (a : AccName) : (w.setAcc n a).p = w.p := rfl
@[simp] theorem Warp.setAcc_pPoison (w : Warp) (n : AName) (a : AccName) : (w.setAcc n a).pPoison = w.pPoison := rfl
@[simp] theorem Warp.setAcc_acc (w : Warp) (n : AName) (a : AccName) : (w.setAcc n a).acc = w.acc.set n.toNat a n.isLt := rfl
@[simp] theorem Warp.setAcc_launched (w : Warp) (n : AName) (a : AccName) : (w.setAcc n a).launched = w.launched := rfl
@[simp] theorem Warp.setAcc_exited (w : Warp) (n : AName) (a : AccName) : (w.setAcc n a).exited = w.exited := rfl
@[simp] theorem Warp.setAcc_m (w : Warp) (n : AName) (a : AccName) : (w.setAcc n a).m = w.m := rfl
@[simp] theorem Warp.setAcc_stack (w : Warp) (n : AName) (a : AccName) : (w.setAcc n a).stack = w.stack := rfl
@[simp] theorem Warp.setAcc_flg (w : Warp) (n : AName) (a : AccName) : (w.setAcc n a).flg = w.flg := rfl
@[simp] theorem Warp.setAcc_tpc (w : Warp) (n : AName) (a : AccName) : (w.setAcc n a).tpc = w.tpc := rfl
@[simp] theorem Warp.setAcc_tcause (w : Warp) (n : AName) (a : AccName) : (w.setAcc n a).tcause = w.tcause := rfl
@[simp] theorem Warp.setAcc_tlanes (w : Warp) (n : AName) (a : AccName) : (w.setAcc n a).tlanes = w.tlanes := rfl
@[simp] theorem Warp.setAcc_taddr (w : Warp) (n : AName) (a : AccName) : (w.setAcc n a).taddr = w.taddr := rfl
@[simp] theorem Warp.setAcc_taddrh (w : Warp) (n : AName) (a : AccName) : (w.setAcc n a).taddrh = w.taddrh := rfl
@[simp] theorem Warp.setAcc_tinfo (w : Warp) (n : AName) (a : AccName) : (w.setAcc n a).tinfo = w.tinfo := rfl
@[simp] theorem Warp.setAcc_saved (w : Warp) (n : AName) (a : AccName) : (w.setAcc n a).saved = w.saved := rfl
@[simp] theorem Warp.setAcc_ebbpc (w : Warp) (n : AName) (a : AccName) : (w.setAcc n a).ebbpc = w.ebbpc := rfl
@[simp] theorem Warp.setAcc_inWrap (w : Warp) (n : AName) (a : AccName) : (w.setAcc n a).inWrap = w.inWrap := rfl
@[simp] theorem Warp.setAcc_ops (w : Warp) (n : AName) (a : AccName) : (w.setAcc n a).ops = w.ops := rfl
@[simp] theorem Warp.setAcc_ctr (w : Warp) (n : AName) (a : AccName) : (w.setAcc n a).ctr = w.ctr := rfl
@[simp] theorem Warp.setAcc_ctrPc (w : Warp) (n : AName) (a : AccName) : (w.setAcc n a).ctrPc = w.ctrPc := rfl
@[simp] theorem Warp.setAcc_wdog (w : Warp) (n : AName) (a : AccName) : (w.setAcc n a).wdog = w.wdog := rfl
@[simp] theorem Warp.setAcc_st (w : Warp) (n : AName) (a : AccName) : (w.setAcc n a).st = w.st := rfl
@[simp] theorem Warp.setAcc_ended (w : Warp) (n : AName) (a : AccName) : (w.setAcc n a).ended = w.ended := rfl
@[simp] theorem Warp.setAcc_undo (w : Warp) (n : AName) (a : AccName) : (w.setAcc n a).undo = w.undo := rfl
@[simp] theorem Warp.setAcc_halted (w : Warp) (n : AName) (a : AccName) : (w.setAcc n a).halted = w.halted := rfl
@[simp] theorem Warp.setAcc_stepOne (w : Warp) (n : AName) (a : AccName) : (w.setAcc n a).stepOne = w.stepOne := rfl
@[simp] theorem Warp.setAcc_mtxOps (w : Warp) (n : AName) (a : AccName) : (w.setAcc n a).mtxOps = w.mtxOps := rfl
@[simp] theorem Warp.setAcc_late (w : Warp) (n : AName) (a : AccName) : (w.setAcc n a).late = w.late := rfl

/-! ### Warp.setDepth -/

@[simp] theorem Warp.setDepth_num (w : Warp) (d : Bool) : (w.setDepth d).num = w.num := rfl
@[simp] theorem Warp.setDepth_slot (w : Warp) (d : Bool) : (w.setDepth d).slot = w.slot := rfl
@[simp] theorem Warp.setDepth_pc (w : Warp) (d : Bool) : (w.setDepth d).pc = w.pc := rfl
@[simp] theorem Warp.setDepth_s (w : Warp) (d : Bool) : (w.setDepth d).s = w.s := rfl
@[simp] theorem Warp.setDepth_sPoison (w : Warp) (d : Bool) : (w.setDepth d).sPoison = w.sPoison := rfl
@[simp] theorem Warp.setDepth_v (w : Warp) (d : Bool) : (w.setDepth d).v = w.v := rfl
@[simp] theorem Warp.setDepth_p (w : Warp) (d : Bool) : (w.setDepth d).p = w.p := rfl
@[simp] theorem Warp.setDepth_pPoison (w : Warp) (d : Bool) : (w.setDepth d).pPoison = w.pPoison := rfl
@[simp] theorem Warp.setDepth_acc (w : Warp) (d : Bool) : (w.setDepth d).acc = w.acc := rfl
@[simp] theorem Warp.setDepth_launched (w : Warp) (d : Bool) : (w.setDepth d).launched = w.launched := rfl
@[simp] theorem Warp.setDepth_exited (w : Warp) (d : Bool) : (w.setDepth d).exited = w.exited := rfl
@[simp] theorem Warp.setDepth_m (w : Warp) (d : Bool) : (w.setDepth d).m = w.m := rfl
@[simp] theorem Warp.setDepth_stack (w : Warp) (d : Bool) : (w.setDepth d).stack = w.stack := rfl
@[simp] theorem Warp.setDepth_flg (w : Warp) (d : Bool) : (w.setDepth d).flg = w.flg := rfl
@[simp] theorem Warp.setDepth_tpc (w : Warp) (d : Bool) : (w.setDepth d).tpc = w.tpc := rfl
@[simp] theorem Warp.setDepth_tlanes (w : Warp) (d : Bool) : (w.setDepth d).tlanes = w.tlanes := rfl
@[simp] theorem Warp.setDepth_taddr (w : Warp) (d : Bool) : (w.setDepth d).taddr = w.taddr := rfl
@[simp] theorem Warp.setDepth_taddrh (w : Warp) (d : Bool) : (w.setDepth d).taddrh = w.taddrh := rfl
@[simp] theorem Warp.setDepth_tinfo (w : Warp) (d : Bool) : (w.setDepth d).tinfo = w.tinfo := rfl
@[simp] theorem Warp.setDepth_saved (w : Warp) (d : Bool) : (w.setDepth d).saved = w.saved := rfl
@[simp] theorem Warp.setDepth_ebbpc (w : Warp) (d : Bool) : (w.setDepth d).ebbpc = w.ebbpc := rfl
@[simp] theorem Warp.setDepth_inWrap (w : Warp) (d : Bool) : (w.setDepth d).inWrap = w.inWrap := rfl
@[simp] theorem Warp.setDepth_ops (w : Warp) (d : Bool) : (w.setDepth d).ops = w.ops := rfl
@[simp] theorem Warp.setDepth_ctr (w : Warp) (d : Bool) : (w.setDepth d).ctr = w.ctr := rfl
@[simp] theorem Warp.setDepth_ctrPc (w : Warp) (d : Bool) : (w.setDepth d).ctrPc = w.ctrPc := rfl
@[simp] theorem Warp.setDepth_wdog (w : Warp) (d : Bool) : (w.setDepth d).wdog = w.wdog := rfl
@[simp] theorem Warp.setDepth_st (w : Warp) (d : Bool) : (w.setDepth d).st = w.st := rfl
@[simp] theorem Warp.setDepth_ended (w : Warp) (d : Bool) : (w.setDepth d).ended = w.ended := rfl
@[simp] theorem Warp.setDepth_undo (w : Warp) (d : Bool) : (w.setDepth d).undo = w.undo := rfl
@[simp] theorem Warp.setDepth_halted (w : Warp) (d : Bool) : (w.setDepth d).halted = w.halted := rfl
@[simp] theorem Warp.setDepth_stepOne (w : Warp) (d : Bool) : (w.setDepth d).stepOne = w.stepOne := rfl
@[simp] theorem Warp.setDepth_mtxOps (w : Warp) (d : Bool) : (w.setDepth d).mtxOps = w.mtxOps := rfl
@[simp] theorem Warp.setDepth_late (w : Warp) (d : Bool) : (w.setDepth d).late = w.late := rfl

/-! ### Warp.pput -/

@[simp] theorem Warp.pput_num (w : Warp) (n : PName) (lanes x bad : Mask) : (w.pput n lanes x bad).num = w.num := by
  unfold Warp.pput; split <;> rfl
@[simp] theorem Warp.pput_slot (w : Warp) (n : PName) (lanes x bad : Mask) : (w.pput n lanes x bad).slot = w.slot := by
  unfold Warp.pput; split <;> rfl
@[simp] theorem Warp.pput_pc (w : Warp) (n : PName) (lanes x bad : Mask) : (w.pput n lanes x bad).pc = w.pc := by
  unfold Warp.pput; split <;> rfl
@[simp] theorem Warp.pput_s (w : Warp) (n : PName) (lanes x bad : Mask) : (w.pput n lanes x bad).s = w.s := by
  unfold Warp.pput; split <;> rfl
@[simp] theorem Warp.pput_sPoison (w : Warp) (n : PName) (lanes x bad : Mask) : (w.pput n lanes x bad).sPoison = w.sPoison := by
  unfold Warp.pput; split <;> rfl
@[simp] theorem Warp.pput_v (w : Warp) (n : PName) (lanes x bad : Mask) : (w.pput n lanes x bad).v = w.v := by
  unfold Warp.pput; split <;> rfl
@[simp] theorem Warp.pput_acc (w : Warp) (n : PName) (lanes x bad : Mask) : (w.pput n lanes x bad).acc = w.acc := by
  unfold Warp.pput; split <;> rfl
@[simp] theorem Warp.pput_launched (w : Warp) (n : PName) (lanes x bad : Mask) : (w.pput n lanes x bad).launched = w.launched := by
  unfold Warp.pput; split <;> rfl
@[simp] theorem Warp.pput_exited (w : Warp) (n : PName) (lanes x bad : Mask) : (w.pput n lanes x bad).exited = w.exited := by
  unfold Warp.pput; split <;> rfl
@[simp] theorem Warp.pput_m (w : Warp) (n : PName) (lanes x bad : Mask) : (w.pput n lanes x bad).m = w.m := by
  unfold Warp.pput; split <;> rfl
@[simp] theorem Warp.pput_stack (w : Warp) (n : PName) (lanes x bad : Mask) : (w.pput n lanes x bad).stack = w.stack := by
  unfold Warp.pput; split <;> rfl
@[simp] theorem Warp.pput_flg (w : Warp) (n : PName) (lanes x bad : Mask) : (w.pput n lanes x bad).flg = w.flg := by
  unfold Warp.pput; split <;> rfl
@[simp] theorem Warp.pput_tpc (w : Warp) (n : PName) (lanes x bad : Mask) : (w.pput n lanes x bad).tpc = w.tpc := by
  unfold Warp.pput; split <;> rfl
@[simp] theorem Warp.pput_tcause (w : Warp) (n : PName) (lanes x bad : Mask) : (w.pput n lanes x bad).tcause = w.tcause := by
  unfold Warp.pput; split <;> rfl
@[simp] theorem Warp.pput_tlanes (w : Warp) (n : PName) (lanes x bad : Mask) : (w.pput n lanes x bad).tlanes = w.tlanes := by
  unfold Warp.pput; split <;> rfl
@[simp] theorem Warp.pput_taddr (w : Warp) (n : PName) (lanes x bad : Mask) : (w.pput n lanes x bad).taddr = w.taddr := by
  unfold Warp.pput; split <;> rfl
@[simp] theorem Warp.pput_taddrh (w : Warp) (n : PName) (lanes x bad : Mask) : (w.pput n lanes x bad).taddrh = w.taddrh := by
  unfold Warp.pput; split <;> rfl
@[simp] theorem Warp.pput_tinfo (w : Warp) (n : PName) (lanes x bad : Mask) : (w.pput n lanes x bad).tinfo = w.tinfo := by
  unfold Warp.pput; split <;> rfl
@[simp] theorem Warp.pput_saved (w : Warp) (n : PName) (lanes x bad : Mask) : (w.pput n lanes x bad).saved = w.saved := by
  unfold Warp.pput; split <;> rfl
@[simp] theorem Warp.pput_ebbpc (w : Warp) (n : PName) (lanes x bad : Mask) : (w.pput n lanes x bad).ebbpc = w.ebbpc := by
  unfold Warp.pput; split <;> rfl
@[simp] theorem Warp.pput_inWrap (w : Warp) (n : PName) (lanes x bad : Mask) : (w.pput n lanes x bad).inWrap = w.inWrap := by
  unfold Warp.pput; split <;> rfl
@[simp] theorem Warp.pput_ops (w : Warp) (n : PName) (lanes x bad : Mask) : (w.pput n lanes x bad).ops = w.ops := by
  unfold Warp.pput; split <;> rfl
@[simp] theorem Warp.pput_ctr (w : Warp) (n : PName) (lanes x bad : Mask) : (w.pput n lanes x bad).ctr = w.ctr := by
  unfold Warp.pput; split <;> rfl
@[simp] theorem Warp.pput_ctrPc (w : Warp) (n : PName) (lanes x bad : Mask) : (w.pput n lanes x bad).ctrPc = w.ctrPc := by
  unfold Warp.pput; split <;> rfl
@[simp] theorem Warp.pput_wdog (w : Warp) (n : PName) (lanes x bad : Mask) : (w.pput n lanes x bad).wdog = w.wdog := by
  unfold Warp.pput; split <;> rfl
@[simp] theorem Warp.pput_st (w : Warp) (n : PName) (lanes x bad : Mask) : (w.pput n lanes x bad).st = w.st := by
  unfold Warp.pput; split <;> rfl
@[simp] theorem Warp.pput_ended (w : Warp) (n : PName) (lanes x bad : Mask) : (w.pput n lanes x bad).ended = w.ended := by
  unfold Warp.pput; split <;> rfl
@[simp] theorem Warp.pput_undo (w : Warp) (n : PName) (lanes x bad : Mask) : (w.pput n lanes x bad).undo = w.undo := by
  unfold Warp.pput; split <;> rfl
@[simp] theorem Warp.pput_halted (w : Warp) (n : PName) (lanes x bad : Mask) : (w.pput n lanes x bad).halted = w.halted := by
  unfold Warp.pput; split <;> rfl
@[simp] theorem Warp.pput_stepOne (w : Warp) (n : PName) (lanes x bad : Mask) : (w.pput n lanes x bad).stepOne = w.stepOne := by
  unfold Warp.pput; split <;> rfl
@[simp] theorem Warp.pput_mtxOps (w : Warp) (n : PName) (lanes x bad : Mask) : (w.pput n lanes x bad).mtxOps = w.mtxOps := by
  unfold Warp.pput; split <;> rfl
@[simp] theorem Warp.pput_late (w : Warp) (n : PName) (lanes x bad : Mask) : (w.pput n lanes x bad).late = w.late := by
  unfold Warp.pput; split <;> rfl

/-! ### Ctx -/

@[simp] theorem Ctx.setW_s (c : Ctx) (w : Warp) : (c.setW w).s = c.s := rfl
@[simp] theorem Ctx.setW_b (c : Ctx) (w : Warp) : (c.setW w).b = c.b := rfl
@[simp] theorem Ctx.setW_w (c : Ctx) (w : Warp) : (c.setW w).w = w := rfl
@[simp] theorem Ctx.sput_s (c : Ctx) (n : Name) (x : Word) (bad : Bool) : (c.sput n x bad).s = c.s := rfl
@[simp] theorem Ctx.sput_b (c : Ctx) (n : Name) (x : Word) (bad : Bool) : (c.sput n x bad).b = c.b := rfl
@[simp] theorem Ctx.sput_w (c : Ctx) (n : Name) (x : Word) (bad : Bool) : (c.sput n x bad).w = c.w.sput n x bad := rfl
@[simp] theorem Ctx.pput_s (c : Ctx) (n : PName) (l x bad : Mask) : (c.pput n l x bad).s = c.s := rfl
@[simp] theorem Ctx.pput_b (c : Ctx) (n : PName) (l x bad : Mask) : (c.pput n l x bad).b = c.b := rfl
@[simp] theorem Ctx.pput_w (c : Ctx) (n : PName) (l x bad : Mask) : (c.pput n l x bad).w = c.w.pput n l x bad := rfl
@[simp] theorem Ctx.vwrite_s (c : Ctx) (n : Name) (act : Mask) (x : Nat → Word) (bad : Mask) :
    (c.vwrite n act x bad).s = c.s := rfl
@[simp] theorem Ctx.vwrite_w (c : Ctx) (n : Name) (act : Mask) (x : Nat → Word) (bad : Mask) :
    (c.vwrite n act x bad).w = c.w.setVmap n (some c.b.freshRow) := rfl

end Sys2Proof.Machine
end

