-- ==== Sys2Proof/Laws/Ops.lean ====
section
/-! SUPPORT. What the operations every meaning is written with can do, each said once: a step, running an instruction, its
checks, operands and places; finding a part of the state after it was written; and which of them leave main memory alone. -/
namespace Sys2Proof.Machine

/-! ### A step -/

/-- A step is the meaning of what the turn brings, every core's pool kept, or the turn alone. -/
theorem step_cases (s : State) :
    (s.turn.2 = none ∧ step s = .next s.turn.1) ∨ (∃ i, s.turn.2 = some i ∧ step s = settle (exec i s.turn.1)) := by
  unfold step
  rcases h : s.turn with ⟨t, _ | i⟩
  · exact .inl ⟨rfl, rfl⟩
  · exact .inr ⟨i, rfl, rfl⟩

/-- Where no undo log holds an entry, keeping the pools changes nothing. -/
theorem trimLogs_plain (s : State) (h : ∀ b ∈ s.blocks, ∀ w ∈ b.warps, w.undo = []) : s.trimLogs = s := by
  unfold State.trimLogs
  refine if_pos (List.all_eq_true.mpr fun b hb => List.all_eq_true.mpr fun w hw => ?_)
  rw [h b hb w hw]; rfl

/-- A settled outcome that goes on comes from one that does. -/
theorem settle_next (o : Host.Outcome State Fault Refusal) (t : State) (h : settle o = .next t) :
    ∃ s, o = .next s ∧ t = s.trimLogs := by
  cases o with
  | next s => cases h; exact ⟨s, rfl, rfl⟩
  | fault _ => cases h
  | refused _ => cases h

/-! ### Running an instruction -/

/-- Running an instruction: no agent; a trap of R43's checks; a poisoned guard; or its own effect. -/
theorem run_cases (s : State) (i : Instr) (f : Ctx → Eff) :
    (s.ctx = none ∧ s.run i f = .fault .noAgent) ∨
    (∃ c, s.ctx = some c ∧
      ((∃ t, c.gate i = some t ∧ s.run i f = .next (c.takeTrap t (t.lanes.getD (c.retireMask i)) (i.len == 8)))
      ∨ (c.gate i = none ∧ i.isL = true ∧ c.guardBad i.guard = true ∧ s.run i f = .next (c.takeMCheck .poisonConsumed))
      ∨ (c.admits i = true ∧ s.run i f = .next (c.finish i (f c))))) := by
  unfold State.run
  cases hc : s.ctx with
  | none => exact .inl ⟨rfl, rfl⟩
  | some c =>
    refine .inr ⟨c, rfl, ?_⟩
    cases hg : c.gate i with
    | some t => exact .inl ⟨t, rfl, by simp only [hg]⟩
    | none =>
      refine .inr ?_
      simp only [hg]
      by_cases hb : (i.isL && c.guardBad i.guard) = true
      · exact .inl ⟨trivial, (Bool.and_eq_true_iff.mp hb).1, (Bool.and_eq_true_iff.mp hb).2, if_pos hb⟩
      · refine .inr ⟨?_, if_neg hb⟩
        simp only [Bool.not_eq_true] at hb
        simp [Ctx.admits, hg, hb]

/-- With a warp to execute it, an instruction ends in a next state: it is never refused and never stops the machine. -/
theorem run_next (s : State) (c : Ctx) (i : Instr) (f : Ctx → Eff) (h : s.ctx = some c) : ∃ t, s.run i f = .next t := by
  rcases run_cases s i f with ⟨h', _⟩ | ⟨c', _, ⟨t, _, e⟩ | ⟨_, _, _, e⟩ | ⟨_, e⟩⟩
  · rw [h] at h'; cases h'
  all_goals exact ⟨_, e⟩

@[simp] theorem finish_retire (o c : Ctx) (i : Instr) (pc : Word) : o.finish i (.retire c pc) = o.retired c i pc := rfl
@[simp] theorem finish_mcheck (o c : Ctx) (i : Instr) (m : MCheck) : o.finish i (.mcheck c m) = c.takeMCheck m := rfl
@[simp] theorem finish_stay (o c : Ctx) (i : Instr) (st : WarpSt) :
    o.finish i (.stay c st) = (c.setW { c.w with st }).commit := rfl
@[simp] theorem finish_goto (o : Ctx) (i : Instr) (s : State) : o.finish i (.goto s) = s := rfl

/-- Outside debug mode an instruction that retires changes the pc, the watchdog counter and the standing of its warp, over
what its meaning changed. -/
theorem retired_plain (o c : Ctx) (i : Instr) (pc : Word) (h : c.b.debug = false) :
    o.retired c i pc = (c.setW { c.w with pc, wdog := 0, st := .ready, stepOne := false }).commit := by
  unfold Ctx.retired
  simp [h]

/-- The rest of an instruction that reads v-names goes on, or the lowest unmapped one traps (R49, R79). -/
theorem needs_cases (c : Ctx) (act : Mask) (ns : List Name) (k : Eff) :
    (c.mapped act ns = true ∧ c.needs act ns k = k)
    ∨ (∃ n ∈ ns, act ≠ 0 ∧ c.w.vmap n = none ∧ c.needs act ns k = c.unmapped n) := by
  by_cases hm : c.mapped act ns = true
  · exact .inl ⟨hm, needs_mapped c act ns k hm⟩
  · refine .inr ?_
    have ha : act ≠ 0 := fun e => hm (by simp [Ctx.mapped, e])
    cases hu : c.unmapped? ns with
    | none =>
      exfalso; apply hm
      have := List.find?_eq_none.mp hu
      unfold Ctx.mapped
      rw [Bool.or_eq_true]
      refine .inr (List.all_eq_true.mpr fun n hn => ?_)
      have := this n hn
      cases hv : c.w.vmap n <;> simp_all
    | some n =>
      refine ⟨n, List.mem_of_find?_eq_some hu, ha, ?_, by unfold Ctx.needs; rw [if_neg ha, hu]⟩
      have := List.find?_some hu
      simpa using this

/-- A uniform instruction writes one s-name (R122, R123). -/
theorem uni_eq (c : Ctx) (d a b : Name) (f : Word → Word → Word) :
    c.uni d a b f = .retire (c.sput d (f (c.w.sget a) (c.w.sget b)) (c.w.sbad a || c.w.sbad b)) (c.w.pc + 4) := rfl

/-- An access that nothing older holds back goes on (R204, R205). -/
theorem inOrder_free (c : Ctx) (sem : Sem) (scope : Scope) (k : Eff) (read : Bool) (h : c.free sem scope read = true) :
    c.inOrder sem scope k read = k := by
  unfold Ctx.free at h
  simp only [Bool.and_eq_true, Bool.not_eq_true'] at h
  unfold Ctx.inOrder
  simp [h.1, h.2]

/-- With no fault held, an instruction that would deliver one goes on (R200). -/
theorem deliver_none (c : Ctx) (p : EngOp → Bool) (k : Eff) (h : c.w.oldestFault p = none) : c.deliver p k = k := by
  unfold Ctx.deliver
  rw [h]

/-- A resolved scratchpad place lies in an allocation of the executing block's gang (R156). -/
theorem resolve_some (c : Ctx) (a : Word) (n : Nat) (l : ScrLoc) (h : c.resolve a n = some l) :
    l.off + n ≤ c.b.kern.v ∧ l.blk.lid = c.b.key.lid ∧ l.blk.gang = c.b.key.gang := by
  unfold Ctx.resolve at h
  split at h
  · simp only at h
    split at h
    · next hc => cases h; exact ⟨hc.2.2.2, rfl, rfl⟩
    · cases h
  · simp only at h
    split at h
    · next hc => cases h; exact ⟨hc, rfl, rfl⟩
    · cases h

/-- The place of an aligned range is the one its address resolves to. -/
theorem engLoc_ok (c : Ctx) (a : Word) (align n : Nat) (l : ScrLoc) (h : c.engLoc a align n = .ok l) :
    a.toNat % align = 0 ∧ c.resolve a n = some l := by
  unfold Ctx.engLoc at h
  split at h
  · cases h
  · next hm =>
    split at h
    · next l' hl => cases h; exact ⟨by simpa using hm, hl⟩
    · cases h

/-! ### A part of the state, written and found -/

theorem find_map_self {α : Type} (l : List α) (p : α → Bool) (x : α) (hx : p x = true) (h : (l.find? p).isSome) :
    (l.map fun y => if p y then x else y).find? p = some x := by
  induction l with
  | nil => cases h
  | cons y t ih =>
    rw [List.map_cons, List.find?_cons]
    by_cases hy : p y = true
    · simp [hy, hx]
    · rw [if_neg hy]
      simp only [List.find?_cons, hy] at h
      simp only [hy]
      exact ih h

theorem find_map_other {α : Type} (l : List α) (p q : α → Bool) (x : α) (hx : q x = false)
    (hpq : ∀ y, p y = true → q y = false) :
    (l.map fun y => if p y then x else y).find? q = l.find? q := by
  induction l with
  | nil => rfl
  | cons y t ih =>
    rw [List.map_cons, List.find?_cons, List.find?_cons, ih]
    by_cases hy : p y = true
    · simp [hy, hx, hpq y hy]
    · simp [hy]

/-- A block that stands in the state, written, is the block found. -/
theorem block?_setBlock (s : State) (b : Block) (h : (s.block? b.key).isSome) : (s.setBlock b).block? b.key = some b :=
  find_map_self s.blocks (fun x => x.key == b.key) b (by simp) h

/-- Every other block is as it was. -/
theorem block?_setBlock_other (s : State) (b : Block) (k : BlockId) (h : k ≠ b.key) : (s.setBlock b).block? k = s.block? k :=
  find_map_other s.blocks (fun x => x.key == b.key) (fun x => x.key == k) b (by simpa using fun e => h e.symm)
    (fun y hy => by
      have : y.key = b.key := by simpa using hy
      simpa [this] using fun e => h e.symm)

theorem launch?_setLaunch (s : State) (l : Launch) (h : (s.launch? l.lid).isSome) :
    (s.setLaunch l).launch? l.lid = some l :=
  find_map_self s.launches (fun x => x.lid == l.lid) l (by simp) h

theorem launch?_setLaunch_other (s : State) (l : Launch) (k : Nat) (h : k ≠ l.lid) :
    (s.setLaunch l).launch? k = s.launch? k :=
  find_map_other s.launches (fun x => x.lid == l.lid) (fun x => x.lid == k) l (by simpa using fun e => h e.symm)
    (fun y hy => by
      have : y.lid = l.lid := by simpa using hy
      simpa [this] using fun e => h e.symm)

theorem ring?_setRing (s : State) (r : Ring) (h : (s.ring? r.num).isSome) : (s.setRing r).ring? r.num = some r :=
  find_map_self s.rings (fun x => x.num == r.num) r (by simp) h

theorem group?_setGroup (s : State) (g : Group) (h : (s.group? g.num).isSome) : (s.setGroup g).group? g.num = some g :=
  find_map_self s.groups (fun x => x.num == g.num) g (by simp) h

theorem part?_setPart (s : State) (p : Partition) (h : (s.part? p.first).isSome) : (s.setPart p).part? p.first = some p :=
  find_map_self s.parts (fun x => x.first == p.first) p (by simp) h

theorem warp?_setWarp (b : Block) (w : Warp) (h : (b.warp? w.num).isSome) : (b.setWarp w).warp? w.num = some w :=
  find_map_self b.warps (fun x => x.num == w.num) w (by simp) h

theorem warp?_setWarp_other (b : Block) (w : Warp) (k : Nat) (h : k ≠ w.num) : (b.setWarp w).warp? k = b.warp? k :=
  find_map_other b.warps (fun x => x.num == w.num) (fun x => x.num == k) w (by simpa using fun e => h e.symm)
    (fun y hy => by
      have : y.num = w.num := by simpa using hy
      simpa [this] using fun e => h e.symm)

/-! ### What leaves main memory alone -/

/-- Whatever each of several changes leaves alone, they leave alone together. -/
theorem foldl_keeps {α β γ : Type} (g : β → γ) (f : β → α → β) (h : ∀ b a, g (f b a) = g b) (l : List α) (b : β) :
    g (l.foldl f b) = g b := by
  induction l generalizing b with
  | nil => rfl
  | cons a t ih => rw [List.foldl_cons, ih, h]

@[simp] theorem logEvent_dram (s : State) (die : Nat) (e : Event) : (s.logEvent die e).dram = s.dram := by
  unfold State.logEvent
  split
  · rfl
  · simp only; split <;> rfl

@[simp] theorem logWarp_dram (s : State) (b : Block) (w : Warp) (code cause : Nat) (info : Word) :
    (s.logWarp b w code cause info).dram = s.dram := by
  unfold State.logWarp
  split <;> exact logEvent_dram ..

@[simp] theorem logBlock_dram (s : State) (b : Block) (code cause : Nat) (info : Word) :
    (s.logBlock b code cause info).dram = s.dram := logEvent_dram ..

@[simp] theorem logFront_dram (s : State) (part code cause lid : Nat) (info : Word) :
    (s.logFront part code cause lid info).dram = s.dram := logEvent_dram ..

@[simp] theorem endLaunch_dram (s : State) (l : Launch) (st : Status) (reason : Nat) :
    (s.endLaunch l st reason).dram = s.dram := by
  unfold State.endLaunch
  split
  · unfold State.logComplete
    rw [logFront_dram]; rfl
  · rfl

@[simp] theorem countDown_dram (s : State) (lid n : Nat) : (s.countDown lid n).dram = s.dram := by
  unfold State.countDown
  split
  · rfl
  · simp only; split
    · rw [endLaunch_dram]; rfl
    · rfl

@[simp] theorem dropGang_dram (s : State) (lid idx : Nat) : (s.dropGang lid idx).dram = s.dram := rfl

@[simp] theorem setGang_dram (s : State) (lid idx : Nat) (f : Gang → Gang) : (s.setGang lid idx f).dram = s.dram := by
  unfold State.setGang
  split <;> rfl

@[simp] theorem orphan_dram (s : State) (p : WarpId → Bool) : (s.orphan p).dram = s.dram := rfl

@[simp] theorem lookAgain_dram (s : State) (b : Block) : (s.lookAgain b).dram = s.dram := by
  unfold State.lookAgain
  simp only
  split
  · split
    · rw [setGang_dram]
      exact foldl_keeps (fun t : State => t.dram) _ (fun t x => by simp) _ _
    · rfl
  · refine foldl_keeps (fun t : State => t.dram) _ (fun t x => ?_) _ _
    split <;> rfl

@[simp] theorem endBlock_dram (s : State) (b : Block) : (s.endBlock b).dram = s.dram := by
  unfold State.endBlock
  simp only [countDown_dram]
  split
  · rw [setGang_dram, dropGang_dram]; rfl
  · rw [lookAgain_dram]; rfl

@[simp] theorem atBoundary_dram (s : State) (b : Block) : (s.atBoundary b).dram = s.dram := lookAgain_dram ..

@[simp] theorem settle_dram (s : State) (b : Block) : (s.settle b).dram = s.dram := by
  unfold State.settle
  simp only
  split
  · exact atBoundary_dram ..
  · rfl

@[simp] theorem endWarp_dram (s : State) (b : Block) (w : Warp) : (s.endWarp b w).dram = s.dram := by
  unfold State.endWarp
  simp only
  split
  · exact endBlock_dram ..
  · exact settle_dram ..

@[simp] theorem killGang_dram (s : State) (lid idx : Nat) (k : Kill) : (s.killGang lid idx k).dram = s.dram := by
  unfold State.killGang
  split
  · rfl
  · split
    · rfl
    · simp only
      split
      · rfl
      · rw [countDown_dram]; rfl

@[simp] theorem killGangOf_dram (s : State) (b : Block) (k : Kill) (cause : Nat) :
    (s.killGangOf b k cause).dram = s.dram := by
  unfold State.killGangOf
  rw [killGang_dram, logBlock_dram]

@[simp] theorem discardGang_dram (s : State) (lid idx : Nat) : (s.discardGang lid idx).dram = s.dram := by
  unfold State.discardGang
  simp only [countDown_dram, setGang_dram, dropGang_dram]

@[simp] theorem closePass_dram (s : State) (lid : Nat) : (s.closePass lid).dram = s.dram := rfl

@[simp] theorem endPass_dram (s : State) (lid : Nat) (st : Status) (reason : Nat) :
    (s.endPass lid st reason).dram = s.dram := by
  unfold State.endPass
  split
  · rfl
  · split
    · rfl
    · rw [endLaunch_dram, closePass_dram]

@[simp] theorem commit_dram (c : Ctx) : c.commit.dram = c.s.dram := rfl
@[simp] theorem stopGang_dram (s : State) (lid gang : Nat) : (s.stopGang lid gang).dram = s.dram := rfl

/-- Undo logs that give way leave main memory alone. -/
@[simp] theorem trimPool_dram (own : WarpId) (n : Nat) (s : State) : (State.trimPool own n s).dram = s.dram := by
  induction n generalizing s with
  | zero => rfl
  | succ n ih =>
    unfold State.trimPool
    split
    · rfl
    · split
      · rfl
      · split
        · rfl
        · rw [ih]
          unfold State.updBlock
          split <;> rfl

/-- Keeping every core's pool leaves main memory alone. -/
@[simp] theorem trimLogs_dram (s : State) : s.trimLogs.dram = s.dram := by
  unfold State.trimLogs
  split
  · rfl
  · exact foldl_keeps (fun t : State => t.dram) _ (fun t b => trimPool_dram ..) _ _

/-- Taking a trap leaves main memory alone. -/
@[simp] theorem takeTrap_dram (c : Ctx) (t : TrapInfo) (lanes : Mask) (len8 : Bool) :
    (c.takeTrap t lanes len8).dram = c.s.dram := by
  unfold Ctx.takeTrap
  split
  · simp
  · split
    · simp
    · split
      · simp
      · simp only
        split
        · simp
        · simp

/-- A machine check leaves main memory alone. -/
@[simp] theorem takeMCheck_dram (c : Ctx) (m : MCheck) : (c.takeMCheck m).dram = c.s.dram := by
  unfold Ctx.takeMCheck
  split
  · simp
  · simp only [killGangOf_dram]
    split <;> simp

theorem trimUndo_s (n : Nat) (c : Ctx) : (Ctx.trimUndo n c).s = c.s := by
  induction n generalizing c with
  | zero => rfl
  | succ n ih =>
    unfold Ctx.trimUndo
    simp only
    split
    · rfl
    · split
      · rfl
      · rw [ih]

@[simp] theorem logUndo_s (o c : Ctx) (i : Instr) : (Ctx.logUndo o c i).s = c.s := by
  unfold Ctx.logUndo
  split
  · rfl
  · split
    · rfl
    · simp only
      split
      · exact trimUndo_s ..
      · rfl

/-- Retirement leaves main memory as the meaning left it. -/
@[simp] theorem retired_dram (o c : Ctx) (i : Instr) (pc : Word) : (o.retired c i pc).dram = c.s.dram := by
  unfold Ctx.retired
  simp only
  split
  · rw [trimPool_dram, commit_dram, logUndo_s]; rfl
  · rfl

/-- The state whose main memory an effect leaves behind. -/
def Eff.memory : Eff → Memory
  | .retire c _ | .trap c _ | .mcheck c _ | .stay c _ => c.s.dram
  | .goto s => s.dram

/-- Running an instruction changes main memory only as its meaning does, where its own copy of the state kept it. -/
theorem run_dram (s t : State) (i : Instr) (f : Ctx → Eff) (h : s.run i f = .next t) :
    t.dram = s.dram ∨ ∃ c, s.ctx = some c ∧ t.dram = (f c).memory := by
  rcases run_cases s i f with ⟨_, e⟩ | ⟨c, hc, ⟨t', _, e⟩ | ⟨_, _, _, e⟩ | ⟨_, e⟩⟩
  · rw [e] at h; cases h
  · rw [e] at h; cases h
    exact .inl (by rw [takeTrap_dram, ctx_s s c hc])
  · rw [e] at h; cases h
    exact .inl (by rw [takeMCheck_dram, ctx_s s c hc])
  · rw [e] at h; cases h
    cases hf : f c with
    | retire k pc => exact .inr ⟨c, hc, by simp [Eff.memory, hf]⟩
    | trap k tr =>
      simp only [Ctx.finish, takeTrap_dram]
      split
      · exact .inl (by rw [ctx_s s c hc])
      · exact .inr ⟨c, hc, by simp [Eff.memory, hf]⟩
    | mcheck k m => exact .inr ⟨c, hc, by simp [Eff.memory, hf]⟩
    | stay k st => exact .inr ⟨c, hc, by simp [Eff.memory, hf]⟩
    | goto k => exact .inr ⟨c, hc, by simp [Eff.memory, hf]⟩

end Sys2Proof.Machine
end

