-- ==== Sys2Proof/Laws/Events.lean ====
section
/-! SUPPORT. What some shared operations of the events can do, each said once: replies that leave their base die, writes of a
counter's mirror, the end of a repetition, the instance a chunk names, and the elements a shadow check leaves out. -/
namespace Sys2Proof.Machine

/-- A reply that leaves changes counters alone: main memory, the requests and the blocks stay. -/
theorem replyLeaves_cases (s t : State) (n : Nat) (b : Bound) (h : s.replyLeaves n b = some t) :
    t = s ∨ ∃ m d, s.meterNow b = some m ∧ n ≠ 0 ∧ (s.die (stackOf b.addr)).chargeMeter m n = some d
      ∧ t = s.setDie (stackOf b.addr) d := by
  unfold State.replyLeaves at h
  split at h
  · exact .inl (Option.some.inj h).symm
  · rename_i m hm
    split at h
    · exact .inl (Option.some.inj h).symm
    · rename_i hn
      obtain ⟨d, hd, ht⟩ := Option.map_eq_some_iff.mp h
      exact .inr ⟨m, d, hm, hn, hd, ht.symm⟩

/-- A reply that counts nowhere leaves at once. -/
theorem replyLeaves_unmetered (s : State) (n : Nat) (b : Bound) (h : s.meterNow b = none) : s.replyLeaves n b = some s := by
  unfold State.replyLeaves
  rw [h]

@[simp] theorem packetLeaves_none (s : State) (bs : List (Byte × Bool)) : s.packetLeaves bs none = some s := rfl
@[simp] theorem packetLeaves_some (s : State) (bs : List (Byte × Bool)) (b : Bound) :
    s.packetLeaves bs (some b) = s.replyLeaves bs.length b := rfl

/-- Behind a write to the same mirror that waits, a mirror write waits and changes nothing. -/
theorem writeMirror_behind (s : State) (part : Nat) (ds : List Due) (d : Due) (a v w : DWord) (hd : d ∈ ds)
    (h : d.mirror = some (a, w)) : s.writeMirror part ds a v = (s, false) := by
  unfold State.writeMirror
  refine if_pos (List.any_eq_true.mpr ⟨d, hd, ?_⟩)
  simp [Due.mirrors, h]

/-- Ending a repetition between two passes ends its packet; nothing else is done to the ring. -/
theorem endRep_cases (s : State) (r : Ring) :
    (∃ p, r.rep = some p ∧ p.ready = true ∧ s.endRep r = s.endTaken p.lid)
    ∨ ((∀ p, r.rep = some p → p.ready = false) ∧ s.endRep r = s) := by
  unfold State.endRep
  split
  · rename_i p hp
    cases hr : p.ready
    · exact .inr ⟨fun q hq => by rw [hp] at hq; cases hq; exact hr, by simp⟩
    · exact .inl ⟨p, hp, hr, by simp⟩
  · rename_i hn
    refine .inr ⟨fun q hq => ?_, rfl⟩
    rw [hn] at hq
    cases hq

/-- The instance that a chunk names is one of its number, live or of the latest 2^15 starts (R333). -/
theorem named?_eq_some (e : TwEngine) (c : Sched) (inst : Nat) (i : TwInst) :
    e.named? c inst = some i ↔
      e.inst? c.num inst = some i ∧ (i.live = true ∨ 32768 ≤ (inst + 65535 - c.starts % 65536) % 65536) := by
  unfold TwEngine.named?
  rw [Option.filter_eq_some_iff]
  simp

/-- With no poisoned element, the results are those the check answers. -/
theorem mergeClean_clean (l : List (FRes × Bool)) (rs : List FRes) (h : ∀ x ∈ l, x.2 = false) (hn : rs.length = l.length) :
    mergeClean l rs = rs := by
  induction l generalizing rs with
  | nil => exact (List.eq_nil_of_length_eq_zero hn).symm
  | cons x t ih =>
    obtain ⟨x, b⟩ := x
    obtain rfl : b = false := h _ List.mem_cons_self
    cases rs with
    | nil => cases hn
    | cons r rs =>
      rw [mergeClean, List.headD_cons, List.tail_cons, ih rs (fun y hy => h y (List.mem_cons_of_mem _ hy)) (Nat.succ.inj hn)]

end Sys2Proof.Machine
end

