-- ==== Sys2Proof/Tests/Slice0.lean ====
section
/-! SUPPORT. Tests: a word of every instruction decoded, ill-formed terms refused, one step of each family against the spec's
worked examples, and for every statement a state and operands that meet its hypotheses. -/
namespace Sys2Proof.Tests
open Sys2Proof Sys2Proof.Machine

-- One theorem after another: each is an evaluation in the kernel, and many at once would take a thread each.
set_option Elab.async false

/-! ### A small state to test on -/

/-- A block of one warp of 32 lanes with every v-name mapped, 4 KiB of scratchpad, handoff and matrix, at the all-zero word. -/
def demo : State := State.reset.withFetchWord 32 0
/-- A prologue pass at LGO. -/
def passDemo : State := State.reset.withFetchWord 32 0xFA000000
/-- The warp changed. -/
def warpOf (f : Warp → Warp) (s : State := demo) : State :=
  { s with blocks := s.blocks.map fun b => { b with warps := b.warps.map f } }
/-- The block changed. -/
def blockOf (f : Block → Block) (s : State := demo) : State := { s with blocks := s.blocks.map f }
/-- The launch changed. -/
def launchOf (f : Launch → Launch) (s : State := demo) : State := { s with launches := s.launches.map f }
/-- s-names given values. -/
def setS (l : List (Name × Word)) (w : Warp) : Warp := l.foldl (fun w x => w.sput x.1 x.2) w
/-- Row `n` holds `f` in its lanes; at the start v-name `n` maps row `n`. -/
def setV (n : Nat) (f : Nat → Word) (b : Block) : Block := b.putRow n ⟨Vector.ofFn fun i => f i, 0, 1⟩
/-- Scratchpad bytes. -/
def setM (off : Nat) (bs : List Byte) (b : Block) : Block := { b with scr := b.scr.put off bs false }
/-- Something holds of the executing warp. -/
def has (s : State) (p : Ctx → Bool) : Bool := match s.ctx with | some c => p c | none => false
/-- An instruction leaves a next state in which something holds of the executing warp. -/
def after (s : State) (i : Instr) (p : Ctx → Bool) : Bool := match exec i s with | .next t => has t p | _ => false
/-- An instruction leaves a next state of which something holds. -/
def leaves (s : State) (i : Instr) (p : State → Bool) : Bool := match exec i s with | .next t => p t | _ => false
/-- No guard. -/
def noG : Guard := ⟨0, false⟩
/-- A modifier word of a type alone. -/
def mod (t : Ty) : ModWord := ⟨0, false, t, .rn, false, false, false, false, false, false, false⟩
/-- Lane `i` of a v-name. -/
def lane (c : Ctx) (n : Name) (i : Nat) : Word := (c.vlanes n)[i]?.getD 0
/-- Two rows of operands, v1 and v2. -/
def two (x y : Word) : State := blockOf (setV 1 (fun _ => x) ∘ setV 2 (fun _ => y))
/-- What an instruction of v1 and v2 leaves in lane 5 of v3. -/
def gives (i : LrA → Instr) (x y z : Word) : Bool :=
  after (two x y) (i ⟨3, 1, 2, noG, false⟩) fun c => lane c 3 5 == z && c.w.pc == 4
/-- The same with a modifier word, for a pair v2:v3 of v4:v5 and v6:v7 at a wide type, else v3 of v1 and v2. -/
def givesM (i : LrM → Instr) (m : ModWord) (x y z : Word) : Bool :=
  after (two x y) (i ⟨3, 1, 2, noG, false, m⟩) fun c => lane c 3 5 == z && c.w.pc == 8
/-- A trap's cause and information, where it was taken. -/
def traps (s : State) (i : Instr) (cause info : Word) : Bool :=
  after (blockOf (fun b => { b with kern := { b.kern with trap := some 0x40 } }) s) i fun c =>
    c.w.pc == 0x40 && c.w.tcause.extractLsb' 0 8 == cause.extractLsb' 0 8 && c.w.tinfo == info && c.w.depth

/-! ### Decoding: a word of every instruction, written out from its encoding (R21 to R41, and the entries of the matrix and
system instructions) -/

/-- Each word, or pair of words, decodes to its instruction. -/
def readsAs (l : List (Word × Option Word × Instr)) : Bool :=
  l.all fun x => match decode x.1 x.2.1 with | .ok i => decide (i = x.2.2) | .error _ => false

theorem test_decode_lane_integer : readsAs [
    (0x000D1F80#32, none, .iadd ⟨1, 40, 63, ⟨0, false⟩, false⟩),
    (0x02151F18#32, none, .isub ⟨2, 40, 62, ⟨1, true⟩, false⟩),
    (0x041D1EA1#32, none, .imul ⟨3, 40, 61, ⟨2, false⟩, true⟩),
    (0x06251E39#32, none, .imulh ⟨4, 40, 60, ⟨3, true⟩, true⟩),
    (0x0A351D58#32, none, .imin ⟨6, 40, 58, ⟨5, true⟩, false⟩),
    (0x0C3D1CE1#32, none, .imax ⟨7, 40, 57, ⟨6, false⟩, true⟩),
    (0x104D1B80#32, none, .andLane ⟨9, 40, 55, ⟨0, false⟩, false⟩),
    (0x12551B18#32, none, .orLane ⟨10, 40, 54, ⟨1, true⟩, false⟩),
    (0x145D1AA1#32, none, .xorLane ⟨11, 40, 53, ⟨2, false⟩, true⟩),
    (0x16651A39#32, none, .shl ⟨12, 40, 52, ⟨3, true⟩, true⟩),
    (0x186D19C0#32, none, .shr ⟨13, 40, 51, ⟨4, false⟩, false⟩),
    (0x1A751958#32, none, .sra ⟨14, 40, 50, ⟨5, true⟩, false⟩),
    (0x1C7D18E1#32, none, .rot ⟨15, 40, 49, ⟨6, false⟩, true⟩),
    (0x1E851879#32, none, .bfe ⟨16, 40, 48, ⟨7, true⟩, true⟩),
    (0x283904A9#32, none, .unt5 ⟨7, 8, 9, ⟨2, true⟩, true⟩),
    (0x24528010#32, none, .iabs ⟨10, 20, ⟨1, false⟩⟩),
    (0x245A8090#32, none, .ineg ⟨11, 20, ⟨1, false⟩⟩),
    (0x24628110#32, none, .popc ⟨12, 20, ⟨1, false⟩⟩),
    (0x246A8190#32, none, .clz ⟨13, 20, ⟨1, false⟩⟩),
    (0x24728210#32, none, .brev ⟨14, 20, ⟨1, false⟩⟩)] = true := by decide +kernel

theorem test_decode_lane_integer_modifier_word : readsAs [
    (0x000D1F84#32, some 0x00640000#32, .iaddModw ⟨1, 40, 63, ⟨0, false⟩, false, ⟨0, false, .n16, .rn, true, false, false, false, false, false, false⟩⟩),
    (0x02151F1C#32, some 0x00640000#32, .isubModw ⟨2, 40, 62, ⟨1, true⟩, false, ⟨0, false, .n16, .rn, true, false, false, false, false, false, false⟩⟩),
    (0x041D1EA5#32, some 0x00640000#32, .imulModw ⟨3, 40, 61, ⟨2, false⟩, true, ⟨0, false, .n16, .rn, true, false, false, false, false, false, false⟩⟩),
    (0x06251E3D#32, some 0x00E00000#32, .imulhModw ⟨4, 40, 60, ⟨3, true⟩, true, ⟨0, false, .n64, .rn, false, false, false, false, false, false, false⟩⟩),
    (0x0A351D5C#32, some 0x00E00000#32, .iminModw ⟨6, 40, 58, ⟨5, true⟩, false, ⟨0, false, .n64, .rn, false, false, false, false, false, false, false⟩⟩),
    (0x0C3D1CE5#32, some 0x00E00000#32, .imaxModw ⟨7, 40, 57, ⟨6, false⟩, true, ⟨0, false, .n64, .rn, false, false, false, false, false, false, false⟩⟩),
    (0x104D1B84#32, some 0x00E00000#32, .andLaneModw ⟨9, 40, 55, ⟨0, false⟩, false, ⟨0, false, .n64, .rn, false, false, false, false, false, false, false⟩⟩),
    (0x12551B1C#32, some 0x00E00000#32, .orLaneModw ⟨10, 40, 54, ⟨1, true⟩, false, ⟨0, false, .n64, .rn, false, false, false, false, false, false, false⟩⟩),
    (0x145D1AA5#32, some 0x00E00000#32, .xorLaneModw ⟨11, 40, 53, ⟨2, false⟩, true, ⟨0, false, .n64, .rn, false, false, false, false, false, false, false⟩⟩),
    (0x16651A3D#32, some 0x00E00000#32, .shlModw ⟨12, 40, 52, ⟨3, true⟩, true, ⟨0, false, .n64, .rn, false, false, false, false, false, false, false⟩⟩),
    (0x186D19C4#32, some 0x00E00000#32, .shrModw ⟨13, 40, 51, ⟨4, false⟩, false, ⟨0, false, .n64, .rn, false, false, false, false, false, false, false⟩⟩),
    (0x1A75195C#32, some 0x00E00000#32, .sraModw ⟨14, 40, 50, ⟨5, true⟩, false, ⟨0, false, .n64, .rn, false, false, false, false, false, false, false⟩⟩),
    (0x1C7D18E5#32, some 0x00E00000#32, .rotModw ⟨15, 40, 49, ⟨6, false⟩, true, ⟨0, false, .n64, .rn, false, false, false, false, false, false, false⟩⟩),
    (0x1E85187D#32, some 0x00E00000#32, .bfeModw ⟨16, 40, 48, ⟨7, true⟩, true, ⟨0, false, .n64, .rn, false, false, false, false, false, false, false⟩⟩),
    (0x08108B3C#32, some 0x52440000#32, .imad ⟨2, 4, 22, ⟨3, true⟩, false, ⟨20, true, .s16, .rn, true, false, false, false, false, false, false⟩⟩),
    (0x20108B3C#32, some 0x54A00000#32, .bfi ⟨2, 4, 22, ⟨3, true⟩, false, ⟨21, false, .n32, .rn, false, false, false, false, false, false, false⟩⟩),
    (0x22108B3C#32, some 0x14C00000#32, .sel ⟨2, 4, 22, ⟨3, true⟩, false, ⟨5, false, .s64, .rn, false, false, false, false, false, false, false⟩⟩),
    (0x26108B3C#32, some 0x24040000#32, .dp4 ⟨2, 4, 22, ⟨3, true⟩, false, ⟨9, false, .s8, .rn, true, false, false, false, false, false, false⟩⟩),
    (0x2A108B3C#32, some 0xFA800000#32, .asa ⟨2, 4, 22, ⟨3, true⟩, false, ⟨62, true, .s32, .rn, false, false, false, false, false, false, false⟩⟩),
    (0x2C108B3C#32, some 0x04200000#32, .packi ⟨2, 4, 22, ⟨3, true⟩, false, ⟨1, false, .n8, .rn, false, false, false, false, false, false, false⟩⟩),
    (0x2E10803C#32, some 0x04000000#32, .unpki ⟨2, 4, 0, ⟨3, true⟩, false, ⟨1, false, .s8, .rn, false, false, false, false, false, false, false⟩⟩),
    (0x2452801C#32, some 0x00400000#32, .iabsModw ⟨10, 20, ⟨1, true⟩, ⟨0, false, .s16, .rn, false, false, false, false, false, false, false⟩⟩),
    (0x245A809C#32, some 0x00400000#32, .inegModw ⟨11, 20, ⟨1, true⟩, ⟨0, false, .s16, .rn, false, false, false, false, false, false, false⟩⟩),
    (0x2462811C#32, some 0x00E00000#32, .popcModw ⟨12, 20, ⟨1, true⟩, ⟨0, false, .n64, .rn, false, false, false, false, false, false, false⟩⟩),
    (0x246A819C#32, some 0x00E00000#32, .clzModw ⟨13, 20, ⟨1, true⟩, ⟨0, false, .n64, .rn, false, false, false, false, false, false, false⟩⟩),
    (0x2472821C#32, some 0x00E00000#32, .brevModw ⟨14, 20, ⟨1, true⟩, ⟨0, false, .n64, .rn, false, false, false, false, false, false, false⟩⟩)] = true := by decide +kernel

theorem test_decode_compare : readsAs [
    (0x0EE96649#32, none, .icmp .le 5 ⟨11, 12, ⟨4, true⟩, true⟩),
    (0x0F314644#32, some 0x00E00000#32, .icmpModw .gt 6 ⟨10, 12, ⟨4, false⟩, false, ⟨0, false, .n64, .rn, false, false, false, false, false, false, false⟩⟩),
    (0x3B543FBD#32, none, .icmpS32Imm .ge 2 33 0x1FB ⟨6, true⟩),
    (0x3C4C2FF0#32, none, .icmpN32Imm .ne 1 33 0xFF ⟨0, false⟩),
    (0x4DD82103#32, none, .fcmp .ord 3 ⟨1, 2, ⟨0, false⟩, true, true⟩),
    (0x4D98421C#32, some 0x01624000#32, .fcmpModw .un 3 ⟨2, 4, ⟨1, true⟩, false, ⟨0, false, .f64, .rn, false, true, false, false, true, false, false⟩⟩)] = true := by decide +kernel

theorem test_decode_literal : readsAs [
    (0x31E0700B#32, none, .iaddImm 60 3 0x100 ⟨5, true⟩),
    (0x33E0700B#32, none, .andImm 60 3 0x100 ⟨5, true⟩),
    (0x35E0700B#32, none, .orImm 60 3 0x100 ⟨5, true⟩),
    (0x37E0700B#32, none, .xorImm 60 3 0x100 ⟨5, true⟩),
    (0x380841FE#32, none, .shlImm 1 2 31 ⟨7, false⟩),
    (0x380849EE#32, none, .shrImm 1 2 30 ⟨7, false⟩),
    (0x380851DE#32, none, .sraImm 1 2 29 ⟨7, false⟩),
    (0x380859CE#32, none, .rotImm 1 2 28 ⟨7, false⟩),
    (0x3E481FF5#32, none, .movi 9 0x1FF ⟨2, true⟩),
    (0x5848003C#32, some 0xDEADBEEF#32, .moviLong 9 ⟨3, true⟩ 0xDEADBEEF)] = true := by decide +kernel

theorem test_decode_floating_point : readsAs [
    (0x400841CB#32, none, .fadd ⟨1, 2, 3, ⟨4, true⟩, true, true⟩),
    (0x400841C4#32, some 0x01324000#32, .faddModw ⟨1, 2, 3, ⟨4, false⟩, false, ⟨0, false, .bf16, .ru, false, true, false, false, true, false, false⟩⟩),
    (0x420841CB#32, none, .fsub ⟨1, 2, 3, ⟨4, true⟩, true, true⟩),
    (0x420841C4#32, some 0x01324000#32, .fsubModw ⟨1, 2, 3, ⟨4, false⟩, false, ⟨0, false, .bf16, .ru, false, true, false, false, true, false, false⟩⟩),
    (0x440841CB#32, none, .fmul ⟨1, 2, 3, ⟨4, true⟩, true, true⟩),
    (0x440841C4#32, some 0x01324000#32, .fmulModw ⟨1, 2, 3, ⟨4, false⟩, false, ⟨0, false, .bf16, .ru, false, true, false, false, true, false, false⟩⟩),
    (0x480841CB#32, none, .fmin ⟨1, 2, 3, ⟨4, true⟩, true, true⟩),
    (0x480841C4#32, some 0x01224000#32, .fminModw ⟨1, 2, 3, ⟨4, false⟩, false, ⟨0, false, .bf16, .rn, false, true, false, false, true, false, false⟩⟩),
    (0x4A0841CB#32, none, .fmax ⟨1, 2, 3, ⟨4, true⟩, true, true⟩),
    (0x4A0841C4#32, some 0x01224000#32, .fmaxModw ⟨1, 2, 3, ⟨4, false⟩, false, ⟨0, false, .bf16, .rn, false, true, false, false, true, false, false⟩⟩),
    (0x4E0841CB#32, none, .fdiv ⟨1, 2, 3, ⟨4, true⟩, true, true⟩),
    (0x4E0841C4#32, some 0x01598000#32, .fdivModw ⟨1, 2, 3, ⟨4, false⟩, false, ⟨0, false, .f32, .rd, false, false, true, true, false, false, false⟩⟩),
    (0x46108305#32, some 0x236BF000#32, .ffma ⟨2, 4, 6, ⟨0, false⟩, true, ⟨8, true, .f64, .rz, false, true, true, true, true, true, true⟩⟩),
    (0x50084038#32, none, .fclass ⟨1, 2, ⟨3, true⟩⟩),
    (0x50084034#32, some 0x01420000#32, .fclassModw ⟨1, 2, ⟨3, false⟩, ⟨0, false, .f32, .rn, false, true, false, false, false, false, false⟩⟩),
    (0x500840B8#32, none, .frnd ⟨1, 2, ⟨3, true⟩⟩),
    (0x500840B4#32, some 0x01420000#32, .frndModw ⟨1, 2, ⟨3, false⟩, ⟨0, false, .f32, .rn, false, true, false, false, false, false, false⟩⟩),
    (0x50084138#32, none, .fsqrt ⟨1, 2, ⟨3, true⟩⟩),
    (0x50084134#32, some 0x01420000#32, .fsqrtModw ⟨1, 2, ⟨3, false⟩, ⟨0, false, .f32, .rn, false, true, false, false, false, false, false⟩⟩),
    (0x500841B8#32, none, .frcp ⟨1, 2, ⟨3, true⟩⟩),
    (0x500841B4#32, some 0x01420000#32, .frcpModw ⟨1, 2, ⟨3, false⟩, ⟨0, false, .f32, .rn, false, true, false, false, false, false, false⟩⟩),
    (0x50084238#32, none, .frsq ⟨1, 2, ⟨3, true⟩⟩),
    (0x50084234#32, some 0x01420000#32, .frsqModw ⟨1, 2, ⟨3, false⟩, ⟨0, false, .f32, .rn, false, true, false, false, false, false, false⟩⟩),
    (0x500842B8#32, none, .fexp2 ⟨1, 2, ⟨3, true⟩⟩),
    (0x500842B4#32, some 0x01420000#32, .fexp2Modw ⟨1, 2, ⟨3, false⟩, ⟨0, false, .f32, .rn, false, true, false, false, false, false, false⟩⟩),
    (0x50084338#32, none, .flog2 ⟨1, 2, ⟨3, true⟩⟩),
    (0x50084334#32, some 0x01420000#32, .flog2Modw ⟨1, 2, ⟨3, false⟩, ⟨0, false, .f32, .rn, false, true, false, false, false, false, false⟩⟩),
    (0x500843B8#32, none, .fsin ⟨1, 2, ⟨3, true⟩⟩),
    (0x500843B4#32, some 0x01420000#32, .fsinModw ⟨1, 2, ⟨3, false⟩, ⟨0, false, .f32, .rn, false, true, false, false, false, false, false⟩⟩),
    (0x50084438#32, none, .fcos ⟨1, 2, ⟨3, true⟩⟩),
    (0x50084434#32, some 0x01420000#32, .fcosModw ⟨1, 2, ⟨3, false⟩, ⟨0, false, .f32, .rn, false, true, false, false, false, false, false⟩⟩)] = true := by decide +kernel

theorem test_decode_conversion : readsAs [
    (0x52084004#32, some 0x01480400#32, .cvt ⟨1, 2, 0, ⟨0, false⟩, false, ⟨0, false, .f32, .rz, false, false, false, false, false, false, false⟩⟩ .s32),
    (0x54084204#32, some 0x01440000#32, .pkf8 ⟨1, 2, 4, ⟨0, false⟩, false, ⟨0, false, .f32, .rn, true, false, false, false, false, false, false⟩⟩ .e4),
    (0x5640C004#32, some 0x01400100#32, .upf8 ⟨8, 6, 0, ⟨0, false⟩, false, ⟨0, false, .f32, .rn, false, false, false, false, false, false, false⟩⟩ .e5)] = true := by decide +kernel

theorem test_decode_move_and_predicate : readsAs [
    (0x5A084038#32, none, .mov ⟨1, 2, ⟨3, true⟩⟩),
    (0x5C081FB9#32, none, .splat 1 63 ⟨3, true⟩),
    (0x5E084180#32, none, .shfl .idx ⟨1, 2, 3, ⟨0, false⟩, false⟩),
    (0x5E084183#32, none, .shfl .up ⟨1, 2, 3, ⟨0, false⟩, true⟩),
    (0x5E084184#32, none, .shfl .dn ⟨1, 2, 3, ⟨0, false⟩, false⟩),
    (0x5E084187#32, none, .shfl .xor ⟨1, 2, 3, ⟨0, false⟩, true⟩),
    (0x60206010#32, none, .vote .all ⟨4, 3, ⟨1, false⟩⟩),
    (0x60206011#32, none, .vote .any ⟨4, 3, ⟨1, false⟩⟩),
    (0x60206012#32, none, .vote .eq ⟨4, 3, ⟨1, false⟩⟩),
    (0x62286018#32, none, .ballot ⟨5, 3, ⟨1, true⟩⟩),
    (0x64302380#32, none, .bcast false ⟨6, 1, 7, ⟨0, false⟩, false⟩),
    (0x64502D83#32, none, .bcast true ⟨10, 1, 27, ⟨0, false⟩, true⟩),
    (0x66300020#32, none, .laneid 6 ⟨2, false⟩),
    (0x691D3919#32, none, .plop 3 1 2 4 0xB9 ⟨1, true⟩),
    (0x6A00A000#32, none, .split 5),
    (0x6A000001#32, none, .flip),
    (0x6A000002#32, none, .join)] = true := by decide +kernel

theorem test_decode_map_edit : readsAs [
    (0x6C084000#32, none, .aliasName 1 2),
    (0x6C080001#32, none, .drop 1),
    (0x6C084002#32, none, .swapn 1 2),
    (0x6C084003#32, none, .mapq 1 2),
    (0x6E004180#32, none, .give 2 3),
    (0x6E004181#32, none, .givex 2 3),
    (0x6E100182#32, none, .take 2 3)] = true := by decide +kernel

theorem test_decode_lane_memory : readsAs [
    (0x7020213B#32, none, .ld ⟨4, 1, 2, ⟨3, true⟩⟩ .b64),
    (0x7020213F#32, some 0x00000154#32, .ldLong ⟨4, 1, 2, ⟨3, true⟩⟩ ⟨true, .cluster, .acq, .b128⟩),
    (0x72202131#32, none, .st ⟨4, 1, 2, ⟨3, false⟩⟩ .b16),
    (0x72202137#32, some 0x000000E0#32, .stLong ⟨4, 1, 2, ⟨3, false⟩⟩ ⟨.domain, .rel, .b8⟩),
    (0x74202137#32, some 0x000312B3#32, .atom ⟨4, 1, 2, ⟨3, false⟩⟩ ⟨6, .cas, false, .device, .acqrel, true⟩),
    (0x76201F80#32, none, .spill 4 63),
    (0x76201F01#32, none, .fill 4 62)] = true := by decide +kernel

theorem test_decode_uniform : readsAs [
    (0x80084180#32, none, .sadd 1 2 3),
    (0x80084201#32, none, .ssub 1 2 4),
    (0x80084282#32, none, .smul 1 2 5),
    (0x80084303#32, none, .smulhS32 1 2 6),
    (0x80084384#32, none, .smulhN32 1 2 7),
    (0x80084405#32, none, .sand 1 2 8),
    (0x80084486#32, none, .sor 1 2 9),
    (0x80084507#32, none, .sxor 1 2 10),
    (0x80084588#32, none, .sshl 1 2 11),
    (0x80084609#32, none, .sshr 1 2 12),
    (0x8008468A#32, none, .ssra 1 2 13),
    (0x8008470B#32, none, .sminS32 1 2 14),
    (0x8008478C#32, none, .sminN32 1 2 15),
    (0x8008480D#32, none, .smaxS32 1 2 16),
    (0x8008488E#32, none, .smaxN32 1 2 17),
    (0x80084197#32, none, .scmp .leN 1 2 3),
    (0x800841A5#32, none, .ssel 5 1 2 3),
    (0x82085FFF#32, none, .saddImm 1 2 0x1FFF),
    (0x84085FFE#32, none, .smulImm 1 2 0x1FFE),
    (0x86085FFD#32, none, .sandImm 1 2 0x1FFD),
    (0x88085FFC#32, none, .sorImm 1 2 0x1FFC),
    (0x8A085FFB#32, none, .sxorImm 1 2 0x1FFB),
    (0x8C08401D#32, none, .sshlImm 1 2 29),
    (0x8C08481D#32, none, .sshrImm 1 2 29),
    (0x8C08501D#32, none, .ssraImm 1 2 29),
    (0x8E0847FE#32, none, .sminS32Imm 1 2 0x7FE),
    (0x8E084FFE#32, none, .sminN32Imm 1 2 0x7FE),
    (0x8E0857FE#32, none, .smaxS32Imm 1 2 0x7FE),
    (0x8E085FFE#32, none, .smaxN32Imm 1 2 0x7FE),
    (0x900849F0#32, none, .scmpImm .gtS 1 2 0x1F0),
    (0x92081FFF#32, none, .smovi 1 0x1FFF),
    (0x92082000#32, some 0x12345678#32, .smoviLong 1 0x12345678),
    (0x94085FFC#32, none, .sld 1 2 0x1FFC),
    (0x96084008#32, none, .sst 1 2 8),
    (0x9808000F#32, none, .sldk 1 15)] = true := by decide +kernel

theorem test_decode_control : readsAs [
    (0xA01FFFFE#32, none, .bra 0x1FFFFE),
    (0xA264FFFF#32, none, .brc .neg 9 0x7FFF),
    (0xA2E28003#32, none, .brc .noneOf 5 3),
    (0xA4048001#32, none, .loopn 9 1),
    (0xA6000064#32, none, .call 100),
    (0xA8000000#32, none, .nop),
    (0xA800E001#32, none, .jmpi 7),
    (0xA8000002#32, none, .ret),
    (0xA8000003#32, none, .exit)] = true := by decide +kernel

theorem test_decode_engine : readsAs [
    (0xB00845EE#32, none, .pkrd ⟨1, 2, 5, true, .domain, .acq, true, .b256⟩),
    (0xB20846B1#32, none, .pkwr ⟨1, 2, 6, true, .cluster, .rel, false, .b128⟩),
    (0xB4084FB8#32, none, .pkatom ⟨1, 2, true, 7, .device, .acqrel, .exch⟩),
    (0xB60000A5#32, none, .pkwait 0xA5),
    (0xB8480000#32, none, .copy 9),
    (0xBA084000#32, none, .barinit 1 2),
    (0xBA080001#32, none, .bararv 1),
    (0xBA084002#32, none, .barexp 1 2),
    (0xBA080103#32, none, .barwt 1 true),
    (0xBC000311#32, none, .waitc .col 17),
    (0xBE000001#32, none, .fence false .cluster),
    (0xBE000006#32, none, .fence true .device)] = true := by decide +kernel

theorem test_decode_matrix : readsAs [
    (0xC0000300#32, none, .macq 3),
    (0xC0000301#32, none, .macqWait 3),
    (0xC2000000#32, none, .mrel),
    (0xC4480000#32, none, .mpass 9),
    (0xC6084600#32, none, .obres 6 1 2),
    (0xC8000500#32, none, .obrel 5),
    (0xCA080400#32, none, .cbld 4 1),
    (0xCC084300#32, none, .scld 3 1 2),
    (0xCE000094#32, none, .azero 4 9),
    (0xD0084517#32, none, .mma .e5e5 true 7 1 2),
    (0xD2204803#32, none, .mtile .t5s8 3 4 2),
    (0xD4084094#32, none, .ald 4 9 1 2),
    (0xD6084094#32, none, .ast 4 9 1 2),
    (0xD840A139#32, none, .amovv ⟨8, 5, 2, true, .rd, false, .f16⟩)] = true := by decide +kernel

theorem test_decode_system : readsAs [
    (0xE0000F00#32, none, .phase 15),
    (0xE2000700#32, none, .barb 7),
    (0xE4080001#32, none, .getwork true 1),
    (0xE6080000#32, none, .valid 1),
    (0xE8000000#32, none, .wrapend),
    (0xEA000000#32, none, .cancel),
    (0xEA000001#32, none, .cancelJob),
    (0xEC080000#32, none, .lcntLaunch 1),
    (0xEC100001#32, none, .lcntJob 2),
    (0xEE084000#32, none, .coll 1 2),
    (0xF0080029#32, none, .srd 1 .ebbleft),
    (0xF2080010#32, none, .swr 1 .flg),
    (0xF4100000#32, none, .time 2),
    (0xF6080000#32, none, .tick 1),
    (0xF6080001#32, none, .tickNow 1),
    (0xF8001080#32, none, .trap 33),
    (0xF8000001#32, none, .tretRetry),
    (0xF8000002#32, none, .tretSkip),
    (0xF8000003#32, none, .brk),
    (0xFA000000#32, none, .lgo),
    (0xFA000001#32, none, .lcancel),
    (0xFA000002#32, none, .lrepeat)] = true := by decide +kernel

/-! ### Well-formedness: one ill-formed term for each check, and one for each name check -/

/-- A shape of operands with a modifier word. -/
def lrm (m : ModWord) : LrM := ⟨8, 16, 24, noG, false, m⟩
/-- A unary shape. -/
def lrum (m : ModWord) : LrUM := ⟨8, 16, noG, m⟩

theorem test_wf_refuses : [
    .iaddModw (lrm (mod .f32)), .iaddModw (lrm { mod .s32 with rm := .rz }), .iaddModw (lrm { mod .s32 with nb := true }),
    .iaddModw (lrm { mod .s32 with c := 3 }), .isubModw (lrm { mod .s32 with cs := true }), .imulModw (lrm { mod .s32 with aa := true }),
    .imad (lrm { mod .s32 with nc := true }), .imulhModw (lrm (mod .s16)), .imulhModw (lrm { mod .s32 with sat := true }),
    .iminModw (lrm { mod .s32 with sat := true }), .imaxModw (lrm (mod .f64)), .icmpModw .eq 1 ⟨8, 16, noG, false, mod .bf16⟩,
    .andLaneModw (lrm (mod .n8)), .orLaneModw (lrm (mod .s8)), .xorLaneModw (lrm (mod .n16)), .shlModw (lrm (mod .s16)),
    .shrModw (lrm (mod .s8)), .sraModw (lrm (mod .f16)), .rotModw (lrm (mod .n8)), .bfeModw (lrm (mod .n16)),
    .bfi (lrm (mod .s8)), .sel (lrm { mod .s32 with cs := true }), .iabsModw (lrum (mod .n32)), .inegModw (lrum (mod .n8)),
    .popcModw (lrum (mod .s8)), .clzModw (lrum (mod .s16)), .brevModw (lrum { mod .s32 with na := true }), .dp4 (lrm (mod .s32)),
    .asa (lrm (mod .s8)), .packi (lrm (mod .s32)), .packi (lrm { mod .s16 with c := 1 }), .packi (lrm { mod .s8 with c := 2 }),
    .unpki (lrm (mod .s8)), .unpki ⟨8, 16, 0, noG, true, mod .s8⟩, .unpki ⟨8, 16, 0, noG, false, { mod .s8 with sat := true }⟩,
    .faddModw (lrm (mod .s32)), .fsubModw (lrm { mod .f32 with sat := true }), .fmulModw (lrm { mod .f32 with ac := true }),
    .ffma (lrm (mod .n32)), .fminModw (lrm { mod .f32 with rm := .ru }), .fmaxModw (lrm { mod .f32 with rm := .rd }),
    .fcmpModw .eq 1 ⟨8, 16, noG, false, { mod .f32 with c := 1 }⟩, .fdivModw (lrm (mod .f16)), .fclassModw (lrum { mod .f32 with nb := true }),
    .frndModw (lrum (mod .s32)), .fsqrtModw (lrum (mod .bf16)), .frcpModw (lrum (mod .f64)), .frsqModw (lrum { mod .f32 with rm := .rz }),
    .fexp2Modw (lrum (mod .f16)), .flog2Modw (lrum (mod .f64)), .fsinModw (lrum (mod .bf16)), .fcosModw (lrum (mod .f64)),
    .cvt (lrm (mod .f32)) .s32, .cvt ⟨8, 16, 0, noG, false, { mod .f32 with sat := true }⟩ .s32,
    .cvt ⟨8, 16, 0, noG, false, { mod .s32 with na := true }⟩ .f32, .cvt ⟨8, 16, 0, noG, false, { mod .f32 with c := 1 }⟩ .f64,
    .cvt ⟨8, 16, 1, noG, false, mod .f32⟩ .f64, .cvt ⟨8, 16, 0, noG, true, mod .f32⟩ .f64, .pkf8 (lrm (mod .f64)) .e4,
    .pkf8 (lrm { mod .f32 with nc := true }) .e5, .upf8 (lrm (mod .f32)) .e4, .upf8 ⟨8, 16, 0, noG, false, { mod .f32 with rm := .rz }⟩ .e4,
    .bcast false ⟨8, 16, 32, noG, false⟩, .ldLong ⟨8, 1, 2, noG⟩ ⟨true, .core, .rlx, .b8⟩, .ldLong ⟨8, 1, 2, noG⟩ ⟨false, .core, .rel, .b8⟩,
    .stLong ⟨8, 1, 2, noG⟩ ⟨.core, .acq, .b8⟩, .atom ⟨8, 1, 2, noG⟩ ⟨0, .add, true, .core, .rel, false⟩,
    .atom ⟨8, 1, 2, noG⟩ ⟨4, .add, false, .core, .rlx, false⟩, .pkrd ⟨1, 2, 0, true, .device, .rlx, false, .b64⟩,
    .pkrd ⟨1, 2, 0, false, .device, .acqrel, false, .b64⟩, .pkwr ⟨1, 2, 0, false, .device, .acq, false, .b64⟩, .fence true .core,
    .amovv ⟨8, 1, 2, false, .rn, true, .s32⟩, .amovv ⟨8, 1, 0, true, .rn, true, .s32⟩, .amovv ⟨8, 1, 0, false, .rz, true, .s32⟩
  ].all (fun (i : Instr) => !i.wf) = true := by decide +kernel

theorem test_wf_admits : [
    .iaddModw (lrm { mod .s64 with sat := true }), .sel (lrm { mod .n64 with c := 7 }), .packi (lrm { mod .n8 with c := 1 }),
    .faddModw (lrm { mod .f64 with rm := .rd, na := true, ab := true }), .cvt (lrm { mod .f32 with rm := .rz, sat := true }) .bf16,
    .cvt ⟨8, 16, 1, noG, false, mod .bf16⟩ .f32, .bcast false ⟨8, 16, 31, noG, false⟩, .ldLong ⟨8, 1, 2, noG⟩ ⟨true, .core, .acq, .b8⟩,
    .atom ⟨8, 1, 2, noG⟩ ⟨4, .cas, true, .core, .acq, false⟩, .fence true .device, .amovv ⟨8, 1, 0, false, .rn, true, .s32⟩
  ].all (fun (i : Instr) => i.wf) = true := by decide +kernel

/-- The first field of each that R22 refuses: its bit position and value. -/
theorem test_name_checks : [
    (Instr.iaddModw ⟨9, 16, 24, noG, false, mod .s64⟩, (19, 9)), (.imulModw ⟨8, 17, 25, noG, false, mod .f64⟩, (13, 17)),
    (.imad ⟨8, 16, 24, noG, false, { mod .s64 with c := 63 }⟩, (58, 63)), (.icmpModw .eq 1 ⟨8, 17, noG, false, mod .n64⟩, (7, 17)),
    (.sel ⟨8, 16, 24, noG, false, { mod .s32 with c := 8 }⟩, (58, 8)), (.packi ⟨8, 16, 25, noG, false, mod .s8⟩, (7, 25)),
    (.unpki ⟨4, 16, 0, noG, false, { mod .s8 with c := 1 }⟩, (19, 4)), (.ffma ⟨8, 16, 24, noG, false, { mod .f64 with c := 1 }⟩, (58, 1)),
    (.vote .all ⟨8, 9, noG⟩, (19, 8)), (.ballot ⟨8, 9, noG⟩, (13, 9)), (.split 8, (13, 8)), (.ld ⟨2, 1, 2, noG⟩ .b128, (19, 2)),
    (.atom ⟨8, 1, 2, noG⟩ ⟨5, .cas, false, .core, .rlx, true⟩, (47, 5)), (.brc .any 8 0, (15, 8)),
    (.pkrd ⟨63, 2, 0, false, .device, .rlx, true, .b64⟩, (19, 64)), (.pkwr ⟨1, 62, 0, true, .device, .rlx, false, .b64⟩, (13, 64)),
    (.mma .bf16 true 0 2 4, (19, 2)), (.mma .bf16 false 0 52 56, (13, 56)), (.amovv ⟨4, 1, 2, false, .rn, false, .f32⟩, (19, 4)),
    (.amovv ⟨8, 16, 2, false, .rn, false, .f32⟩, (13, 16)), (.getwork true 63, (19, 64)), (.time 5, (19, 5)), (.coll 1 3, (13, 3))
  ].all (fun x => decide (x.1.reserved = some x.2)) = true := by decide +kernel

/-! ### Results: the worked examples of the spec, and small cases by hand from its tables -/

-- R104's worked lanes.
theorem test_iadd_s8 : givesM .iaddModw (mod .s8) 100 100 0xFFFFFFC8 = true := by decide +kernel
theorem test_iadd_n8_sat : givesM .iaddModw { mod .n8 with sat := true } 200 100 0xFF = true := by decide +kernel
theorem test_imulh_n32 : givesM .imulhModw (mod .n32) 0xFFFFFFFF 2 1 = true := by decide +kernel
theorem test_imulh_s32 : gives .imulh 0xFFFFFFFF 2 0xFFFFFFFF = true := by decide +kernel
theorem test_bfe_s32 : gives .bfe 0xF0A0 0x0808 0xFFFFFFF0 = true := by decide +kernel
theorem test_bfe_n32 : givesM .bfeModw (mod .n32) 0xF0A0 0x0808 0xF0 = true := by decide +kernel
theorem test_sra : gives .sra 0x80000010 36 0xF8000001 = true := by decide +kernel
theorem test_rot : givesM .rotModw (mod .n32) 0x80000001 1 3 = true := by decide +kernel
theorem test_iadd_wraps : gives .iadd 0x7FFFFFFF 1 0x80000000 = true := by decide +kernel
theorem test_isub_order : gives .isub 3 5 0xFFFFFFFE = true := by decide +kernel
theorem test_bfi : after (blockOf (setV 4 fun _ => 0x0404) (two 0xFFFFFFFF 0)) (.bfi ⟨3, 1, 2, noG, false, { mod .n32 with c := 4 }⟩)
    (fun c => lane c 3 0 == 0xFFFFFF0F) = true := by decide +kernel
theorem test_iabs_sat : after (two 0x80000000 0) (.iabsModw ⟨3, 1, noG, { mod .s32 with sat := true }⟩)
    (fun c => lane c 3 0 == 0x7FFFFFFF) = true := by decide +kernel
theorem test_clz_zero : after (two 0 0) (.clz ⟨3, 1, noG⟩) (fun c => lane c 3 0 == 32) = true := by decide +kernel
-- A lane outside the guard keeps the old row's value, in a fresh row (R17).
theorem test_guard : after (warpOf (fun w => w.pput 1 0xFFFFFFFF 0x20 0) (two 7 8)) (.iadd ⟨2, 1, 2, ⟨1, false⟩, false⟩)
    (fun c => lane c 2 5 == 15 && lane c 2 6 == 8) = true := by decide +kernel
-- R265's rows for UNT5, and R268's for DP4.
theorem test_unt5 : after (two 0xC8F2 1) (.unt5 ⟨3, 1, 2, noG, false⟩) (fun c => lane c 3 0 == 0x252) = true := by decide +kernel
theorem test_dp4 : after (blockOf (setV 4 fun _ => 1000) (two 0x80FF027F 0x807FFE03))
    (.dp4 ⟨3, 1, 2, noG, false, { mod .s8 with c := 4 }⟩) (fun c => lane c 3 0 == 0x44E2 && c.w.flg == 0) = true := by
  decide +kernel
theorem test_dp4_overflow : after (blockOf (setV 4 fun _ => 0x7FFFFFF0) (two 0x80FF027F 0x807FFE03))
    (.dp4 ⟨3, 1, 2, noG, false, { mod .s8 with c := 4 }⟩) (fun c => lane c 3 0 == 0x800040EA && c.w.flg == 0x40) = true := by
  decide +kernel
-- The worked run after R271.
theorem test_packi : after (blockOf (setV 0 (fun _ => 300) ∘ setV 1 (fun _ => 0xFFFFFFFB) ∘ setV 2 (fun _ => 0xFFFFFF38) ∘
    setV 3 (fun _ => 127))) (.packi ⟨10, 0, 2, noG, false, { mod .s8 with sat := true }⟩)
    (fun c => lane c 10 0 == 0x7F80FB7F) = true := by decide +kernel
theorem test_unpki : after (blockOf (setV 10 fun _ => 0x87F03781)) (.unpki ⟨16, 10, 0, noG, false, { mod .s8 with c := 1 }⟩)
    (fun c => (List.range 8).map (fun k => (lane c (BitVec.ofNat 6 (16 + k)) 0).toInt) == [1, -8, 7, 3, 0, -1, 7, -8]) = true := by
  decide +kernel
theorem test_icmp_natural : after (two 0xFFFFFFFF 0) (.icmpN32Imm .gt 2 1 5 noG) (fun c => c.w.pget 2 == 0xFFFFFFFF) = true := by
  decide +kernel

-- R119's worked conversions, R121's packing, and sums by hand.
theorem test_cvt_ties : after (two 0x3F801000 0x3F803000) (.cvt ⟨3, 1, 2, noG, false, mod .f32⟩ .f16)
    (fun c => lane c 3 0 == 0x3C023C00 && c.w.flg == 0x10) = true := by decide +kernel
theorem test_cvt_sat : after (two 0x4788B800 0x3F800000) (.cvt ⟨3, 1, 2, noG, false, { mod .f32 with sat := true }⟩ .f16)
    (fun c => lane c 3 0 == 0x3C007BFF) = true := by decide +kernel
theorem test_cvt_nan : after (two 0x7FC00000 0) (.cvt ⟨3, 1, 0, noG, false, mod .f32⟩ .s32)
    (fun c => lane c 3 0 == 0 && c.w.flg == 1) = true := by decide +kernel
theorem test_pkf8 : after (blockOf (setV 0 (fun _ => 0x3F800000) ∘ setV 1 (fun _ => 0x3EA00000) ∘ setV 2 (fun _ => 0x44000000) ∘
    setV 3 (fun _ => 0xBB000000))) (.pkf8 ⟨6, 0, 2, noG, false, { mod .f32 with sat := true }⟩ .e4)
    (fun c => lane c 6 0 == 0x817E2A38) = true := by decide +kernel
theorem test_upf8 : after (blockOf (setV 6 fun _ => 0x817E2A38)) (.upf8 ⟨8, 6, 0, noG, false, mod .f32⟩ .e4)
    (fun c => (List.range 4).map (fun k => lane c (BitVec.ofNat 6 (8 + k)) 0) == [0x3F800000, 0x3EA00000, 0x43E00000, 0xBB000000])
    = true := by decide +kernel
theorem test_fadd : after (two 0x3F800000 0x33800000) (.fadd ⟨3, 1, 2, noG, false, false⟩)
    (fun c => lane c 3 0 == 0x3F800000 && c.w.flg == 0x10) = true := by decide +kernel
theorem test_fdiv_zero : after (two 0x3F800000 0x80000000) (.fdiv ⟨3, 1, 2, noG, false, false⟩)
    (fun c => lane c 3 0 == 0xFF800000 && c.w.flg == 2) = true := by decide +kernel
theorem test_fmul_overflow : after (two 0x7F7FFFFF 0x3F800001) (.fmul ⟨3, 1, 2, noG, false, false⟩)
    (fun c => lane c 3 0 == 0x7F800000 && c.w.flg == 0x14) = true := by decide +kernel
theorem test_fcmp_unordered : after (two 0x7FC00000 0) (.fcmp .un 1 ⟨1, 2, noG, false, false⟩) (fun c => c.w.pget 1 == 0xFFFFFFFF)
    = true := by decide +kernel
theorem test_fsqrt : after (two 0x40800000 0) (.fsqrt ⟨3, 1, noG⟩) (fun c => lane c 3 0 == 0x40000000 && c.w.flg == 0) = true := by
  decide +kernel

-- Moves, cross-lane and divergence.
theorem test_movi : after demo (.movi 3 0x1FB noG) (fun c => lane c 3 31 == 0xFFFFFFFB) = true := by decide +kernel
theorem test_shfl_up : after (blockOf (setV 1 (fun i => BitVec.ofNat 32 (100 + i)) ∘ setV 2 fun _ => 3)) (.shfl .up ⟨3, 1, 2, noG, false⟩)
    (fun c => lane c 3 2 == 102 && lane c 3 5 == 102) = true := by decide +kernel
theorem test_plop_select : after (warpOf (fun w => ((w.pput 1 0xFFFFFFFF 0xC 0).pput 2 0xFFFFFFFF 0xA 0).pput 3 0xFFFFFFFF 0x3 0))
    (.plop 5 1 2 3 0xCA noG) (fun c => c.w.pget 5 == 0xB) = true := by decide +kernel
theorem test_split : after (warpOf fun w => w.pput 1 0xFFFFFFFF 0xFF 0) (.split 1)
    (fun c => c.w.m == 0xFF && c.w.stack == [(0xFFFFFFFF, 0xFFFFFF00)]) = true := by decide +kernel
theorem test_alias : after demo (.aliasName 1 2) (fun c => c.w.vmap 1 == some 2 && ((c.b.row? 2).map (·.count)) == some 2
    && (c.b.row? 1).isNone) = true := by decide +kernel
theorem test_give_take : after demo (.give 3 4) (fun c => c.w.vmap 3 == none && c.b.slot 0 == some 3) = true := by decide +kernel

-- The uniform ALU: the worked lines after R124.
theorem test_sadd_carry : after (warpOf (setS [(0, 0xFFFFFF00), (4, 0x200)])) (.sadd 0 0 4) (fun c => c.w.sget 0 == 0x100) = true := by
  decide +kernel
theorem test_scmp : after (warpOf (setS [(0, 0x100), (4, 0x200)])) (.scmp .ltN 6 0 4) (fun c => c.w.sget 6 == 1) = true := by
  decide +kernel

-- Control.
theorem test_bra_back : after (warpOf fun w => { w with pc := 0x100 }) (.bra 0x1FFFFE) (fun c => c.w.pc == 0xF8) = true := by decide +kernel
theorem test_loopn_last : after (warpOf (setS [(9, 1)])) (.loopn 9 0x7FFF) (fun c => c.w.pc == 4 && c.w.sget 9 == 0) = true := by
  decide +kernel
theorem test_call : after demo (.call 3) (fun c => c.w.pc == 12 && c.w.sget 63 == 4) = true := by decide +kernel
theorem test_jmpi_unaligned : traps (warpOf (setS [(7, 6)])) (.jmpi 7) 0x05 0 = true := by decide +kernel

-- Scratchpad.
theorem test_ld_b64 : after (warpOf (setS [(1, 0x100)]) (blockOf (setM 0x108 [1, 2, 3, 4, 5, 6, 7, 8] ∘ setV 2 fun i => BitVec.ofNat 32 (8 * i))))
    (.ld ⟨4, 1, 2, noG⟩ .b64) (fun c => lane c 4 1 == 0x04030201 && lane c 5 1 == 0x08070605 && lane c 4 0 == 0) = true := by
  decide +kernel
theorem test_st_b8 : after (warpOf (setS [(1, 0x100)]) (blockOf (setV 4 (fun i => BitVec.ofNat 32 (0x1240 + i)) ∘ setV 2 fun i => BitVec.ofNat 32 i)))
    (.st ⟨4, 1, 2, noG⟩ .b8) (fun c => c.b.scr.get 0x101 2 == [0x41, 0x42]) = true := by decide +kernel
theorem test_atom_order : after (warpOf (setS [(1, 0x100)]) (blockOf (setV 4 (fun _ => 1) ∘ setV 2 fun _ => 0)))
    (.atom ⟨4, 1, 2, noG⟩ ⟨0, .add, false, .core, .rlx, false⟩) (fun c => lane c 4 0 == 0 && lane c 4 31 == 31
      && c.b.scr.get 0x100 1 == [32]) = true := by decide +kernel
theorem test_st_bounds : traps (warpOf (setS [(1, 0x1000)]) (blockOf (setV 2 fun _ => 0))) (.st ⟨4, 1, 2, noG⟩ .b8) 0x04 0 = true := by
  decide +kernel

-- Barriers and traps.
theorem test_barrier_flips : leaves (warpOf (setS [(1, 0x40)]) (blockOf (setM 0x40 [0, 0, 0, 1]))) (.bararv 1)
    (fun t => has t fun c => c.b.scr.get 0x40 16 == [0, 0, 0, 1, 0, 0, 0, 0, 0, 0, 0, 0, 1, 0, 0, 0]) = true := by decide +kernel
theorem test_trap : traps demo (.trap 33) 0x0F 33 = true := by decide +kernel
theorem test_priv : traps demo .lgo 0x11 0xFA000000 = true := by decide +kernel
theorem test_reserved_field : traps demo (.time 5) 0x02 0x1305 = true := by decide +kernel
theorem test_unmapped : traps (warpOf fun w => w.setVmap 2 none) (.iadd ⟨3, 1, 2, noG, false⟩) 0x03 2 = true := by decide +kernel
theorem test_tret_skip : after (warpOf fun w => { w with tpc := 0x20, tcause := 0x1000E }) .tretSkip (fun c => c.w.pc == 0x24 && !c.w.depth)
    = true := by decide +kernel
theorem test_srd_caps : after demo (.srd 1 .caps) (fun c => c.w.sget 1 == 0x016610E8) = true := by decide +kernel

-- The matrix engine: ownership, and tiles of +0.
theorem test_macq : after demo (.macq 2) (fun c => c.b.holder == some 0 && c.w.pget 2 == 0xFFFFFFFF) = true := by decide +kernel
theorem test_azero : after (blockOf fun b => { b with holder := some 0 }) (.azero 4 9) (fun c => (c.w.aget 9).tile == some 5
    && (c.w.aget 10).tile == none && !(c.w.aget 4).dirty) = true := by decide +kernel

-- A packet write crosses to DRAM only through its event, and a step runs the word at the pc.
theorem test_step_runs_word : (match step (State.reset.withFetchWord 32 0x3E181FF0) with
    | .next t => has t fun c => lane c 3 0 == 0xFFFFFFFF && c.w.pc == 4 | _ => false) = true := by decide +kernel
theorem test_step_long_word : (match step (State.reset.withFetchWord 64 0x1234567858180004) with
    | .next t => has t fun c => lane c 3 0 == 0x12345678 && c.w.pc == 8 | _ => false) = true := by decide +kernel
-- FIPS 180-4, the digest of the three bytes of abc.
theorem test_sha256 : (leBytes 32 (Sha.hash [0x61, 0x62, 0x63]).toNat == [0xBA, 0x78, 0x16, 0xBF, 0x8F, 0x01, 0xCF, 0xEA, 0x41, 0x41, 0x40,
  0xDE, 0x5D, 0xAE, 0x22, 0x23, 0xB0, 0x03, 0x61, 0xA3, 0x96, 0x17, 0x7A, 0x9C, 0xB4, 0x10, 0xFF, 0x61, 0xF2, 0x00, 0x15, 0xAD]) = true := by decide +kernel

/-! ### Witnesses: for every statement with hypotheses, a state and operands that meet them, clause by clause -/

/-- Each instruction of a list may execute. -/
def admitsAll (c : Ctx) (is : List Instr) : Bool := is.all fun i => c.admits i
/-- A launch record of 1 gang of 1 block, with one parameter word and one flag. -/
def demoRec : LaunchRec := ⟨0, 0, 0, 0, 0, 1, 1, 1, 1, 32, 1000, 100, 0xFFFFFFFF, 0, 2, 0, 8, 1, [7], false⟩
/-- A pending operation of a class. -/
def pend (cls : Cls) : EngOp := ⟨9, cls, 0, [], .pending⟩
/-- The lanes of v1 and v2 hold the offsets of a lane access, s1 its base. -/
def memDemo : State := warpOf (setS [(1, 0x100)]) (blockOf (setV 2 fun i => BitVec.ofNat 32 (16 * i)))
/-- A second warp, still to arrive anywhere. -/
def twoWarps : State := blockOf (fun b => { b with warps := b.warps ++ b.warps.map fun w => { w with num := 1 } })
/-- The warp is at an instruction's word with a handler at 0x40. -/
def handled : State := blockOf (fun b => { b with kern := { b.kern with trap := some 0x40 } })

theorem witness_StepRunsDecodedInstruction :
    (demo.agenda.isEmpty && has demo (fun c => decide (demo.fetch c.b c.w = .iadd ⟨0, 0, 0, noG, false⟩)))
    && (let s : State := { demo with agenda := [⟨5, 7, .agent ⟨⟨1, 0, 0⟩, 0⟩⟩], cur := none }; has s.turn.1 fun c => c.w.wdog == 7)
    && (let s : State := { demo with agenda := [⟨0, 0, .agent ⟨⟨9, 0, 0⟩, 0⟩⟩] }; s.turn.1.ctx.isNone)
    && ((Instr.cappedMode true).words.isNone && Instr.nop.words.isSome)
    && (match demo.code? 0 0 with
      | some co => (List.range 8).all fun i => match demo.codePlace co i with | some k => demo.dram.read k == 0 | none => false
      | none => false)
    && has demo (fun c => (demo.codeKeys c.b 0).length == 8 && demo.poison.isEmpty)
    && (let s : State := { demo with poison := [0] }
      has s fun c => (s.codeKeys c.b c.w.pc.toNat).any fun k => s.poison.contains (k / 32))
    && has (warpOf fun w => { w with pc := 4 }) (fun c => c.b.kern.codeSize == c.w.pc.toNat + 4)
    && (let s : State := { demo with agenda := [⟨0, 0, .upset (.granule 0)⟩] }; s.turn.1.poison == [0])
    && (match decode 0#32 (some 0#32), decode 0x78000000#32 (some 0#32) with | .ok _, .error _ => true | _, _ => false)
    && (demo.blocks.all fun b => b.warps.all fun w => w.undo.isEmpty)
    = true := by decide +kernel

theorem witness_EncodeDecodeRoundTrip : (let i := Instr.iadd ⟨63, 0, 63, ⟨7, true⟩, true⟩; i.wf && i.words.isSome)
    && (match decode 0xA8000003#32 none with | .ok _ => true | .error _ => false) = true := by decide +kernel

theorem witness_MemoryReadsWhatWasWritten : (Memory.mk [(0, 1#8), (5, 7#8)]).wf && (Memory.mk []).wf = true := by decide +kernel

theorem witness_MemoryStaysCanonical : demo.dram.wf && (match step demo with | .next _ => true | _ => false) = true := by
  decide +kernel

theorem witness_EveryInstructionIsCheckedFirst :
    has demo (fun c => c.b.kind == .kernel && !(Instr.fence true .core).wf && Instr.lgo.wf && Instr.lgo.privInKernel
      && (Instr.time 5).reserved == some (19, 5) && !(Instr.time 5).privInKernel && Instr.exit.isL == false
      && (Instr.iadd ⟨0, 0, 0, noG, false⟩).isL && (c.gate (.iadd ⟨0, 0, 0, ⟨1, true⟩, false⟩)).isNone)
    && has passDemo (fun c => c.b.kind == .prologue && !(Instr.exit).inPrologue && (Instr.time 5).inPrologue && (Instr.time 5).wf)
    && (let s := { demo with variant := .m }; !s.hasTideway && s.ctx.isSome && (Instr.coll 1 2).wf && (Instr.coll 1 2).reserved.isNone)
    && has (warpOf fun w => w.pput 1 0xFFFFFFFF 0 1) (fun c => c.w.m &&& c.w.liveMask &&& c.w.pbad 1 != 0
      && (c.gate (.iadd ⟨0, 0, 0, ⟨1, false⟩, false⟩)).isNone) = true := by decide +kernel

theorem witness_IntWordResults : has demo (fun c => c.mapped (c.active noG) [1, 2] && (let r : LrA := ⟨3, 1, 2, noG, false⟩
    admitsAll c [.iadd r, .isub r, .imul r, .imulh r, .imin r, .imax r, .andLane r, .orLane r, .xorLane r, .shl r, .shr r, .sra r,
      .rot r, .bfe r, .iaddImm 3 1 5 noG, .andImm 3 1 5 noG, .orImm 3 1 5 noG, .xorImm 3 1 5 noG, .shlImm 3 1 5 noG, .shrImm 3 1 5 noG,
      .sraImm 3 1 5 noG, .rotImm 3 1 5 noG, .iabs ⟨3, 1, noG⟩, .ineg ⟨3, 1, noG⟩, .popc ⟨3, 1, noG⟩, .clz ⟨3, 1, noG⟩, .brev ⟨3, 1, noG⟩,
      .mov ⟨3, 1, noG⟩])) = true := by decide +kernel

theorem witness_IntTypedResults : has demo (fun c => c.mapped (c.active noG) [8, 9, 16, 17, 24, 25] && c.w.pbad 1 &&& c.active noG == 0
    && (let r := lrm (mod .s64)
      let u := lrum (mod .s64)
      admitsAll c [.iaddModw r, .isubModw r, .imulModw r, .imulhModw r, .iminModw r, .imaxModw r, .andLaneModw r, .orLaneModw r,
        .xorLaneModw r, .shlModw r, .shrModw r, .sraModw r, .rotModw r, .bfeModw r, .imad (lrm { mod .s64 with c := 24 }), .bfi r,
        .sel (lrm { mod .s64 with c := 1 }), .iabsModw u, .inegModw u, .popcModw u, .clzModw u, .brevModw u])) = true := by decide +kernel

theorem witness_IntCompareResults : has demo (fun c => c.mapped (c.active noG) [1, 2, 16, 17, 24, 25]
    && admitsAll c [.icmp .eq 1 ⟨1, 2, noG, false⟩, .icmpModw .lt 0 ⟨16, 24, noG, false, mod .n64⟩, .icmpS32Imm .ge 7 1 0x100 noG,
      .icmpN32Imm .gt 7 1 0x1FF noG]) = true := by decide +kernel

theorem witness_PackedIntegerResults : has (two 0 0xF3) (fun c => c.mapped (c.active noG) [1, 2, 16, 17, 24, 25] && c.w.flg.getLsbD 13 == false
    && admitsAll c [.dp4 (lrm (mod .s8)), .asa (lrm (mod .s32)), .unt5 ⟨3, 1, 1, noG, false⟩, .unt5 ⟨3, 2, 1, noG, false⟩,
      .packi (lrm (mod .n8)), .unpki ⟨8, 16, 0, noG, false, mod .n8⟩])
    && has (warpOf (fun w => { w with flg := 0x2000 }) (two 0 0xF3)) (fun c => c.w.flg.getLsbD 13 && c.mapped (c.active noG) [2, 1]
      && c.admits (.unt5 ⟨3, 2, 1, noG, false⟩) && (c.active noG).getLsbD 0 && c.badWord 2 false ||| c.badWord 1 false == 0
      && ((c.word 2 false 0) >>> (8 * ((c.word 1 false 0).toNat % 4))).toNat % 256 == 243) = true := by decide +kernel

/-- No checked element diverges from its shadow: `Spec.agree`, as a test. -/
def agreeB (live : Mask) (n : Nat) (bits : Nat → Nat → Nat) (sh : Nat → Nat → Shadow) : Bool :=
  (lanesOf live).all fun k => (List.range n).all fun j => !(sh k j).differs (bits k j)
/-- The elements of an operation on v1 and v2 agree with their shadows. -/
def agreesAt (c : Ctx) (t : Ty) (n : Nat) (srcs : List FSrc) (op : List Nat → FRes) (adds : List Nat → List (Option Int)) : Bool :=
  agreeB (c.active noG) n (fun k j => (op (Spec.ins c t srcs k j)).bits)
    fun k j => Spec.shadowOf (fmtOf t) .rn op adds (Spec.ins c t srcs k j)
/-- A product of halves. -/
def mul16 (l : List Nat) : FRes := Fmt.f16.mul .rn true (l.getD 0 0) (l.getD 1 0)
/-- A sum. -/
def add32 (l : List Nat) : FRes := Fmt.f32.add .rn false false (l.getD 0 0) (l.getD 1 0)
/-- Every exception is enabled. -/
def enabling (w : Warp) : Warp := { w with flg := 0x1F00 }
/-- FTZ is set. -/
def flushing (w : Warp) : Warp := { w with flg := 0x10000 }

theorem witness_FloatResults : has demo (fun c => c.mapped (c.active noG) [1, 2, 16, 17, 24, 25] && c.w.enables == 0 && demo.upset.isNone
    && (let q : LrF := ⟨3, 1, 2, noG, false, true⟩
      let u : LrU := ⟨3, 1, noG⟩
      let r := lrm (mod .f64)
      let w := lrum (mod .f32)
      admitsAll c [.fadd q, .fsub q, .fmul q, .fdiv q, .fmin q, .fmax q, .faddModw r, .fsubModw r, .fmulModw r, .fdivModw r, .fminModw r,
        .fmaxModw r, .ffma (lrm { mod .f64 with c := 24 }), .frnd u, .fsqrt u, .fclass u, .frcp u, .frsq u, .fexp2 u, .flog2 u, .fsin u,
        .fcos u, .frndModw w, .fsqrtModw w, .fclassModw w, .frcpModw w, .frsqModw w, .fexp2Modw w, .flog2Modw w, .fsinModw w, .fcosModw w]
      && Spec.quiet c (c.active noG) (fun _ => (Fmt.f32.div .rn false 0 0).exc)
      && agreesAt c .f32 1 (Spec.shortSrcs q) add32 (Spec.twoAdds .f32))) = true := by decide +kernel

-- R107: 0 by 0, an enabled exception.
theorem witness_FloatTraps : has (warpOf enabling) (fun c => c.mapped (c.active noG) [1, 2] && demo.upset.isNone && c.w.enables == 0x1F
    && admitsAll c [.fdiv ⟨3, 1, 2, noG, false, true⟩, .fdivModw (lrm (mod .f64))]
    && !Spec.quiet c (c.active noG) fun k => (Fmt.f32.div .rn false (c.word 1 false k).toNat (c.word 2 false k).toNat).exc) = true := by
  decide +kernel

-- R126, R127: 0.9995 times 1.0039 * 2^-14 is normal, and the product of the cut operands is flushed.
theorem witness_FloatChecks : has (warpOf flushing (two 0x3BFF3BFF 0x04040404)) (fun c => let r : LrM := ⟨3, 1, 2, noG, false, mod .f16⟩
    demo.upset.isNone && c.admits (.fmulModw r) && c.mapped (c.active noG) [1, 2]
    && !agreesAt c .f16 2 (Spec.modSrcs r) mul16 Spec.noAdds && Spec.ftz c .f16) = true := by decide +kernel

theorem witness_FloatCompareResults : has demo (fun c => c.mapped (c.active noG) [1, 2, 16, 17, 24, 25]
    && admitsAll c [.fcmp .eq 1 ⟨1, 2, noG, false, true⟩, .fcmpModw .un 7 ⟨16, 24, noG, false, mod .f64⟩]
    && Spec.quiet c (c.active noG) fun _ => (Fmt.f32.cmp .eq 0 0).2)
    && has (warpOf enabling (two 0x7F800001 0)) (fun c => c.mapped (c.active noG) [1, 2] && c.admits (.fcmp .eq 1 ⟨1, 2, noG, false, true⟩)
      && !Spec.quiet c (c.active noG) fun k => (Fmt.f32.cmp .eq (c.word 1 false k).toNat (c.word 2 false k).toNat).2) = true := by decide +kernel

theorem witness_ConvertAndPackResults :
    (let conv (c : Ctx) : Bool := agreeB (c.active noG) 1 (fun k j => (Spec.cvt c (mod .f32) .f16 false false (c.dbl 1 false false k) j).bits)
      (Spec.cvtShadow c (mod .f32) .f16 false false ∘ c.dbl 1 false false)
    has demo (fun c => c.mapped (c.active noG) [1, 2, 16, 17, 24, 25] && demo.upset.isNone && conv c
      && admitsAll c [.cvt (lrm (mod .f32)) .bf16, .cvt ⟨8, 16, 0, noG, false, mod .f64⟩ .n64, .cvt ⟨8, 16, 1, noG, false, mod .f16⟩ .f32,
        .pkf8 (lrm (mod .f32)) .e4, .upf8 ⟨8, 16, 0, noG, false, mod .bf16⟩ .e5]
      && Spec.quiet c (c.active noG) fun _ => (Spec.cvt c (mod .f32) .bf16 false false 0 0).exc)
    && has (warpOf flushing (two 0x387FFFFF 0x387FFFFF)) (fun c => !conv c && c.admits (.cvt ⟨3, 1, 2, noG, false, mod .f32⟩ .f16))
    -- A signalling NaN with every exception enabled, and a second source poisoned where the first is clean.
    && has (warpOf enabling (two 0x7F800001 0)) (fun c => conv c && c.admits (.cvt ⟨3, 1, 2, noG, false, mod .f32⟩ .f16)
      && c.admits (.pkf8 ⟨6, 0, 2, noG, false, mod .f32⟩ .e4)
      && !Spec.quiet c (c.active noG) fun k => (Spec.cvt c (mod .f32) .f16 false false (c.dbl 1 false false k) 0).exc)
    && has (blockOf (fun b => b.putRow 2 ⟨Vector.replicate 32 0, 1, 1⟩) (two 0x3F800000 0)) (fun c => conv c
      && c.badDbl 1 false false == 0 && c.badDbl 2 false false == 1 && c.admits (.cvt ⟨3, 1, 2, noG, false, mod .f32⟩ .f16)))
    = true := by decide +kernel

theorem witness_MoveAndPredicateResults :
    has demo (fun c => c.mapped (c.active noG) [1, 2] && c.active noG != 0 && c.active ⟨0, true⟩ == 0 && c.w.stack.length != 16
      && c.w.pbad 1 &&& c.w.m &&& c.w.liveMask == 0
      && admitsAll c [.movi 3 0x100 noG, .moviLong 3 noG 7, .splat 3 63 noG, .laneid 3 noG, .shfl .dn ⟨3, 1, 2, noG, false⟩, .ballot ⟨3, 1, noG⟩,
        .bcast false ⟨3, 1, 31, noG, false⟩, .bcast true ⟨3, 1, 31, noG, false⟩, .bcast true ⟨3, 1, 31, ⟨0, true⟩, false⟩,
        .vote .eq ⟨1, 2, noG⟩, .plop 1 2 3 4 0xFF noG, .split 1])
    && has (warpOf fun w => { w with stack := [(1, 2)] }) (fun c => c.w.stack == [(1, 2)] && admitsAll c [.flip, .join])
    && has (warpOf fun w => { w with stack := List.replicate 16 (1, 2) }) (fun c => c.w.stack.length == 16 && c.admits (.split 1))
    && has (warpOf fun w => w.pput 1 0xFFFFFFFF 0 0x80000000) (fun c => c.w.stack.isEmpty && c.admits (.split 1)
      && c.w.pbad 1 &&& c.w.m &&& c.w.liveMask != 0 && admitsAll c [.flip, .join]) = true := by
  decide +kernel

theorem witness_MapAndHandoffResults :
    has demo (fun c => admitsAll c [.aliasName 1 2, .aliasName 2 2, .drop 1, .swapn 1 2, .mapq 1 2, .give 1 3, .givex 1 3, .take 1 3]
      && c.w.vmap 2 == some 2 && !c.w.sbad 3 && (c.b.slot 0).isNone && (c.w.vmap 1).isSome)
    && has (blockOf fun b => (b.putRow 90 ⟨Vector.replicate 32 0, 0, 1⟩).setSlot 15 (some 90)) (fun c => (c.b.slot 15).isSome
      && admitsAll c [.give 1 3, .take 1 3])
    -- v2 unmapped: the first name that an instruction of each shape reads in vain.
    && has (warpOf fun w => w.setVmap 2 none) (fun c => c.active noG != 0 && (c.w.vmap 2).isNone && !c.w.sbad 3
      && admitsAll c [.aliasName 1 2, .give 2 3, .givex 2 3]
      && ([.iadd ⟨3, 1, 2, noG, false⟩, .iaddModw ⟨4, 8, 2, noG, false, mod .s64⟩, .imad ⟨4, 8, 10, noG, false, { mod .s64 with c := 2 }⟩,
        .dp4 ⟨3, 1, 4, noG, false, { mod .s8 with c := 2 }⟩, .packi ⟨3, 0, 2, noG, false, mod .n8⟩, .mov ⟨3, 2, noG⟩,
        .fsqrtModw ⟨4, 2, noG, mod .f64⟩, .iaddImm 3 2 5 noG, .icmp .eq 1 ⟨2, 1, noG, false⟩, .fadd ⟨3, 2, 1, noG, false, true⟩,
        .cvt ⟨3, 1, 2, noG, false, mod .f32⟩ .f16, .pkf8 ⟨6, 2, 4, noG, false, mod .f32⟩ .e4, .unpki ⟨8, 2, 0, noG, false, mod .n8⟩,
        .bcast false ⟨3, 2, 31, noG, false⟩] : List Instr).all fun i =>
          c.admits i && i.guard == noG && (Spec.reads i).find? (fun k => (c.w.vmap k).isNone) == some 2) = true := by decide +kernel

theorem witness_UniformResults : has demo (fun c => c.w.pbad 7 == 0 && admitsAll c [.sadd 1 2 3, .ssub 1 2 3, .smul 1 2 3, .smulhS32 1 2 3,
    .smulhN32 1 2 3, .sand 1 2 3, .sor 1 2 3, .sxor 1 2 3, .sshl 1 2 3, .sshr 1 2 3, .ssra 1 2 3, .sminS32 1 2 3, .sminN32 1 2 3,
    .smaxS32 1 2 3, .smaxN32 1 2 3, .scmp .geN 1 2 3, .saddImm 1 2 0x1000, .smulImm 1 2 5, .sandImm 1 2 5, .sorImm 1 2 5, .sxorImm 1 2 5,
    .sshlImm 1 2 31, .sshrImm 1 2 31, .ssraImm 1 2 31, .sminS32Imm 1 2 0x400, .sminN32Imm 1 2 5, .smaxS32Imm 1 2 5, .smaxN32Imm 1 2 5,
    .scmpImm .eq 1 2 0x100, .smovi 1 0x1000, .smoviLong 1 5, .ssel 7 1 2 3]) = true := by decide +kernel

theorem witness_ControlAndExitResults :
    has (warpOf (setS [(1, 1), (2, 4), (3, 6), (63, 8)])) (fun c => admitsAll c [.bra 0x100000, .brc .z 1 0, .brc .all 1 0x4000,
        .loopn 1 3, .loopn 2 3, .call 1, .nop, .jmpi 2, .jmpi 3, .ret, .exit] && Spec.branchClean c .nz 1 && Spec.branchClean c .any 1
      && !c.w.sbad 1 && c.w.sget 1 == 1 && c.w.sget 2 != 1 && (c.w.sget 2).toNat % 4 == 0 && (c.w.sget 3).toNat % 4 != 0
      && c.w.m &&& c.w.liveMask != 0 && c.w.launched &&& ~~~(c.w.exited ||| (c.w.m &&& c.w.liveMask)) == 0 && c.w.ops.isEmpty
      && !c.holdsPoison)
    -- A final EXIT with an operation outstanding, with a fault held behind a complete operation and before one kept back, with poison.
    && ([fun w => { w with ops := [pend .pkt] },
        fun w => { w with ops := [{ pend .cpy with seq := 7, st := .done }, { pend .cpy with seq := 8, st := .faulted ⟨4, 0, 16⟩ },
          { pend .cpy with st := .withheld ⟨1, 0, 0⟩ }] },
        fun w => { w with ops := [{ pend .pkt with st := .done }] }.sput 5 0 true] : List (Warp → Warp)).all (fun f => has (warpOf f) fun c =>
      c.admits .exit && c.w.m &&& c.w.liveMask != 0 && c.w.launched &&& ~~~(c.w.exited ||| (c.w.m &&& c.w.liveMask)) == 0
      && (c.w.ops.length == 3 || c.w.ops.all (fun o => o.st == .pending) || c.w.ops.all (fun o => o.st == .done) && c.holdsPoison))
    && has (warpOf fun w => { w with m := 0 }) (fun c => c.w.m &&& c.w.liveMask == 0 && c.admits .exit)
    && has (warpOf fun w => { w with m := 1 }) (fun c => c.w.launched &&& ~~~(c.w.exited ||| (c.w.m &&& c.w.liveMask)) != 0
      && c.admits .exit) = true := by decide +kernel

theorem witness_PoisonedBranchesAreChecked :
    has (warpOf fun w => (((w.sput 5 4 true).sput 63 4 true).pput 2 0xFFFFFFFF 0 1)) (fun c => admitsAll c [.brc .neg 5 0, .brc .noneOf 2 0,
      .jmpi 5, .ret, .loopn 5 3] && !Spec.branchClean c .neg 5 && !Spec.branchClean c .noneOf 2 && c.w.sbad 5 && c.w.sbad 63) = true := by
  decide +kernel

theorem witness_LaneMemoryResults : has memDemo (fun c => c.mapped (c.active noG) [2, 4, 5, 6, 7] && (let r : LmA := ⟨4, 1, 2, noG⟩
    Spec.reaches c r 16 && Spec.present c r 16 && c.free .rlx .device true && c.free .acq .domain true && c.free .rlx .device && Spec.promoted memDemo true .core
    && c.w.st == .ready && admitsAll c [.ld r .b128, .ldLong r ⟨true, .core, .acq, .b128⟩, .st r .b128, .stLong r ⟨.domain, .rel, .b128⟩]))
    = true := by decide +kernel

theorem witness_AtomicResults : has memDemo (fun c => c.mapped (c.active noG) [2, 4, 5, 6, 7] && (let r : LmA := ⟨4, 1, 2, noG⟩
    Spec.reaches c r 8 && c.free .acqrel .device && memDemo.upset.isNone && c.w.st == .ready && Spec.promoted memDemo false .device
    && c.admits (.atom r ⟨6, .cas, false, .device, .acqrel, true⟩))) = true := by decide +kernel

/-- The first failing check of a lane access, for a state. -/
def checks (s : State) (p : Ctx → LmA → Bool) : Bool := has s fun c =>
  let r : LmA := ⟨4, 1, 2, noG⟩
  p c r && c.active noG != 0 && admitsAll c [.ld r .b64, .ldLong r ⟨true, .core, .acq, .b64⟩, .st r .b64, .stLong r ⟨.domain, .rel, .b64⟩,
    .atom r ⟨6, .cas, false, .device, .acqrel, true⟩]
/-- An access of 8 bytes from s1 at 8 times the lane, the last lane 4 more. -/
def edge (base : Word) (extra : Word) : State := warpOf (setS [(1, base)])
  (blockOf (setV 2 fun i => BitVec.ofNat 32 (8 * i) + if i = 31 then extra else 0))

theorem witness_LaneAccessChecks :
    (let ns : List Name := srcNames 4 false true ++ [2] ++ srcNames 6 false true
    checks (warpOf (fun w => w.setVmap 2 none)) (fun c _ => ns.find? (fun k => (c.w.vmap k).isNone) == some 2)
    && checks (warpOf fun w => w.sput 1 0 true) (fun c r => c.mapped (c.active noG) ns && c.w.sbad r.s)
    && checks (edge 0xF00 4) (fun c r => c.mapped (c.active noG) ns && !c.w.sbad r.s && c.vbad r.v == 0
      && Spec.lanesWith c r (fun k => (Spec.addr c r k).toNat % 8 != 0) == 0x80000000)
    && checks (edge 0xF00 8) (fun c r => Spec.lanesWith c r (fun k => (Spec.addr c r k).toNat % 8 != 0) == 0
      && Spec.lanesWith c r (fun k => (c.resolve (Spec.addr c r k) 8).isNone) == 0x80000000 && c.vbad r.v == 0 && !c.w.sbad r.s)
    && checks (edge 0xF00 0) (fun c r => Spec.reaches c r 8)
    && checks (blockOf fun b => b.putRow 2 ⟨Vector.replicate 32 0, 1, 1⟩) (fun c r => !c.w.sbad r.s && c.vbad r.v &&& c.active noG != 0))
    = true := by decide +kernel

theorem witness_SpillAndUniformMemoryResults :
    has (blockOf fun b => { b with kern := { b.kern with q := 64 } }) (fun c => admitsAll c [.spill 1 63, .fill 1 63] && (c.row? 1).isSome
      && c.free .rlx .core && c.present ⟨c.b.key, Spec.slotOff c 63⟩ 128)
    && has demo (fun c => admitsAll c [.spill 1 0, .fill 1 0] && c.b.kern.q == 0)
    && has (warpOf fun w => w.setVmap 1 none) (fun c => c.admits (.spill 1 0) && (c.row? 1).isNone)
    && has (launchOf (fun l => { l with rcd := some demoRec }) (warpOf (setS [(1, 0xFFC), (2, 0x1000), (3, 2)]))) (fun c =>
      admitsAll c [.sld 5 1 0, .sst 5 1 0, .sld 5 2 0, .sst 5 3 0, .sldk 5 15] && (c.resolve 0xFFC 4).isSome && (c.resolve 0x1000 4).isNone
      && c.present ⟨c.b.key, 0xFFC⟩ 4 && !c.w.sbad 1 && !c.w.sbad 5 && c.b.kind == .kernel)
    -- The count is the one byte at 0x062: 0 with the byte after it 1, and 1 with the byte after it 0.
    && ([([0, 1], 0), ([1, 0], 1)] : List (List Byte × Nat)).all (fun x => has (blockOf (setM 0x62 x.1) passDemo) fun c =>
      c.admits (.sldk 5 0) && c.b.kind == .prologue && leNat (c.b.scr.get 0x062 1) == x.2) = true := by decide +kernel

/-- A packet's operands pass the checks of R184. -/
def pkOk (c : Ctx) (f s : Name) (sig : Bool) (width n : Nat) (loc : ScrLoc) (bar : Option ScrLoc) : Bool :=
  @decide (Spec.packetOk c f s sig width n loc bar) (by delta Spec.packetOk; infer_instance)
/-- A packet goes at once. -/
def pkGoes (c : Ctx) (tag : BitVec 3) (sem : Sem) (scope : Scope) (read : Bool) (s : Name) (n : Nat) : Bool :=
  @decide (Spec.packetGoes c tag sem scope read s n) (by delta Spec.packetGoes; infer_instance)
/-- A relaxed packet of tag 3. -/
def pk (z : PkSize) (f s : Name) (sig : Bool) : PkOp := ⟨f, s, 3, false, .device, .rlx, sig, z⟩
/-- The place of the demo block's scratchpad. -/
def locOf (off : Nat) : ScrLoc := ⟨⟨1, 0, 0⟩, off⟩

theorem witness_PacketResults :
    has (warpOf (setS [(4, 0x40), (5, 0x80), (8, 0x1000)])) (fun c =>
      let a : PkAtomOp := ⟨4, 8, true, 3, .cluster, .acqrel, .add⟩
      let loc := locOf 0x40
      c.admits (.pkrd (pk .b512 4 8 true)) && c.admits (.pkwr (pk .b128 4 8 false)) && c.admits (.pkatom a)
      && pkOk c 4 8 true 64 64 loc (some (locOf 0x80)) && pkOk c 4 8 false 16 16 loc none && pkOk c 4 8 false 8 16 loc none
      && pkGoes c 3 .rlx .device true 8 64 && pkGoes c 3 .rlx .device false 8 16 && pkGoes c 3 .acqrel .cluster false 8 8 && c.canPend (linesAt loc 64) && c.canPend (linesAt loc 8)
      && c.present loc 64 && !c.getBad loc 64 && c.present loc 16 && !c.getBad loc 16 && c.admits (.pkwait 0xFF)
      && c.w.ops.isEmpty)
    && has (warpOf fun w => { w with ops := [pend .pkt] }) (fun c => c.admits (.pkwait 1)
      && c.w.ops.any fun o => o.cls == .pkt && (1#8).getLsbD o.tag.toNat && o.st == .pending)
    && has (warpOf (setS [(4, 0x41), (8, 0x1008), (6, 0x40), (7, 0x88), (10, 0x1000), (12, 0x1000), (13, 0x80), (14, 0xFF0),
        (15, 0x1000)])) (fun c =>
      ([(4, 8), (4, 10), (6, 10), (12, 10), (14, 10)] : List (Name × Name)).all (fun x => c.admits (.pkrd (pk .b128 x.1 x.2 true))
        && !c.w.sbad x.1 && !c.w.sbad x.2)
      && (c.w.sget 9 ++ c.w.sget 8).toNat % 16 != 0
      && (c.w.sget 11 ++ c.w.sget 10).toNat % 16 == 0 && (c.w.sget 4).toNat % 16 != 0
      && (c.w.sget 6).toNat % 16 == 0 && (c.w.sget 7).toNat % 16 != 0
      && (c.w.sget 12).toNat % 16 == 0 && (c.w.sget 13).toNat % 16 == 0 && c.resolve (c.w.sget 12) 16 == none
      && c.resolve (c.w.sget 14) 16 == some (locOf 0xFF0) && c.resolve (c.w.sget 15) 16 == none) = true := by decide +kernel

theorem witness_CopyResults :
    has (warpOf (setS [(4, 0), (5, 8), (6, 0x80000000), (7, 0x7FFFFFF0)])) (fun c => c.admits (.copy 4) && c.admits (.copy 5)
      && c.admits (.copy 6) && !c.w.sbad 4 && c.w.count .cpy == 0 && !c.acqPending && (c.w.sget 4).toNat % 16 == 0
      && (match c.readChain 0 (Instr.copy 4).firstWord 64 0 [] with | .ok ch => c.canPend ((c.copyLines ch).map (·.1)) | _ => false)
      && (c.w.sget 5).toNat % 16 == 8 && (c.w.sget 6).toNat == 2 ^ 31 && (c.w.sget 7).toNat < 2 ^ 31) = true := by decide +kernel

/-- The object at the address an s-name holds is as the barrier instructions need it. -/
def objOk (c : Ctx) (f : Name) (l : ScrLoc) : Bool := !c.w.sbad f && (c.w.sget f).toNat % 16 == 0
  && c.resolve (c.w.sget f) 16 == some l && (match c.s.block? l.blk with | some b => b.scr.bytes.wf | none => false)

theorem witness_BarrierResults :
    has (warpOf (setS [(4, 0xFF0), (5, 0x02000100)])) (fun c => objOk c 4 (locOf 0xFF0) && !c.w.sbad 5
      && c.admits (.barinit 4 5) && c.free .rlx .core && c.admits (.bararv 4) && c.free .rel .cluster && c.admits (.barexp 4 5)
      && c.admits (.barwt 4 true) && c.admits (.barwt 4 false) && c.free .rlx .cluster && c.w.st == .ready
      && Spec.objectAt c.s (locOf 0xFF0) 12 1 == 0 && c.w.ops.isEmpty)
    && has (warpOf (setS [(4, 0xFF0)]) (blockOf (setM 0xFFC [1]))) (fun c => objOk c 4 (locOf 0xFF0) && c.admits (.barwt 4 true)
      && c.free .rlx .cluster && Spec.objectAt c.s (locOf 0xFF0) 12 1 % 2 == 1) = true := by decide +kernel

theorem witness_WaitAndFenceResults :
    has (warpOf fun w => { w with mtxOps := [8, 7], late := [(8, 0x40), (7, 0x20)] }) (fun c => c.admits (.waitc .mtx 1)
      && c.w.ops.isEmpty && c.w.late == [(8, 0x40), (7, 0x20)])
    &&
    has demo (fun c => c.admits (.waitc .pkt 0) && c.admits (.fence false .domain) && c.admits (.fence true .device) && c.w.ops.isEmpty
      && c.s.reqs.isEmpty)
    && has (warpOf fun w => { w with ops := [pend .mtx, pend .cpy, pend .mtx] }) (fun c => c.admits (.waitc .mtx 1)
      && ((c.w.ops.filter fun o => o.cls == .mtx).take 1).any fun o => o.st == .pending)
    && has (warpOf fun w => { w with ops := [{ pend .cpy with seq := 8, st := .withheld ⟨4, 0, 0⟩ }, { pend .cpy with st := .faulted ⟨1, 0, 0⟩ }] })
      (fun c => c.admits (.waitc .cpy 1) && (((c.w.ops.filter fun o => o.cls == .cpy).take 1).any fun o => o.st == .withheld ⟨4, 0, 0⟩)
        && c.w.ops.all fun o => o.seq != 8 || o.st == .withheld ⟨4, 0, 0⟩) = true := by decide +kernel

/-- The engine has a holder. -/
def held (h : Option Nat) (f : Block → Block := id) : State := blockOf fun b => { f b with holder := h }

theorem witness_MatrixOwnershipResults :
    has demo (fun c => c.w.converged && c.b.holder == none && c.admits (.macq 1) && c.admits (.macqWait 0) && c.admits .mrel
      && c.admits (.mpass 3) && c.b.holder != some c.w.num)
    && has (held (some 1)) (fun c => c.w.converged && c.b.holder != none && c.b.holder != some c.w.num && c.admits (.macq 1)
      && c.admits (.macqWait 0))
    && has (held (some 0) fun b => { b with warps := b.warps.map (setS [(3, 16), (4, 15)]) }) (fun c => c.w.converged
      && c.b.holder == some c.w.num && c.admits .mrel && c.admits (.mpass 3) && !c.w.sbad 3 && (c.w.sget 3).toNat % 16 == 0
      && (c.b.warps.any fun w => w.num == 0 && !w.ended) && (c.w.sget 4).toNat % 16 == 15 && c.b.warps.all fun w => w.num != 15)
    && has (warpOf fun w => { w with m := 1 }) (fun c => !c.w.converged && c.admits (.macq 1) && c.admits (.macqWait 0)
      && c.admits .mrel && c.admits (.mpass 3)) = true := by decide +kernel

theorem witness_MatrixAndPhaseNeedConvergence :
    has (blockOf (fun b => { b with kern := { b.kern with carry := [0, 0] } }) (warpOf fun w => { w with m := 1 })) (fun c => !c.w.converged
      && admitsAll c [.macq 1, .macqWait 1, .mrel, .mpass 1, .obres 0 1 2, .obrel 7, .cbld 1 2, .scld 1 2 3, .azero 0 15,
        .mma .bf16 false 0 0 16, .ald 0 1 2 3, .ast 0 1 2 3, .mtile .bf16 0 0 16, .phase 1]
      && c.w.ctr == 0 && c.w.st == .ready && decide ((1#8).toNat < c.b.kern.carry.length)) = true := by decide +kernel

/-- A record of OBRES keeps the limits. -/
def recOk (a b : Word) : Bool := @decide (Spec.recordOk a b) (by delta Spec.recordOk; infer_instance)

theorem witness_ReservationResults :
    recOk 0x00FF00 0 && recOk 0x0000FF 0x77000095 && !recOk 0x0101FF 0
    && has (blockOf (fun b => { b with ob := { b.ob with resv := b.ob.resv.set 1 (some ⟨0x10, 5⟩) } })
        (warpOf (setS [(4, 0xEE11), (5, 0x10000002), (6, 0x40), (7, 0x00000010), (8, 0x40)]))) (fun c => c.w.converged
      && c.admits (.obres 0 4 9) && !c.w.sbad 4 && recOk (c.w.sget 4 &&& 0xFFFF) 0 && (c.b.ob.resv? 0).isNone
      && (Spec.range ⟨c.w.sget 4, 0⟩).1 == 0x1100 && (Spec.range ⟨0x10, 5⟩) == (0x1000, 0x100)
      && c.admits (.obrel 7) && c.admits (.cbld 1 8) && c.b.ob.resv? 1 == some ⟨0x10, 5⟩ && Spec.field 5 0 4 == 5
      && c.resolve 0x40 32 == some (locOf 0x40) && c.present (locOf 0x40) 32 && c.free .rlx .core && c.admits (.scld 1 8 7)
      && Spec.field 0x10 0 13 == 16 && 16 * (0 + 16) ≤ (Spec.range ⟨0x10, 5⟩).2 && c.resolve 0x40 256 == some (locOf 0x40)
      && c.present (locOf 0x40) 256 && c.b.ob.mem.wf) = true := by decide +kernel

/-- A start from scratchpad passes its checks. -/
def startOkB (c : Ctx) (fmt : FmtPair) (f sn : Name) (mma : Bool) (d : AName) : Bool :=
  @decide (Spec.startOk c fmt f sn mma d) (by delta Spec.startOk; infer_instance)
/-- A warp that holds the engine, with operand words in s4 to s7 and shapes in s8 (one tile), s9 (2 by 2, K 64) and s10 (16). -/
def mtxDemo (f : Warp → Warp := id) : State := held (some 0) fun b => { b with warps := b.warps.map (fun w =>
  f (setS [(4, 0), (5, 0x20), (6, 0x200), (7, 0x20), (8, 16), (9, 0x00050000 + 64)] w)) }

theorem witness_MatrixStepResults :
    has mtxDemo (fun c => c.w.converged && c.b.holder == some c.w.num && decide (c.b.steps.length < 4) && !c.acqPending
      && decide (c.b.tiles.length < 48) && c.admits (.mma .bf16 false 3 4 20) && c.w.count .mtx == 0
      && ((List.range 12).all fun j => (c.w.vmap (4 + BitVec.ofNat 6 j)).isSome && (c.w.vmap (20 + BitVec.ofNat 6 j)).isSome)
      && c.admits (.mma .bf16 true 3 4 8) && startOkB c .bf16 4 8 true 3
      && c.admits (.mtile .bf16 0 4 9) && c.w.st == .ready && c.w.ctr == 0 && startOkB c .bf16 4 9 false 0
      && decide (1 < (c.geom .bf16 4 9).total) && startOkB c .bf16 4 8 false 0 && (c.geom .bf16 4 8).total == 1
      && decide (c.b.tiles.length + 16 ≤ 48))
    && has (mtxDemo fun w => { w with st := .mtile 5, ctr := 1 }) (fun c => c.admits (.mtile .bf16 0 4 9) && c.w.st == .mtile 5
      && decide (c.w.ctr + 1 < (c.geom .bf16 4 9).total) && decide ((c.geom .bf16 4 8).total ≤ c.w.ctr + 1)) = true := by decide +kernel

theorem witness_AccumulatorResults :
    has (warpOf (setS [(4, 0x100), (5, 64)])) (fun c => c.w.converged && !c.w.sbad 4 && !c.w.sbad 5
      && c.admits (.azero 2 3) && c.b.tiles.isEmpty && c.admits (.ald 15 15 4 5) && c.admits (.ast 2 2 4 5)
      && Spec.field 64 0 2 == 0 && Spec.field 64 18 14 == 0 && (c.w.sget 4).toNat % 4 == 0 && c.w.count .mtx == 0
      && ((List.range 256).all fun e => match c.resolve (0x100 + BitVec.ofNat 32 ((e / 16) * 64 + 4 * (e % 16))) 4 with
        | some l => c.present l 4 && decide ((c.scr l.blk).pendOf (l.off / 64) < 15) && l.blk == c.b.key | none => false)
      && c.free .rlx .core)
    && has (blockOf (fun b => { b with tiles := [⟨7, Vector.replicate 256 0, 0⟩] })
        (warpOf fun w => { w with acc := w.acc.set 2 ⟨some 7, true⟩ })) (fun c => (c.w.aget 2).tile == some 7 && (c.b.tile? 7).isSome
      && !c.b.writesTile 7 && c.s.upset.isNone && c.w.converged && c.admits (.ast 2 2 4 5)
      && admitsAll c [.amovv ⟨8, 2, 1, false, .rn, false, .f32⟩, .amovv ⟨8, 2, 1, true, .rn, false, .bf16⟩] && Spec.quiet c 0xFFFFFFFF#32 fun l =>
        ((List.range 8).flatMap fun m => Spec.moved .f32 m l).foldl
          (fun x _ => x ||| (amovElem ⟨8, 2, 1, false, .rn, false, .f32⟩ c.w.ftz 0 0).exc) 0)
    -- 2^-14 less a unit, which the cut operand's flushed half differs from.
    && has (blockOf (fun b => { b with tiles := [⟨7, Vector.replicate 256 0x387FFFFF, 0⟩] })
        (warpOf fun w => setS [(1, 0x3F800000)] { flushing w with acc := w.acc.set 2 ⟨some 7, true⟩ })) (fun c =>
      let r : AmovOp := ⟨8, 2, 1, false, .rn, false, .f16⟩
      c.w.converged && c.admits (.amovv r) && (c.w.aget 2).tile == some 7 && !c.b.writesTile 7 && c.s.upset.isNone
      && (amovShadow r c.w.ftz 0x387FFFFF (c.w.sget 1)).differs (amovElem r c.w.ftz 0x387FFFFF (c.w.sget 1)).bits) = true := by decide +kernel

theorem witness_SpecialRegisterResults :
    has demo (fun c => c.b.kind == .kernel && !c.w.sbad 8 && admitsAll c [.srd 8 .caps, .srd 63 .timeh, .swr 8 .flg, .swr 8 .tpc, .time 8,
      .tickNow 8, .tick 8] && (Instr.swr 8 .time).wf && (Instr.swr 8 .dlineh).wf)
    && has passDemo (fun c => c.b.kind == .prologue && c.admits (.time 8)) = true := by decide +kernel

theorem witness_TrapInstructionResults :
    has demo (fun c => admitsAll c [.trap 63, .trap 0, .tretRetry, .tretSkip, .brk] && !c.w.depth && !c.b.debug)
    && has (warpOf fun w => { w with tcause := 0x10106, tpc := 0x40 }) (fun c => c.w.depth && !c.w.tcause.getLsbD 9
      && c.w.tpc.toNat % 4 == 0 && admitsAll c [.tretRetry, .tretSkip])
    && has (warpOf fun w => { w with tcause := 0x10101, tpc := 0x40 }) (fun c => c.w.depth && !c.w.tcause.getLsbD 9
      && c.admits .tretSkip && c.w.tcause.toNat % 256 == 1)
    && has (blockOf fun b => { b with debug := true }) (fun c => c.b.debug && !c.w.stepOne && c.admits .brk)
    && has (blockOf (fun b => { b with debug := true }) (warpOf fun w => { w with stepOne := true })) (fun c => c.b.debug && c.w.stepOne
      && c.admits .brk) = true := by decide +kernel

theorem witness_TrapEntryEffects :
    has handled (fun c => c.b.kind == .kernel && !c.w.depth && !c.debugStops .misaligned && c.b.kern.trap == some 0x40) = true := by decide +kernel

theorem witness_SecondErrorsEndTheGang :
    (let l? (c : Ctx) : Bool := match c.s.launch? c.b.key.lid with | some l => (l.gang? c.b.key.gang).isSome | none => false
    has (warpOf fun w => { w with tcause := 0x10000 }) (fun c => c.b.kind == .kernel && c.w.depth && l? c)
    && has demo (fun c => c.b.kind == .kernel && !c.debugStops .brk && c.b.kern.trap.isNone && l? c)) = true := by decide +kernel

/-- One partition of all stacks whose firmware identifier 1 maps the first 2 MiB of stack 0 at its frame 32, writable. -/
def paged (s : State := demo) : State :=
  let d := s.dies[0]
  { s with
    boot := 5
    parts := [⟨0, 8, 1, 0, 1, Vector.replicate 4 256, 0x200⟩]
    dies := s.dies.set 0 { d with tlb := [⟨1, 0, 32, 0x0000000200000007⟩] }
    blocks := s.blocks.map fun b => { b with asid := some 1 } }
/-- The address in DRAM of a virtual address below 2 MiB. -/
def phys (a : Nat) : Nat := 0x200000 + a
/-- A state whose identifier 1 has a root entry and tables down to the 2 MiB page 0, unmapped, and the pages of the second
2 MiB, whose first frame is 64. -/
def walked : State :=
  let s : State := { paged with dies := demo.dies.set 0 { demo.dies[0] with root := [(1, 0x10001)] } }
  s.writeEntries 0 [(0x10000, 0x20001), (0x20000, 0x21001), (0x21008, 0x22001), (0x22000, 0x400000007)]

theorem witness_BarrierAndPhaseResults :
    has demo (fun c => c.admits (.barb 15) && c.w.st == .ready && c.free .rel .cluster && c.b.warps.length == 1)
    && has twoWarps (fun c => c.admits (.barb 15) && c.w.st == .ready && c.free .rel .cluster && c.w.num == 0
      && c.b.warps.any fun w => w.num == 1 && !w.ended && w.st == .ready)
    && (let k (f : Block → Block) : State := blockOf (fun b => f { b with kern := { b.kern with carry := [0, 0xFF] } })
      has (k fun b => { b with warps := b.warps ++ b.warps.map fun w => { w with num := 1, st := .phase 0 } }) (fun c =>
        c.admits (.phase 1) && c.w.st == .ready && c.b.kern.carry.length == 2 && c.w.converged && !c.w.depth && c.w.ops.isEmpty
        && decide (c.b.warps.map fun w => w.num).Nodup && (c.s.gatherOf c.b.cluster).isNone)
      && has (k fun b => { b with warps := b.warps ++ b.warps.map fun w => { w with num := 1 } }) (fun c => c.admits (.phase 1)
        && c.w.converged && !c.w.depth && c.w.num == 0 && c.b.warps.any fun w => !w.ended && w.num == 1 && w.st == .ready)
      && has (k fun b => { b with warps := b.warps.map fun w => { w with ops := [pend .qry] } }) (fun c => c.admits (.phase 0)
        && c.w.converged && !c.w.depth && c.w.ops.any fun o => o.st == .pending)
      && has (k id) (fun c => c.admits (.phase 2) && c.b.kern.carry.length == 2)
      && has (k fun b => { b with warps := b.warps.map fun w => { w with m := 1 } }) (fun c => c.admits (.phase 1) && !c.w.converged)
      && has (k fun b => { b with warps := b.warps.map fun w => { w with tcause := 0x10000 } }) (fun c => c.admits (.phase 1)
        && c.w.depth)) = true := by decide +kernel

/-- A schedule without operations, loaded on die 0. -/
def sched7 : Sched := ⟨7, 0, 1, 0, 100, 100, 1, [], [], [], 0⟩
/-- The engine of die 0 changed. -/
def engineOf (f : TwEngine → TwEngine) (s : State := paged) : State := { s with engines := s.engines.set 0 (f s.engines[0]) }
/-- A job 5 of partition 0. -/
def job5 : Job := ⟨0, 5, 1, 0, 3, false, [], 0⟩

theorem witness_WorkAndCancelResults :
    has (paged (launchOf (fun l => { l with rcd := some { demoRec with flagAddr := 0x100, nflags := 1 } })
        (warpOf (setS [(4, 0xFFC), (5, 0xFF0), (6, 0x10000)])))) (fun c => !c.acqPending && c.admits (.getwork true 4) && !c.w.sbad 4
      && !c.w.sbad 5 && (c.w.sget 4).toNat % 4 == 0 && c.resolve (c.w.sget 4) 4 == some (locOf 0xFFC)
      && c.resolve (c.w.sget 5) 16 == some (locOf 0xFF0) && (c.w.sget 5).toNat % 16 == 0 && c.w.count .qry == 0
      && c.canPend (linesAt (locOf 0xFFC) 4) && c.admits (.getwork false 4)
      && c.admits (.valid 8) && !c.w.sbad 8 && (match c.s.launch? c.b.key.lid with
        | some l => l.rcd.isSome && (c.s.setFlagBit l (c.w.sget 8).toNat).2 | none => false) && c.pendingReqs.isEmpty
      && c.admits (.lcntLaunch 8) && c.b.kind == .kernel)
    && has passDemo (fun c => c.admits (.lcntLaunch 8) && c.b.kind == .prologue)
    && has (launchOf (fun l => { l with job := some 5 }) { demo with jobs := [job5] }) (fun c => c.admits (.lcntJob 8)
      && c.admits .cancelJob && (match c.s.launch? c.b.key.lid with | some l => l.job == some 5 && (c.s.job? c.b.part 5).isSome | none => false))
    && has (engineOf (fun e => { e with scheds := [sched7] }) (warpOf (setS [(4, 7), (5, 8)]))) (fun c => c.admits (.coll 4 8)
      && c.admits (.coll 5 8) && !c.w.sbad 4 && !c.w.sbad 8 && !c.w.sbad 9 && c.w.count .col == 0
      && !c.strongPending .rel .device false (fun _ => true) && !c.acqPending && ((c.s.engine 0).scheds.any fun y => y.num == 7 && y.part == c.b.part)
      && (c.s.engine 0).scheds.all fun y => y.num != 8)
    && has demo (fun c => c.admits .cancel && c.admits .cancelJob && c.admits .wrapend && c.w.ops.isEmpty && !c.holdsPoison
      && match c.s.launch? c.b.key.lid with | some l => l.st == .running && l.ebbAt.isNone && l.status.isNone && l.counter == 1 && l.job.isNone
                                            | none => false)
    && has (launchOf fun l => { l with st := .ebb, ebbAt := some 0 }) (fun c => c.admits .cancel) = true := by decide +kernel

/-- A request of 8 bytes at a virtual address. -/
def req9 (addr : DWord) (kind : ReqKind) (st : ReqSt := .sent) : Req :=
  ⟨9, ⟨⟨1, 0, 0⟩, 0⟩, 0, 0, some 1, 0, addr, 8, kind, .rlx, .device, false, [], [], some (locOf 0x40), none, st, false⟩
/-- The request stands in the device. -/
def withReq (r : Req) (s : State := paged) : State := { s with reqs := [r] }
/-- It goes where the test of `Spec.goes` says. -/
def goesTo (r : Req) (s : State := paged) (p : Locate → Bool) : Bool :=
  let s := withReq r s
  s.req? 9 == some r && s.inTurn r && rankOf r.addr == s.rank && s.owners r == [] && p (Spec.goes s r)
/-- An .rmt read at device scope, with a promotion asked for or not. -/
def rmt9 (promote : List (Nat × Nat)) : Req := { req9 0x40 .read with rmt := true, promote, seq := 12 }
/-- Core 3 is recorded with the granule it reads, and an older write of that core is on its way or has performed. -/
def recorded (promote : List (Nat × Nat)) (older : ReqSt) (waitFor : List Nat := []) : State :=
  { paged with
    writers := [(phys 0x40 / 32, 3)]
    reqs := [{ req9 0x80 (.write [] 0) older with chan := 3, waitFor }, rmt9 promote] }

theorem witness_MemoryRequestResults :
    (let atKey (n : Nat) (l : Locate) : Bool := match l with | .at _ p => p.key == n && p.mirror.isNone | _ => false
    goesTo (req9 0x0010000000000000 .read) (p := fun l => match l with | .fault _ 4 => true | _ => false)
    && goesTo (req9 0x1F8 .read) walked (fun l => match l with | .hold _ => true | _ => false)
    && goesTo (req9 0x1FFFF8 .read) (p := atKey (phys 0x1FFFF8))
    && goesTo (req9 0 (.write [1, 2, 3, 4, 5, 6, 7, 8] 0xF0)) (p := atKey (phys 0))
    && goesTo (req9 0x40 (.atom .add true 5 0)) (p := atKey (phys 0x40))
    && goesTo (req9 0x40 (.atom .cas false 0xFFFFFFFF 1)) (p := atKey (phys 0x40))
    && goesTo (req9 0x40 (.atom .fadd true 0 0)) { paged with poison := [phys 0x40 / 32] } (atKey (phys 0x40))
    && (let x : Frame := ⟨1, 1, 6, false, Vector.replicate 8 0, 3⟩
      goesTo (req9 0x40 (.write [1] 1)) { paged with dies := paged.dies.set 0 { paged.dies[0] with frames := [(32, x)] } } fun l =>
        match l with | .at _ p => p.mirror == some (2 ^ 36 + 65536 * 6 + 0x40) | _ => false)
    && ([([], .sent, []), ([(3, 10)], .sent, []), ([(3, 10)], .performed [] none none, []), ([(3, 9)], .sent, []), ([(3, 10)], .sent, [12])]
        : List (List (Nat × Nat) × ReqSt × List Nat)).all (fun x =>
      let s := recorded x.1 x.2.1 x.2.2
      s.req? 12 == some (rmt9 x.1) && s.inTurn (rmt9 x.1) && s.owners (rmt9 x.1) == [3]
        && s.promoted 3 10 (s.dependants s.reqs.length [12]) == (x.2.1 != .sent || x.2.2 == [12])
        && s.promoted 3 9 (s.dependants s.reqs.length [12]))
    -- A read at rank 1 of a domain of two packages.
    && (let r := req9 0x0080000000000000 .read
      let s : State := withReq r { paged with shape := some (2, 1, 1) }
      s.req? 9 == some r && s.inTurn r && rankOf r.addr == 1 && s.rank == 0 && s.inDomain 1)
    && paged.dram.wf && paged.poison.isEmpty && paged.upset.isNone) = true := by decide +kernel

theorem witness_PacketCompletionResults :
    (let i := Instr.mma .bf16 false 3 4 20
    let s : State := (mtxDemo fun w => { w with st := .handOver })
    let t : State := { s with cur := some ⟨⟨1, 0, 0⟩, 0⟩ }
    let u := match i.words with | some (w, _) => t.layDown (leBytes 8 w.toNat) | none => t
    has u fun c => u.cur == some (Machine.warpOf ⟨1, 0, 0, 0⟩) && c.admits i && c.w.st == .handOver
      && decide (u.fetch c.b c.w = i) && (c.engineOp i).isSome)
    && (let bs : List (Byte × Bool) := [(1, false), (2, false), (3, false), (4, false), (5, false), (6, false), (7, false), (8, false)]
    ([req9 0 .read (.performed bs none none), req9 0 .read (.performed bs none (some ⟨1, 0, some 5⟩)),
      req9 0 (.write [] 0) (.performed [] (some ⟨4, 0, 0⟩) none)] : List Req).all fun r =>
      let s := withReq r
      s.req? 9 == some r && !r.dead && r.sig.isNone && (match s.block? ⟨1, 0, 0⟩ with | some b => b.scr.bytes.wf | none => false)
      && match s.warp? r.wid with | some w => w.ops.isEmpty | none => false)
    -- The page's meter as the reply leaves: of a metered page, of an unmetered one, and none for a page mapped no more.
    && (let s (leaf : BitVec 64) : State := { paged with dies := paged.dies.set 0 { paged.dies[0] with tlb := [⟨1, 0, 32, leaf⟩] } }
      (match ((s 0x0000000200060027).translate 0 1 0).2 with | .ok leaf _ => pteMet leaf && pteMeter leaf == 6 | _ => false)
      && (match (paged.translate 0 1 0).2 with | .ok leaf _ => !pteMet leaf | _ => false)
      && (match (walked.translate 0 1 0).2 with | .ok .. => false | _ => true))
    -- A metered reply of 8 bytes at an allowance of 8, and of 7.
    && (([8, 7] : List Nat).map (fun a => let s : State := { paged with dies := paged.dies.set 0 { paged.dies[0] with allow := [(5, a)] } }
      decide ((lookupN (s.die 0).partials 5).getD 0 + 8 ≤ (lookupN (s.die 0).allow 5).getD 0)) == [true, false]) = true := by
  decide +kernel

theorem witness_TranslationAndMigrationResults :
    (let s : State := { walked with faults := [⟨0, 1, 0, false⟩], allots := [⟨5, 0, 1⟩] }
    let t (e : List (Nat × BitVec 64)) := s.writeEntries 0 e
    (s.pageFault? 0 1 0).isSome && s.walk 0 1 0 == .unmapped false
    && (t [(0x21000, 0x200000003)]).walk 0 1 0 == .ok 0x200000003 32 && (t [(0x21000, 0x200000003)]).meterOk 0 0x200000003
    && (t []).walk 0 1 0 == .unmapped false && s.rings.isEmpty
    && s.mayWrite (t [(0x21000, 0x200000003)]) 0 none && (t [(0x21000, 0x200000003)]).placesOk 0 [(0x21000, 0x200000003)] && !s.mayWrite (t [(0x21000, 0x200000003), (0x22000, 0)]) 0 none
    -- A leaf over the frame of the tables themselves, and an entry beyond the stack.
    && !s.mayWrite (t [(0x22000, 0x10000007)]) 0 (some (1, 32, 1))
    && !(t [(0x1000000000, 1)]).placesOk 0 [(0x1000000000, 1)]
    -- The page 32 given to meter 5: inside the range taken away, and beside it; to meter 6, which is another partition's.
    && s.mayWrite (t [(0x22000, 0x400050027)]) 0 (some (1, 32, 1)) && !s.mayWrite (t [(0x22000, 0x400050027)]) 0 (some (1, 33, 1))
    && !s.mayWrite (t [(0x22000, 0x400060027)]) 0 (some (1, 32, 1))
    && (match s.part? 0 with
      | some p => (List.range 8).all fun i => (s.writeRoots p 4095 (List.replicate 8 0x10001)).tablesOk (p.first + i)
      | none => false)
    && (match s.part? 0 with | some p => p.first + p.n == 8 && rootsOk p.n (List.replicate 8 0x10001) && p.fwAsid == 1 | none => false)
    && ((List.range 8).all fun i => !(s.die i).rootValid 4095) && s.jobs.isEmpty && s.engines.toList.all fun e => e.scheds.isEmpty)
    && (let f (st copied : Nat) : Frame := ⟨st, 1, 6, false, Vector.replicate 8 0, copied⟩
    let s : State := { paged with dies := paged.dies.set 0 { paged.dies[0] with frames := [(1, f 2 0), (2, f 1 2047), (3, f 3 0), (4, f 1 2048), (5, f 3 2048)] } }
    (s.parts.any fun p => p.hasStack 0 && p.hasStack 7) && s.reservable 1 7 && !s.reservable 1 6 && ((s.die 0).frame 0).state == 0 && ((s.die 0).frame 1).state == 2
    && (s.die 0).frame 2 == f 1 2047 && (s.die 0).frame 3 == f 3 0 && (s.die 0).frame 4 == f 1 2048 && (s.die 0).frame 5 == f 3 2048
    && s.dram.wf) = true := by decide +kernel

/-- A packet: type, PRI and IRQ byte, LEN, TAG, COMPL, ARG, body. -/
def packet (ty pri len tag compl arg : Nat) (body : List Byte := []) : List Byte :=
  leBytes 1 ty ++ leBytes 1 pri ++ leBytes 2 len ++ leBytes 4 tag ++ leBytes 8 0 ++ leBytes 8 compl ++ leBytes 8 arg
    ++ body ++ List.replicate (32 * (len - 1) - body.length) 0
/-- A ring 2 of group 0 with one unit of occupied entries given. -/
def ring2 (st : RingSt := .running) (occ : Nat := 0) : Ring :=
  ⟨2, 0x100, 0x100000, 7, 0, 0, 3, st, .running, BitVec.ofNat 32 occ, 0, 0, 0, 0, none, none, none, false⟩
/-- The ring with a packet at its head. -/
def ringed (bs : List Byte) (st : RingSt := .running) : State :=
  { paged with
    rings := [ring2 st (pkLen bs)]
    groups := [⟨0, 0, none⟩]
    dram := paged.dram.writeN (phys 0x100000) bs }
/-- A packet in the hand of group 0. -/
def inHand (bs : List Byte) (lid : Option Nat := none) (late : Bool := false) (s : State := paged) : State :=
  { s with rings := [ring2], groups := [⟨0, 0, some ⟨some 2, 0, 3, bs, lid, late⟩⟩] }

/-- A copy of one 16-byte element from scratchpad 0x40 to an address, and a SIGNAL. -/
def shape1 (dir : Nat) (dst : DWord) : Shape :=
  ⟨false, dir, 4, 0, 1, 0, 0, 0, 0, 0x40, dst, [1, 1, 1, 1], [0, 0, 0], [0, 0, 0], 0, 0, 0, []⟩
/-- That copy. -/
def copy4 (dir : Nat) (dst : DWord) (done : List ElemIx := []) (sigs : List (Nat × Nat) := []) : Copy :=
  ⟨4, ⟨⟨1, 0, 0⟩, 0⟩, 0, some 1, 0, [.shape (shape1 dir dst), .signal true 0x80], done, sigs, [], none, false⟩

theorem witness_CopyAndMatrixEventResults :
    (let s (x : Copy) (bad : Bool := false) : State := { paged (blockOf fun b => { b with scr := b.scr.put 0x40 [1] bad }) with copies := [x] }
    let reads (x : Copy) (bad : Bool) (p : State → List (Byte × Bool) → Bool) : Bool :=
      match (s x bad).copyRead x ((shapeAt x.chain 0).getD (shape1 0 0)) ⟨0, 0, 0, 0⟩ 0x40 [] 0 with
      | (s', some (bs, none)) => p s' bs
      | _ => false
    let start (x : Copy) : Bool := (s x).copy? 4 == some x && !x.dead && (match shapeAt x.chain 0 with
      | some r => passesOf x.chain 0 == 1 && r.elems == 1 && r.targets == 1 && (s x).reduceReady x r ⟨0, 0, 0, 0⟩ && r.redop == 0
        && !r.srcMem && r.repl == 0 && (r.places x.chain 0 0 0).1 == 0x40
      | none => false)
    start (copy4 2 0xFF0) && start (copy4 1 0x1FFFF0)
    && reads (copy4 2 0xFF0) false (fun s' _ => match s'.ctxOf (copy4 2 0).wid with
      | some c => c.elemLoc 0xFF0 16 == some (locOf 0xFF0) && (match s'.block? ⟨1, 0, 0⟩ with | some b => b.scr.bytes.wf | none => false)
      | none => false)
    && reads (copy4 1 0x1FFFF0) true (fun _ bs => bs.any (·.2) && (shape1 1 0).dstMem)
    && reads (copy4 1 0x1FFFF0) false (fun s' bs => !bs.any (·.2) && match s'.copyCredit (copy4 1 0x1FFFF0) true 0x1FFFF0 with
      | some s1 => (match s1.copyToMem (copy4 1 0x1FFFF0) (shape1 1 0x1FFFF0) 0x1FFFF0 (bs.map (·.1)) 0 with | .reply .. => true | _ => false)
      | none => false)
    -- A read outside the block's scratchpad, and one of memory at an address of no package, to memory.
    && (match (s (copy4 1 0)).copyRead (copy4 1 0) (shape1 1 0) ⟨0, 0, 0, 0⟩ 0x2000 [] 0 with | (_, some (_, some 3)) => true | _ => false)
    && (let r := shape1 3 0
      r.srcMem && r.dstMem
      && match (s (copy4 3 0)).copyRead (copy4 3 0) r ⟨0, 0, 0, 0⟩ 0x0010000000000000 [] 0 with | (_, some (_, some 4)) => true | _ => false)
    && (let x := copy4 2 0xFF0 [⟨0, 0, 0, 0⟩]
      (s x).copy? 4 == some x && passesOf x.chain 1 == 1 && x.sigs.isEmpty && (match x.chain[1]? with | some (ChainEnt.signal true 0x80) => true | _ => false)
      && (x.done.filter fun i => before x.chain i.entry i.pass 1 0).length == writesBefore x.chain 1 0)
    && (let x := copy4 2 0xFF0 [⟨0, 0, 0, 0⟩] [(1, 0)]
      x.done.length == totalWrites x.chain && x.sigs.length == (signalsOf x.chain).length))
    && (let q (a : Option (Word × Bool)) : Query := ⟨6, ⟨⟨1, 0, 0⟩, 0⟩, locOf 0xFFC, none, a, false⟩
      let s (a : Option (Word × Bool)) (e : Option Nat) : State := launchOf (fun l => { l with rcd := some { demoRec with work := 1 }, ebbAt := e })
        { demo with queries := [q a] }
      [none, some 3].all fun e => (s none e).query? 6 == some (q none) && ((s none e).launch? 1).isSome
        && (match (s (some (5, false)) e).block? ⟨1, 0, 0⟩ with | some b => b.scr.bytes.wf | none => false))
    && (let zero : List (List (Byte × Bool)) := List.replicate 16 (List.replicate 8 (0, false))
      let t : Machine.Step := ⟨⟨⟨1, 0, 0⟩, 0⟩, 4, 7, .bf16, .rows zero, .rows zero, 0, 4, none, none, [], []⟩
      let x : Xfer := ⟨⟨⟨1, 0, 0⟩, 0⟩, 5, true, [7], [[(1, false)]], 0, 64, 1, []⟩
      let s := blockOf fun b => { b with tiles := [⟨7, Vector.replicate 256 0, 0⟩], steps := [t], xfers := [x] }
      match s.ctxOf ⟨⟨1, 0, 0⟩, 0⟩ with
      | none => false
      | some c => (c.b.tile? 7).isSome && c.b.stepReady 0 t && (s.block? ⟨1, 0, 0⟩).isSome
        && (match c.sideElts .bf16 t.a 0 4 0, c.sideElts .bf16 t.b 0 4 3072 with
          | some ea, some eb => (t.apply ⟨ea, eb⟩ ⟨7, Vector.replicate 256 0, 0⟩ none).isSome
            && (t.apply ⟨ea, eb⟩ ⟨7, Vector.replicate 256 0, 0⟩ (some 0x7F800000)).isNone
          | _, _ => false)
        && !({ c.b with steps := [] } : Block).xferBlocked x && x.tiles.length == 1) = true := by decide +kernel

/-- An address that no package of the domain has, and one in a page that firmware has still to map (`walked`). -/
def nowhere : DWord := 0x0080000000000000
/-- The ring with its header in that page. -/
def ringless : Ring := { ring2 with hdr := 0x40 }

/-- The ring cannot go: its header's page waits. -/
def gone0 (s : State) (r : Ring) : Bool :=
  ((s.watchWaits.fwWrite [1, 2] r.part (r.hdr + 4) ({ r with st := .unregistered, rep := none } : Ring).header).2).isNone

theorem witness_RingResults :
    (let s1 (hdr : DWord) : State := { paged with rings := [⟨4095, hdr, 0x100000, 7, 255, 0, 3, .running, .running, 0, 0, 0, 0, 0, none, none,
        none, false⟩] }
    paged.boot == 5 && !paged.bootErr && paged.deviceMemory 0x100 && (paged.part? 0).isSome && paged.rings.isEmpty
    && ((s1 0x100).fwWrite [1, 4095] 0 0x100 (List.replicate 4 0 ++ (ring2 .running 0).header)).2.isSome && !paged.deviceMemory nowhere)
    && (let gone (s : State) (r : Ring) : Bool := s.ring? 2 == some r && gone0 s r
      let s := { inHand (packet 7 0 1 5 0 0) with launches := [{ spotLaunch 9 true with origin := .ring (some 2) }] }
      s.ring? 2 == some ring2 && !gone s ring2 && gone { walked with rings := [ringless], groups := [⟨0, 0, none⟩] } ringless)
    && (let s := ringed (packet 7 0 2 5 0 0)
      s.rings == [ring2 .running 2] && (s.group? 0).isSome && (s.fwRead [2, 2] 0 0x100 4).2.isSome
      && (match s.headHeader (ring2 .running 2) with
        | (_, some h) => pkType h == 7 && (ring2 .running 2).check h == 0 && decide (pkLen h ≤ (ring2 .running 2).occ)
        | _ => false))
    && (let s := ringed (packet 7 0 1 5 0 0) .halted
      s.ring? 2 == some (ring2 .halted 1) && (s.group? 0).isSome)
    && (let r : Ring := { ring2 .halted with rep := some ⟨9, 1, [], true⟩ }
      let s : State := { paged with rings := [r], taken := [⟨2, 5, 9, false⟩] }
      s.ring? 2 == some r && !gone0 s r)
    && ([1, 2] : List Nat).all (fun ty =>
      let s := (ringed (packet ty 2 7 5 0x40 0)).sayRings.watchWaits.examineGroup 0
      match s.group? 0 with
      | some g => g.busy.isNone && (match firstTaken (s.eligible g) with | some (_, bs) => bs == packet ty 2 7 5 0x40 0 | none => false)
      | none => false) = true := by decide +kernel

/-- A WAITCNT for a job's counter to reach `v`, with a timeout. -/
def waitPk (v timeout : Nat) : List Byte := packet 3 0 2 5 0 v (leBytes 8 0 ++ leBytes 8 0 ++ leBytes 8 timeout)
/-- The ring with a WAITCNT at its head, looked at before from a time on, at another. -/
def waiting (v timeout : Nat) (head : Option HeadWait) (now : Nat) : State :=
  { ringed (waitPk v timeout) with rings := [{ ring2 .running 2 with head }], now }

theorem witness_WaitcntHeadResults :
    ([waiting 0 0 none 7, waiting 1 0 none 7, waiting 1 10 (some ⟨3, waitPk 1 10, false⟩) 12, waiting 1 10 (some ⟨3, waitPk 1 10, false⟩) 13,
      waiting 0 10 (some ⟨3, waitPk 0 10, true⟩) 20] : List State).all (fun s => match s.ring? 2 with
        | some r => r.st == .running && r.rep.isNone && decide (r.occ ≤ 2 ^ r.k) && r.head.all (fun w => some w.packet == (s.headPacket r).2)
          && (match s.headHeader r with
            | (s1, some h) => r.check h == 0 && (match s1.headPacket r with | (_, some bs) => pkType bs == 3 && waitcntOk bs | _ => false)
            | _ => false)
        | none => false)
    && ((paged.job? 0 0).isNone && pkBody (waitPk 0 0) 0 4 == 0 && pkArg (waitPk 0 0) == 0 && pkArg (waitPk 1 0) == 1) = true := by decide +kernel

/-- The registered code object has one kernel and one prologue. -/
def coded (s : State := paged) : State :=
  { s with codes := [{ spotCode with kernels := [spotBody], prologues := [⟨0, 8⟩] }] }
/-- Launch 9, in its prologue, of a LAUNCH packet. -/
def launch9 (bs : List Byte) : Launch := { spotLaunch 9 true with packet := bs, origin := .ring (some 2) }
/-- A LAUNCH packet in hand, with launch 9. -/
def launched (bs : List Byte) (f : Launch → Launch := id) (s : State := coded) : State :=
  let t := inHand bs (some 9) false s
  { t with launches := [f (launch9 bs)] }
/-- Identifier 1 is enabled in every stack. -/
def enabled (s : State := paged) : State := { s with dies := s.dies.map fun d => { d with root := [(1, 0x10001)] } }

theorem witness_LaunchAndJobPacketResults :
    (let ok (s : State) : Bool := match s.inHand 0 with
      | some k => k.lid == some 9 && (match s.launch? 9 with | some l => (s.pass? 9).isNone && l.status.isNone | none => false)
      | none => false
    let fine : List Byte := packet 1 0 7 5 0 0
    ok (launched (packet 1 0 6 5 0 0)) && ok (launched (packet 1 0 7 5 0 1)) && ok (launched fine)
    && pkLen fine == 7 && pkArg fine == 0
    && (let s := launched fine (fun l => { l with job := some 5 }) { coded with jobs := [{ job5 with cancelled := true }] }
      ok s && (match s.job? 0 5 with | some j => j.cancelled | none => false))
    && (let s := launched fine id { coded with codes := [] }
      ok s && (s.prologueOf (launch9 fine)).isNone)
    && (let s := launched fine
      (s.prologueOf (launch9 fine)).isSome && (s.freeCore (s.dieOfPart 0)).isSome))
    && (let job (len asid ten : Nat) : List Byte := packet 2 0 len 5 0 (5 + asid * 2 ^ 32 + ten * 2 ^ 48)
    let s (bs : List Byte) (js : List Job) : State := inHand bs none false { enabled with jobs := js, tenancies := [⟨0, 3, 0⟩] }
    let ok (bs : List Byte) (js : List Job) : Bool := (s bs js).jobOk 0 bs
    !ok (job 1 1 0) [] && !ok (job 2 2 0) [] && ok (job 2 1 3) [] && ok (job 2 1 0) [] && ok (job 2 1 0) [job5]
    && ((s (job 2 1 0) [job5]).job? 0 5).isSome && ((s (job 2 1 0) []).job? 0 5).isNone
    && ({ s (job 2 1 3) [] with retired := true } : State).jobOk 0 (job 2 1 3) && !(s (job 2 1 3) []).retired
    && (match (s (job 2 1 0) []).readAllow 0 0 none 0 0 with | (_, some (some [])) => true | _ => false)) = true := by decide +kernel

theorem witness_ControlPacketResults :
    (let wait (len : Nat) : List Byte := packet 3 0 len 5 0 0
    !waitcntOk (wait 1) && waitcntOk (wait 2) && ((inHand (wait 2) none true).inHand 0).isSome && ((inHand (wait 2)).inHand 0).isSome)
    && (let sig (len kind addr arg : Nat) : List Byte := packet 4 0 len 5 0 arg (leBytes 8 kind ++ leBytes 8 addr)
    !signalOk (sig 1 0 8 7) && !signalOk (sig 2 2 8 7) && signalOk (sig 2 0 0x1FFFF8 7) && !signalOk (sig 2 1 7 1)
    && signalOk (sig 2 1 0x1FFFF 0) && signalKind (sig 2 1 7 0) == 1 && signalKind (sig 2 2 8 7) == 2
    && ((inHand (sig 2 0 0x1FFFF8 7)).fwWrite [8, 0] 0 0x1FFFF8 (leBytes 8 7)).2 == some none
    && ((inHand (sig 2 0 nowhere.toNat 7)).fwWrite [8, 0] 0 nowhere (leBytes 8 7)).2 == some (some 4)
    && !({ inHand (sig 2 1 7 0) with variant := .m } : State).hasTideway && (inHand (sig 2 1 7 0)).hasTideway
    && ((inHand (sig 2 1 7 0) none false (engineOf fun e => { e with scheds := [sched7] })).engine 0).scheds.any (fun y => y.num == 7 && y.part == 0)
    && ((inHand (sig 2 1 8 0) none false (engineOf fun e => { e with scheds := [sched7, { sched7 with num := 8, part := 4 }] })).engine 0).scheds.all
      (fun y => y.num != 8 || y.part != 0))
    && (let can (len sel ring tag : Nat) : List Byte := packet 5 0 len 5 0 (sel * 2 ^ 62 + ring * 2 ^ 32 + tag)
    let s (l : Launch) (ended : Bool) : State := { inHand (can 1 0 2 5) with launches := [l], taken := [⟨2, 5, 9, ended⟩], jobs := [job5] }
    let l := launch9 (packet 1 0 7 5 0 0)
    ((s l true).taken? 2 6).isNone && (s l true).taken? 2 5 == some ⟨2, 5, 9, true⟩ && (s l false).taken? 2 5 == some ⟨2, 5, 9, false⟩
    && (match (s l false).launch? 9 with | some l => l.st == .prologue && l.status.isNone | none => false)
    && (match (s { l with st := .running } false).launch? 9 with
      | some l => l.st == .running && l.status.isNone && l.ebbAt.isNone && l.counter == 1 | none => false)
    && !cancelOk (can 2 0 2 5) && !cancelOk (can 1 2 0 5) && pkArg (can 2 0 2 5) / 2 ^ 62 != 1 && !cancelOk (can 1 1 4 5)
    && pkArg (can 1 1 4 5) / 2 ^ 62 == 1 && pkArg (can 1 1 0 5) / 2 ^ 32 % 2 ^ 30 == 0 && pkLen (can 1 1 0 5) == 1
    && pkArg (can 1 0 4095 5) / 2 ^ 44 % 2 ^ 18 == 0 && ((s l false).job? 0 5).isSome && ((s l false).job? 0 6).isNone)
    && (let snap (len m : Nat) : List Byte := packet 6 0 len 5 0 m (leBytes 8 0x40)
    let s : State := { inHand (snap 2 4) with allots := [⟨4, 0, 1⟩] }
    !metersnapOk (snap 1 4) && metersnapOk (snap 2 4095) && metersnapOk (snap 2 4)
    && (match s.inHand 0 with | some k => !s.mayRead k 4095 && s.mayRead k 4 | none => false) && s.signQ.isEmpty) = true := by decide +kernel

/-- A signing request, with its record made or not. -/
def snapReq (record : Option (List Byte)) : SignReq := ⟨4, 0, 0x40, dueOf ⟨some 2, 0, 3, [], none, false⟩ .completed 0, record⟩

theorem witness_SigningQueueResults :
    (let s (q : SignReq) (base : State) : State := { base with signQ := [q] }
    (inHand []).signQ.length < 64 && (List.replicate 64 (snapReq none)).length == 64 && (paged.inHand 0).isNone
    && (let q : SignReq := { snapReq none with dest := nowhere }
      ((s q paged).nextNumber.fwWrite [11] 0 nowhere ((s q paged).nextNumber.signed 1 1 ((s q paged).nextNumber.snapBody 4))).2.isSome)
    && ((s (snapReq (some [1])) paged).fwWrite [11] 0 0x40 [1]).2.isSome
    && ((s (snapReq (some [1])) walked).fwWrite [11] 0 0x40 [1]).2.isNone) = true := by decide +kernel

/-- A prologue pass of launch 1 with the code object and a scratch area that holds a record of 1 gang of 1 block of 32 lanes. -/
def passing (extra : List (Nat × List Byte) := []) : State :=
  let fixed : List (Nat × List Byte) := [(0x30, [1]), (0x34, [1]), (0x38, [1]), (0x3C, [1]), (0x3E, [32]), (0x4C, [0xFF, 0xFF, 0xFF, 0xFF])]
  let fields (m : Scratch) : Scratch := (fixed ++ extra).foldl (fun m x => m.put x.1 x.2 false) m
  let set (b : Block) : Block := { b with scr := fields b.scr }
  blockOf set (paged (coded passDemo))

theorem witness_PassAndRecordResults :
    (let d : Due := ⟨0x40, true, 0, 3, .timeout, 255, 65535, 5, 9, 0xFFFFFFFF, none, none⟩
    d.reason < 256 && d.pass < 2 ^ 16 && d.ident < 2 ^ 64 && d.flags < 2 ^ 32)
    && has passDemo (fun c => c.b.kind == .prologue && admitsAll c [.lgo, .lrepeat, .lcancel] && c.w.ops.isEmpty
      && match c.s.launch? c.b.key.lid with
        | some l => l.status.isNone && c.s.judge l (parseRecord (c.b.scr.get 0 0xC0)) == .malformed | none => false)
    && has (warpOf (fun w => { w with ops := [pend .pkt] }) passDemo) (fun c => c.admits .lgo && c.w.ops.any fun o => o.st == .pending)
    && (let s (extra : List (Nat × List Byte)) : State :=
        { launchOf (fun l => { l with job := some 5, asid := some 1 }) (passing extra) with jobs := [job5] }
      let judged (s : State) (p : Verdict → Bool) : Bool := has s fun c => admitsAll c [.lgo, .lrepeat] && match c.s.launch? c.b.key.lid with
        | some l => (let r := parseRecord (c.b.scr.get 0 0xC0); (c.s.zeroFlags l r).2 && p (c.s.judge l r))
        | none => false
      judged (s []) (fun v => match v with | .admitted _ => true | _ => false)
      && judged (s [(0x48, [1])]) (fun v => v == .rejected 1))
    && (match passDemo.launch? 1 with
      | some l => l.status.isNone && (match passDemo.pass? 1 with | some q => q.start == some 0 | none => false) | none => false)
    && (let s : State := { coded with rings := [{ ring2 with rep := some ⟨9, 1, [], true⟩ }], launches := [launch9 (packet 1 0 7 5 0 0)] }
      (match s.ring? 2 with | some r => r.rep == some ⟨9, 1, [], true⟩ | none => false)
      && (match s.launch? 9 with | some l => (s.prologueOf l).isSome && (s.freeCore (s.dieOfPart l.part)).isSome | none => false)
      && (s.launch? s.nextLid).isNone)
    && (let d (compl : DWord) (lid : Option Nat) (mirror : Option (DWord × DWord) := none) : Due :=
        ⟨compl, true, 0, 3, .completed, 0, 0, 5, 9, 0, lid, mirror⟩
      let l : Launch := { launch9 [] with job := some 5 }
      let s (base : State) (jcnt : DWord) (ds : List Due) : State :=
        { base with rings := [ring2], launches := [l], jobs := [{ job5 with jcnt }], dues := ds }
      let w (s : State) (d : Due) : State × Bool := s.fwWriteAt [6] d.part d.compl (d.bytes s.now)
      let mirror (s : State) (d : Due) : Bool := let s2 := ((w s d).1.clearDue 0 d).countJob l
        (s2.writeMirror 0 s2.dues 0x40 1).2
      let x := s paged 0x40 [d 0x40 none, d 0x40 (some 9)]
      (x.dues.all fun y => (w x y).2) && (x.launch? 9).isSome && (x.job? 0 5).isSome && mirror x (d 0x40 (some 9))
      && !mirror (s walked 0x40 []) (d 0 (some 9)) && (w (s walked 0x40 []) (d 0 (some 9))).2 && !(w (s walked 0 []) (d 0x40 none)).2
      -- A mirror write that stayed due: done, and still waiting for its page or behind another.
      && (paged.writeMirror 0 [] 0x40 1).2 && !(walked.writeMirror 0 [] 0x40 1).2
      && !(paged.writeMirror 0 [d 0 none (some (0x40, 0))] 0x40 1).2) = true := by decide +kernel

/-- The record in the scratch area of `passing`, with fields changed. -/
def recordOf (extra : List (Nat × List Byte)) : List Byte :=
  match (passing extra).blocks with | b :: _ => b.scr.get 0 0xC0 | [] => []
/-- The record keeps its limits. -/
def fineB (bs : List Byte) (co : CodeObj) (k : Kernel) : Bool := @decide (Spec.recordFine bs co k) (by delta Spec.recordFine; infer_instance)

theorem witness_RecordVerdicts :
    (let co (k : Kernel) : CodeObj := { spotCode with kernels := [k], prologues := [⟨0, 8⟩] }
    let s (k : Kernel) (js : List Job) : State := { paged with codes := [co k], jobs := js }
    let l : Launch := { spotLaunch 1 true with job := some 5 }
    let v (s : State) (l : Launch) (extra : List (Nat × List Byte)) : Verdict := s.judge l (parseRecord (recordOf extra))
    let fine (k : Kernel) (extra : List (Nat × List Byte)) : Bool := fineB (recordOf extra) (co k) k
    let metered : Job := { job5 with tenancy := 3, allow := [0] }
    let a := s spotBody [job5]
    ((a.code? 0 0).isSome && (a.code? 0 1).isNone && fine spotBody [] && !fine spotBody [(0x63, [1])] && fine spotBody [(0x62, [16])]
      && !fine spotBody [(0x62, [17])] && fine spotBody [(0x0C, [15])] && !fine spotBody [(0x0C, [16])] && (a.part? 0).isSome && (a.job? 0 5).isSome)
    && v a l [(0, [1])] == .rejected 3 && v a l [(0x10, [1])] == .rejected 3 && v a l [(8, [1])] == .malformed && v a l [(0x63, [1])] == .malformed
    && v a { l with job := none } [] == .rejected 6 && v (s spotBody [{ metered with allow := [] }]) l [] == .rejected 2
    && v (s spotBody [metered]) l [(0x0C, [2])] == .rejected 4 && v (s { spotBody with v := 0x80000 } [job5]) l [(0x0C, [2])] == .rejected 5
    && v a l [(0x48, [1])] == .rejected 1 && v a l [] == .admitted spotBody) = true := by decide +kernel

/-- Launch 9, admitted with one gang of one block. -/
def queued9 (f : Launch → Launch := id) : Launch :=
  f { spotLaunch 9 false with st := .queued, rcd := some { demoRec with deadline := 1000000 }, kern := some spotBody, next := 0, gangs := [] }
/-- The demo's gang, at a block status and a gang status. -/
def gangAt (b : BlockSt) (g : GangSt) (s : State := paged) : State :=
  launchOf (fun l => { l with gangs := [⟨0, g, 0, 0⟩] }) (blockOf (fun x => { x with st := b }) s)

/-- The demo's gang ready to be saved, with no rows, no scratchpad and no matrix section. -/
def bareGang : State :=
  blockOf (fun b => { b with rows := [], scr := Scratch.fresh 0, kern := { b.kern with matrix := false } }) (gangAt .saving .placed)
/-- R141: an image starts with format 1 and ISA version 1, its flags say mid-phase (bit 0) and slots owned (bit 1), and the
launch identifier follows. -/
theorem test_image_header : (bareGang.blocks.map fun b => b.image.take 9) = [[1, 1, 0, 0, 3, 0, 0, 0, 1]] := by decide +kernel

/-- One stack and a queued launch 9 of one gang of one block. -/
def oneQueued : State := { paged with parts := [⟨0, 1, 1, 0, 1, Vector.replicate 4 256, 0x200⟩], launches := [queued9], blocks := [] }
/-- Its partition. -/
def part0 : Partition := ⟨0, 1, 1, 0, 1, Vector.replicate 4 256, 0x200⟩
/-- The gang that waits there. -/
def waiter9 (f : Launch → Launch := id) : Spec.Waiter := ⟨queued9 f, { demoRec with deadline := 1000000 }, spotBody, 0⟩
/-- Launch 9, waiting since 0. -/
def late9 : Launch := queued9 fun l => { l with w0 := some 0 }
/-- A launch in EBB with a parked gang in every cluster, ahead of launch 9. -/
def ebb8 : Launch := { launch9 [] with lid := 8, ebbAt := some 0, st := .ebb, gangs := (List.range 6).map fun c => ⟨c, .parked, c, 0⟩ }
/-- The two. -/
def crowded : State := { oneQueued with launches := [ebb8, late9], now := 50000 }

/-- With no block anywhere no core holds one. -/
theorem blocksOn_empty (s : State) (h : s.blocks = []) (c k : Nat) : s.blocksOn c k = [] := by simp [State.blocksOn, h]

/-- An empty core takes a block of launch 9's kernel. -/
theorem takes_empty : Spec.takes [] (spotBody.need false) := by refine ⟨by decide, by decide, ?_, ?_⟩ <;> simp

/-- Core 0 seats a block that it can take. -/
theorem seats_zero (ok : Nat → Need → Prop) (n : Need) (h : ok 0 n) : Spec.seats ok [n] [0] := by
  refine ⟨rfl, by simp, ?_⟩
  rintro (_ | i) k m hk hm <;> simp at hk hm
  subst hk hm
  exact ⟨by decide, h⟩

/-- Core 0 is the best fit of a block that it can take where no core has more on it. -/
theorem bestFit_zero (s : State) (c : Nat) (ok : Nat → Prop) (n : Need) (h0 : ok 0) (hn : Spec.takes (s.blocksOn c 0) n)
    (h : ∀ k, Spec.freeSlots (s.blocksOn c 0) = Spec.freeSlots (s.blocksOn c k)) : Spec.bestFit s c ok [n] [0] := by
  refine ⟨seats_zero _ n ⟨h0, hn⟩, ?_⟩
  rintro js (_ | i) a b - - ha - <;> simp at ha
  subst ha
  exact .inr ⟨h b, Nat.zero_le b⟩

/-- A cluster of stack 0. -/
theorem cluster_lt (c : Nat) (h : part0.hasCluster c = true) : c < 6 := by
  simp [part0, Partition.hasCluster, Partition.hasStack, stackOfCluster] at h; omega

/-- Launch 9's gang is the only one that waits. -/
theorem waits_alone (s : State) (l : Launch) (h : s.launches = [l] ∨ s.launches = [ebb8, l]) (hr : l.rcd = some { demoRec with deadline := 1000000 })
    (hk : l.kern = some spotBody) (hg : l.gangs = []) (hn : l.next = 0) (y : Spec.Waiter) (hy : Spec.queues s part0 y) :
    y = ⟨l, { demoRec with deadline := 1000000 }, spotBody, 0⟩ := by
  obtain ⟨yl, yr, yk, yg⟩ := y
  obtain ⟨hm, hp, h1, h2, h3, h4, h5, h6⟩ := hy
  have : yl = l := by
    rcases h with h | h <;> simp only [h, List.mem_cons, List.not_mem_nil, or_false] at hm
    · exact hm
    · rcases hm with rfl | rfl
      · simp [ebb8] at h3
      · rfl
  subst this
  simp_all

/-- No gang is before itself. -/
theorem before_irrefl (p : Partition) (x : Spec.Waiter) : ¬ Spec.before p x x := by simp [Spec.before]

theorem witness_PlacementEventResults :
    (let s := oneQueued
    s.part? 0 = some part0 ∧ (s.launches.map fun l => l.lid).Nodup ∧ Spec.queues s part0 waiter9
      ∧ (∀ y d js, Spec.queues s part0 y → Spec.canGo s part0 y d js → ¬ Spec.before part0 y waiter9) ∧ Spec.canGo s part0 waiter9 0 [0]
      ∧ ∀ d js, Spec.canGo s part0 waiter9 d js → Spec.clusterFree s 0 < Spec.clusterFree s d
        ∨ (Spec.clusterFree s 0 = Spec.clusterFree s d ∧ 0 ≤ d))
    ∧ (let s := crowded
    s.part? 0 = some part0 ∧ (s.launches.map fun l => l.lid).Nodup ∧ Spec.candidate s part0 (waiter9 fun l => { l with w0 := some 0 }) 0
      ∧ (∃ c ks, Spec.gatherOn s part0 (waiter9 fun l => { l with w0 := some 0 }) c ks)
      ∧ ∀ y v d js, Spec.candidate s part0 y v → Spec.gatherOn s part0 y d js →
        ¬ Spec.before part0 y (waiter9 fun l => { l with w0 := some 0 }))
    ∧ (let s : State := { oneQueued with launches := [] }
    ((∀ x c ks, Spec.queues s part0 x → ¬ Spec.canGo s part0 x c ks)
      ∧ ∀ x w0 c ks, Spec.candidate s part0 x w0 → ¬ Spec.gatherOn s part0 x c ks)) := by
  have alone {f : Launch → Launch} {s : State} (h : s.launches = [queued9 f] ∨ s.launches = [ebb8, queued9 f])
      (hf : (queued9 f).rcd = some { demoRec with deadline := 1000000 } ∧ (queued9 f).kern = some spotBody ∧ (queued9 f).gangs = []
        ∧ (queued9 f).next = 0) (y : Spec.Waiter) (hy : Spec.queues s part0 y) : y = waiter9 f :=
    waits_alone s _ h hf.1 hf.2.1 hf.2.2.1 hf.2.2.2 y hy
  have free (s : State) (h : s.blocks = []) (c d : Nat) : Spec.clusterFree s c = Spec.clusterFree s d := by
    simp [Spec.clusterFree, blocksOn_empty s h]
  refine ⟨⟨by decide +kernel, by decide, ?_, ?_, ?_, ?_⟩, ⟨by decide +kernel, by decide, ⟨?_, ?_, rfl, by decide, by decide +kernel, ?_⟩, ⟨0, [0], ?_⟩, ?_⟩, ?_, ?_⟩
  · exact ⟨.head _, rfl, rfl, rfl, .inl rfl, rfl, by decide, .inr ⟨rfl, by decide⟩⟩
  · rintro y - - hy - hb
    exact before_irrefl _ _ (alone (f := id) (.inl rfl) ⟨rfl, rfl, rfl, rfl⟩ y hy ▸ hb)
  · refine ⟨by decide, by decide, ?_, rfl, bestFit_zero _ 0 _ _ (by intro g h; cases h) takes_empty fun k => rfl⟩
    rintro ⟨l, g, hl, he, -⟩
    cases List.mem_singleton.1 hl
    exact he rfl
  · exact fun d _ _ => .inr ⟨free _ rfl 0 d, Nat.zero_le _⟩
  · exact ⟨.tail _ (.head _), rfl, rfl, rfl, .inl rfl, rfl, by decide, .inr ⟨rfl, by decide⟩⟩
  · exact fun g _ => Nat.zero_le _
  · rintro c ks ⟨h1, h2, h3, -⟩
    refine h3 ⟨ebb8, ⟨c, .parked, c, 0⟩, .head _, by simp [ebb8], ?_, rfl, .inl rfl⟩
    exact List.mem_map.2 ⟨c, List.mem_range.2 (cluster_lt c h2), rfl⟩
  · exact ⟨by decide, by decide, by decide +kernel, seats_zero _ _ takes_empty⟩
  · rintro y v - - hy - hb
    exact before_irrefl _ _ (alone (.inr rfl) ⟨rfl, rfl, rfl, rfl⟩ y hy.1 ▸ hb)
  · rintro x c ks hx; cases hx.1
  · rintro x w c ks hx; cases hx.1.1

/-- The demo's gang at a status, as it waits to resume. -/
def restAt (st : BlockSt) (s : State := paged) : State := gangAt st (if st = .saved then .saved else .parked) s

/-- A block needs what its kernel does; no core of the cluster holds anything while every block rests. -/
theorem resting (s : State) (hs : ∀ b, b ∈ s.blocks → b.onCore = false ∧ b.st ≠ .ended) (c k : Nat) : s.blocksOn c k = [] := by
  simp only [State.blocksOn, List.filter_eq_nil_iff]
  intro b hb; simp [hs b hb]

/-- No core seats a block that has none to go to. -/
theorem no_seat (s : State) (c : Nat) (ok : Nat → Prop) (n : Need) (h : ∀ k, k < 48 → ok k → ¬ Spec.takes (s.blocksOn c k) n) (ks : List Nat) :
    ¬ Spec.bestFit s c ok [n] ks := by
  rintro ⟨⟨hl, -, hk⟩, -⟩
  obtain ⟨k, rfl⟩ := List.length_eq_one_iff.1 hl
  have := hk 0 k n rfl rfl
  exact h k this.1 this.2.1 this.2.2

theorem witness_GatherLimits : (let s (g : Gather) : State := { paged with gathers := [g], now := 500000 }
    ([⟨0, 9, 0, 600000, [0], false⟩, ⟨0, 9, 0, 1, [0], true⟩, ⟨0, 9, 0, 500000, [0], false⟩] : List Gather).all fun g =>
      (s g).gatherOf 0 == some g) = true := by decide +kernel

theorem witness_SaveAndResumeResults :
    (let bs (s : State) : List Block := (s.gangBlocks 1 0).filter fun b => b.st != .ended
    (let l := bs (gangAt .saving .placed)
    let s := gangAt .saving .placed
    let x := l.zip [0x2F00000]
    !l.isEmpty && (l.all fun b => b.st == .saving && b.drained) && l.length == 1
      && x.all fun x => s.saveArea x.1.part x.2 x.1.image.length
        && (granulesOf x.2 x.1.image.length).all fun g => !s.poison.contains g)
    && (bs (gangAt .resident .placed)).any fun b => b.st != .saving)
    && ([.parked, .saved] : List BlockSt).all (fun st =>
      let s := restAt st
      let all := s.gangBlocks 1 0
      all.length == 1 && decide (s.blocks.map fun b => b.key).Nodup && (all.mapM s.rebuilt).isSome && !all.any s.imageBad
        && (match s.launch? 1 with
        | some l => l.ebbAt.isNone && (match l.gang? 0 with | some g => g.st == .parked || g.st == .saved | none => false)
        | none => false))
    -- A saved block with its image in memory, with none there, and with one that a bad granule spoils.
    && (let image := bareGang.blocks.flatMap Block.image
      let s := launchOf (fun l => { l with gangs := [⟨0, .saved, 0, 0⟩] }) (blockOf (fun b => { b with st := .saved, area := some (0x2F00000, image.length) }) bareGang)
      let t : State := { s with dram := ⟨(image.zipIdx.filter fun x => x.1 != 0).map fun x => (0x2F00000 + x.2, x.1)⟩ }
      let back (s : State) : Bool := ((s.gangBlocks 1 0).mapM s.rebuilt).isSome
      let bad : State := { t with poison := [0x2F00000 / 32] }
      back t && !back s && (bad.gangBlocks 1 0).any bad.imageBad) = true := by
  decide +kernel

theorem witness_PlaceToResume :
    ∀ st, st = .parked ∨ st = .saved → let s := restAt st
      let place (s : State) := Spec.bestFit s 0 (fun k => ∀ x, s.gatherOf 0 = some x → k ∉ x.target) ((s.gangBlocks 1 0).map Block.need)
      ¬ Spec.ebbAhead s 0 ∧ place s [0] ∧ ∀ ks, ¬ place { s with gathers := [⟨0, 9, 0, 5, List.range 48, true⟩] } ks := by
  intro st hst
  have hr : ∀ c k, (restAt st).blocksOn c k = [] := resting _ (by rcases hst with rfl | rfl <;> decide +kernel)
  have hn : ((restAt st).gangBlocks 1 0).map Block.need = [spotBody.need false] := by rcases hst with rfl | rfl <;> decide +kernel
  refine ⟨?_, ?_, fun ks => ?_⟩
  · rintro ⟨l, g, hl, he, -⟩
    obtain ⟨l0, h0, rfl⟩ := List.mem_map.1 hl
    cases List.mem_singleton.1 h0
    exact he rfl
  · show Spec.bestFit _ _ _ _ _
    rw [hn]
    exact bestFit_zero _ 0 _ _ (by intro g h; cases h) (hr 0 0 ▸ takes_empty) fun k => by rw [hr, hr]
  · show ¬ Spec.bestFit _ _ _ (((restAt st).gangBlocks 1 0).map Block.need) _
    rw [hn]
    exact no_seat _ 0 _ _ (fun k hk h _ => h _ rfl (List.mem_range.2 hk)) ks

/-- Launch 9 keeps every core of cluster 0, and the demo's parked gang, in EBB, has no room. -/
def filled : State :=
  let s := restAt .parked
  { s with
    blocks := s.blocks ++ (List.range 48).map fun k => { spotBlock 9 false with key := ⟨9, 0, k⟩, core := k }
    launches := (s.launches.map fun l => { l with ebbAt := some 7, rcd := some demoRec, wrap := some 0 }) ++ [{ spotLaunch 9 false with rcd := some demoRec }] }

theorem witness_DeadlineEventResults :
    (let l (s : State) (p : Launch → Bool) : Bool := match s.launch? 1 with | some l => p l | none => false
    let s (now : Nat) : State := { launchOf (fun l => { l with rcd := some demoRec, wrap := some 0 }) with now }
    l (s 999) (fun l => l.rcd == some demoRec) && demoRec.deadline == 1000
    && l (s 1000) (fun l => l.st == .running && l.ebbAt.isNone && l.status.isNone && l.counter == 1)
    -- No wrap-up entry, and gangs in every state.
    && l (launchOf fun l => { l with rcd := some demoRec, gangs := [⟨0, .placed, 0, 0⟩, ⟨1, .parked, 0, 0⟩, ⟨2, .saved, 0, 0⟩, ⟨3, .unplaced, 0, 0⟩] })
      (fun l => l.wrap.isNone && decide (l.gangs.map fun g => g.idx).Nodup))
    && decide ((demo.blocks.map fun b => b.warps.map fun w => w.num) = [[0]])
    && (let s (now : Nat) : State := { launchOf (fun l => { l with ebbAt := some 7, budget := 5, gangs := [⟨0, .placed, 0, 0⟩] }) with now }
    ([11, 12] : List Nat).all fun n => match (s n).launch? 1 with | some l => l.ebbAt == some 7 && l.status.isNone | none => false)
    && ([0, 4096 * 512 - 1, 4096 * 512] : List Nat).all (fun n =>
      let s := paged (warpOf fun w => { w with wdog := n })
      match s.block? ⟨1, 0, 0⟩, s.part? 0, s.launch? 1 with
      | some b, some p, some l => p.wdog.toNat % 2 ^ 16 == 512 && b.kind == .kernel && b.onCore && (l.gang? 0).isSome && b.part == 0
        && (match b.warp? 0 with | some x => x.wdog == n && !x.ended | none => false)
      | _, _, _ => false) = true := by decide +kernel

theorem witness_ResumeIntoWrapUp :
    (∃ l g back, filled.launch? 1 = some l ∧ l.gang? 0 = some g ∧ g.st = .parked ∧ g.cluster = 0 ∧ l.ebbAt ≠ none ∧ l.wrap = some 0
      ∧ l.rcd.map (·.pri) = some demoRec.pri
      ∧ (let needs := (filled.gangBlocks 1 0).map Block.need
        (∀ ks, ¬ Spec.bestFit filled 0 (fun _ => True) needs ks) ∧ ∃ js, Spec.seats (fun k n => k ∉ filled.ebbClaims l 0 0
          ∧ Spec.takes ((filled.blocksOn 0 k).filter fun b => !filled.yields b demoRec.pri) n) needs js)
      ∧ (let s : State := { filled with blocks := (restAt .parked).blocks }
        Spec.bestFit s 0 (fun _ => True) ((s.gangBlocks 1 0).map Block.need) [0] ∧ (s.blocks.map fun b => b.key).Nodup
          ∧ (s.gangBlocks 1 0).mapM s.rebuilt = some back ∧ (s.gangBlocks 1 0).any s.imageBad = false)) := by
  refine ⟨_, _, _, rfl, rfl, rfl, rfl, by decide, rfl, rfl, ⟨?_, [0], seats_zero _ (spotBody.need false) ⟨by decide +kernel, ?_⟩⟩, ?_, by decide +kernel,
    rfl, by decide +kernel⟩
  · refine no_seat _ 0 _ (spotBody.need false) fun k hk _ h => ?_
    have hb : ({ spotBlock 9 false with key := ⟨9, 0, k⟩, core := k } : Block) ∈ filled.blocksOn 0 k :=
      List.mem_filter.2 ⟨List.mem_append_right _ (List.mem_map.2 ⟨k, List.mem_range.2 hk, rfl⟩), by simp; exact ⟨⟨rfl, rfl⟩, .inl rfl⟩⟩
    exact absurd (show true = false from h.2.2.2 rfl _ hb rfl) (by decide)
  · have : (filled.blocksOn 0 0).filter (fun b => !filled.yields b demoRec.pri) = [] := by
      rw [← List.isEmpty_iff]; decide +kernel
    rw [this]; exact takes_empty
  · have hr := resting { filled with blocks := (restAt .parked).blocks } (by decide +kernel)
    exact bestFit_zero _ 0 _ (spotBody.need false) trivial (hr 0 0 ▸ takes_empty) fun k => by rw [hr, hr]

theorem witness_DebugAndDeviceResults :
    (let u : Undo := ⟨0, 0, 5, [], [], [], none, some (0, 1, []), [], [], []⟩
    let s (f : Warp → Warp) : State :=
      blockOf (fun b => { b with debug := true, rows := [], scr := Scratch.fresh 0, kern := { b.kern with matrix := false } })
        (warpOf fun w => f { w with halted := true })
    let ok (s : State) (stopped still : Bool) (p : Block → Warp → Bool) : Bool := s.gangStopped 1 0 == stopped && s.gangStill 1 0 == still
      && match s.block? ⟨1, 0, 0⟩ with
        | some b => b.kind == .kernel && b.st != .ended && (match b.warp? 0 with | some w => !w.ended && p b w | none => false) | none => false
    ok (s id) true true (fun b w => w.undo.isEmpty && (b.loadImage [] 1 true).isNone && (b.loadImage b.image 1 true).isSome
      && (s id).fetch b w != .brk)
    && ok (s fun w => { w with undo := [u, u] }) true true (fun b w => w.undo == [u, u] && b.engineDone ⟨b.key, w.num⟩)
    && (let s := s fun w => { w with undo := [u, u] }
      decide (s.blocks.map (·.key)).Nodup && (s.blocks.all fun b => decide (b.warps.map (·.num)).Nodup && b.onCore && decide (s.poolUsed b ≤ 240))
        && (s.blocks.flatMap fun b => b.warps.map fun w => w.undo.length).sum == 2)
    && ok (s fun w => { w with stepOne := true }) true false (fun _ _ => true) && ok demo false false (fun _ _ => true)
    && ([0, 2] : List Word).all fun flags => match (launchOf (fun l => { l with rcd := some { demoRec with flags } }) (s id)).launch? 1 with
      | some l => (match l.rcd with | some r => r.debug == (flags == 2) | none => false) | none => false)
    && (demo.blocks.all fun b => match demo.launch? b.key.lid with | some l => (l.gang? b.key.gang).isSome | none => false)
    && ({ demo with frozen := true } : State).frozen && !demo.frozen && decide (demo.dumps.length < 16)
    && (let d (r : Bool) : Dump := ⟨[], [], r⟩
      ([[d true, d true] ++ d false :: List.replicate 13 (d false), List.replicate 16 (d true)] : List (List Dump)).all fun l => l.length == 16)
    && ([.tick 8, .fenceSc] : List WarpSt).all (fun st => match (warpOf fun w => { w with st }).ctxAt ⟨⟨1, 0, 0⟩, 0⟩ with
      | some c => c.w.st == st && c.s.blocks.length == 1 && c.b.warps.length == 1 | none => false) = true := by decide +kernel

/-- An operation of 4-byte chunks with no inputs and no notify. -/
def twOp (op : TwKind) (redop : Nat := 0) (narr : Nat := 0) (peer : Nat := 0) : TwOp :=
  ⟨op, redop, 0, 2, narr, if op == .wait then 0 else 4, 0, 0, false, peer, false, 0, [], 1, false⟩
/-- Schedule 7 at position 0 of 2, the other of rank 3: a SEND, RECV, RED, RED.dispatch, COPY, WAIT and a RECV with a notify. -/
def twSched : Sched := ⟨7, 0, 0, 2, 1000, 10, 1, [twOp .send (peer := 1), twOp .recv 0 1, twOp .red 0 1, twOp .red 3 1, { twOp .copy with kb := 1 }, twOp .wait 0 1,
  twOp .recv 0 1 1], [⟨0, 0, 100, 5⟩], [0, 3], 0⟩
/-- Nothing of an operation has happened. -/
def idleOp : TwOpSt := ⟨false, false, none, false, none, 0⟩
/-- Instance 1 of it, based at an address, its operations changed. -/
def twInst (ib : DWord) (f : TwInst → TwInst := id) : TwInst :=
  f ⟨7, 1, 0, ib, .running, 0, 0x1FF, List.replicate 7 idleOp, none, [(0, 1)], 0, [], none⟩
/-- A chunk of the other position for an operation. -/
def chunkFor (kind top : Nat) : Chunk := ⟨kind, 0, 7, 1, top, 1, 9, 4, [(1, false), (2, false), (3, false), (4, false)]⟩
/-- The engine of die 0 with the schedule, an instance, credit for its peer and held chunks. -/
def twDemo (i : TwInst) (held : List Chunk := []) (credit : Nat := 1) (s : State := coded) : State :=
  engineOf (fun e => { e with scheds := [{ twSched with starts := 1 }], insts := [i], held, credit := [(3, credit)], table := e.table.set 0 i.entryOf })
    { s with jobs := [job5] }

/-- A chunk may leave. -/
def mayLeave (s : State) (c : Sched) (order : Nat) : Bool :=
  @decide (Spec.MayLeave s 0 c 1 3 order 1) (by delta Spec.MayLeave; infer_instance)

theorem witness_TidewayFiringResults :
    (let r (n : Nat) : OpRef := ⟨0, 7, 1, n⟩
    let ok (s : State) (n : Nat) (k : TwKind) (p : Ready → Bool) : Bool := match s.ready (r n) with
      | some x => decide (n < x.i.ops.length) && x.o.op == k && p x | none => false
    let chunk (n : Nat) (ib : DWord := 0x1000) (s : State := coded) : State := twDemo (twInst ib) [chunkFor 1 n] 1 s
    let kept (s : State) (n : Nat) : Bool := !((s.engine 0).heldFor (r n)).isEmpty
    let read (s : State) (x : Ready) (n : Nat) (u : State := s) : State × Option (List (Byte × Bool) × Option (Nat × DWord)) :=
      u.twRead (x.i.who n 0 (if n = 0 then 0 else 4)) x.c.asker (x.c.addr x.i.ib x.o.len x.o.k x.o.rot) x.o.len
    let put (s : State) (x : Ready) (n : Nat) : Option (Option Nat) :=
      (s.twPut (x.i.who 1 0 n) x.c.asker (x.c.addr x.i.ib x.o.len x.o.k x.o.rot) (chunkFor 1 1).data).2
    let red (s : State) (x : Ready) : Option (Option Nat) := (s.twReduce 0 (x.i.who 2 0 2) x.c.asker (x.o.redop + 1) x.o.rtype
      (x.c.addr x.i.ib x.o.len x.o.k x.o.rot) (chunkFor 1 2).data).2
    let send (s : State) (p : Option (List (Byte × Bool) × Option (Nat × DWord)) → Bool) : Bool :=
      ok s 0 .send fun x => mayLeave s x.c (s.engine 0).fireNo && p (read s x 0 (s.fire 0 x.i 0).1).2
    -- A SEND: no credit; its page waits; clean bytes; poison; an address of no package.
    ok (twDemo (twInst 0x1000) [] 0) 0 .send (fun x => !mayLeave (twDemo (twInst 0x1000) [] 0) x.c 0)
    && send (twDemo (twInst 0x1000) [] 1 (coded walked)) (fun b => b.isNone)
    && send (twDemo (twInst 0x1000)) (fun b => match b with | some (bs, none) => !bs.any (·.2) | _ => false)
    && send (twDemo (twInst 0x1000) [] 1 { coded with poison := [phys 0x1000 / 32] }) (fun b => match b with | some (bs, _) => bs.any (·.2) | _ => false)
    && send (twDemo (twInst nowhere)) (fun b => match b with | some (bs, some _) => !bs.any (·.2) | _ => false)
    -- RECV, RED and RED.dispatch: the page waits, the bytes are written, an address of no package.
    && ([(chunk 1 0x1000 (coded walked), none), (chunk 1, some none), (chunk 1 nowhere, some (some 4))] : List (State × Option (Option Nat))).all
      (fun y => kept y.1 1 && ok y.1 1 .recv fun x => put y.1 x 1 == y.2)
    && ([(chunk 2 0x1000 (coded walked), none), (chunk 2, some none), (chunk 2 nowhere, some (some 4))] : List (State × Option (Option Nat))).all
      (fun y => kept y.1 2 && ok y.1 2 .red fun x => x.o.redop != 3 && red y.1 x == y.2)
    && ([(chunk 3 0x1000 (coded walked), none), (chunk 3, some none), (chunk 3 nowhere, some (some 4))] : List (State × Option (Option Nat))).all
      (fun y => kept y.1 3 && ok y.1 3 .red fun x => x.o.redop == 3 && put y.1 x 3 == y.2
        && (lookupN x.i.slots x.o.dslot).getD 1 - 1 == 0 && (x.c.descs[x.o.dslot]?).isSome && (y.1.job? x.c.part 5).isSome
        && match y.1.code? x.c.part 0 with | some co => co.kernels.length == 1 | none => false)
    && ok (twDemo (twInst 0x1000 fun i => { i with slots := [(0, 2)] }) [chunkFor 1 3]) 3 .red (fun x => (lookupN x.i.slots x.o.dslot).getD 1 - 1 != 0)
    -- COPY: its source's page waits; poison; a faulting source; a destination that waits, faults, and is written.
    && ok (twDemo (twInst 0x1000) [] 1 (coded walked)) 4 .copy (fun x => (read (twDemo (twInst 0x1000) [] 1 (coded walked)) x 3).2.isNone)
    && (let s := twDemo (twInst 0x1000) [] 1 { coded with poison := [phys 0x1000 / 32] }
      ok s 4 .copy fun x => match (read s x 3).2 with | some (bs, _) => bs.any (·.2) | _ => false)
    && (let s := twDemo (twInst nowhere)
      ok s 4 .copy fun x => match (read s x 3).2 with | some (bs, some _) => !bs.any (·.2) | _ => false)
    && ([(twDemo (twInst 0x1FFFFC) [] 1 (coded enabled), none), (twDemo (twInst 0x1FFFFC), some (some 4)), (twDemo (twInst 0x1000), some none)]
        : List (State × Option (Option Nat))).all (fun y => ok y.1 4 .copy fun x => match read y.1 x 3 with
      | (s1, some (bs, none)) => !bs.any (·.2)
        && (s1.twPut (x.i.who 4 0 4) x.c.asker (x.c.addr x.i.ib x.o.len x.o.kb x.o.rotb) bs).2 == y.2
      | _ => false)
    && ok (twDemo (twInst 0) [chunkFor 2 5]) 5 .wait (fun x => x.o.narr ≤ (senders (((twDemo (twInst 0) [chunkFor 2 5]).engine 0).heldFor (r 5))).length)
    && ok (twDemo (twInst 0)) 5 .wait (fun x => (senders (((twDemo (twInst 0)).engine 0).heldFor (r 5))).length < x.o.narr)) = true := by
  decide +kernel

/-- A chunk header: kind, instance, target operation, word. -/
def hdrOf (kind inst top word : Nat) (sched : Nat := 7) : List Byte :=
  leBytes 1 kind ++ [0] ++ leBytes 2 sched ++ leBytes 2 inst ++ leBytes 2 top ++ leBytes 2 1 ++ leBytes 2 9 ++ leBytes 4 word

theorem witness_ArrivingChunkResults :
    (let s := twDemo (twInst 0)
    let e := s.engine 0
    let taken (h : List Byte) (kind : Nat) (p : Chunk → Sched → Bool) : Bool := match parseHdr kind h with
      | some k => (match e.taker k 3 with | some c => p k c | none => false) | none => false
    s.hasTideway
    && (match parseHdr 1 (hdrOf 1 1 1 4 8) with | some k => (e.taker k 3).isNone | none => false)
    && taken (hdrOf 2 1 50 0) 2 (fun k c => (c.ops[k.top]?).isNone)
    && taken (hdrOf 1 1 5 4) 1 (fun k c => match c.ops[k.top]? with | some o => o.op == .wait | none => false)
    && taken (hdrOf 2 1 5 0) 2 (fun k c => (match c.ops[k.top]? with | some o => o.op == .wait | none => false)
      && e.window c k.inst == .inside && (match e.inst? k.sched k.inst with | some j => j.st == .running && !(j.opSt 5).fired | none => false) && e.held.isEmpty)
    && taken (hdrOf 1 1 1 4) 1 (fun k c => (match c.ops[k.top]? with | some o => o.op == .recv && o.len == 4 && k.word.toNat == o.len | none => false)
      && e.window c k.inst == .inside && (match e.inst? 7 1 with | some j => !(j.opSt 1).fired | none => false))
    && taken (hdrOf 1 3 1 4) 1 (fun k c => e.window c k.inst == .beyond && (e.inst? k.sched k.inst).isNone)
    && taken (hdrOf 1 0 1 4) 1 (fun k c => e.window c k.inst == .past && (e.inst? k.sched k.inst).isNone)
    -- An operation that fired, its token given or not; a chunk that is known; a store that is full; no window given it yet.
    && ([true, false] : List Bool).all (fun token => match ((twDemo (twInst 0 fun i => i.updOp 1 fun x => { x with fired := true, token })).engine 0).inst? 7 1 with
      | some j => j.st == .running && (j.opSt 1).fired && (j.opSt 1).token == token | none => false)
    && (((twDemo (twInst 0) [chunkFor 1 1]).engine 0).held.any fun h => h.inst == 1 && h.top == 1 && h.pos == 1 && h.opIx == 9)
    && e.room twSched (chunkFor 1 1) && !((twDemo (twInst 0) (List.replicate 4096 (chunkFor 1 2))).engine 0).room twSched (chunkFor 1 1)
    && (let e : TwEngine := { e with insts := [] }
      [(1, Window.past), (2, .inside), (4, .beyond)].all fun x => e.window { twSched with starts := 1 } x.1 == x.2 && (e.inst? 7 x.1).isNone)
    && (match ((twDemo (twInst 0 fun i => { i with st := .failed, kind := 2 })).engine 0).inst? 7 1 with | some j => j.st == .failed | none => false)
    && taken (hdrOf 7 1 0 4) 7 (fun k _ => match e.inst? k.sched k.inst with | some j => j.st == .running | none => false)
    -- An instance that has ended is named while it is among the latest 2^15 starts, and no longer after them.
    && ([(1, true), (32768, true), (32769, false), (0, false)] : List (Nat × Bool)).all (fun x =>
      let e := (twDemo (twInst 0 fun i => { i with st := .complete })).engine 0
      (match e.inst? 7 1 with | some j => !j.live | none => false) && decide ((x.1 + 65536 - 1) % 65536 < 32768) == x.2
        && (e.named? { twSched with starts := x.1 } 1).isSome == x.2)) = true := by
  decide +kernel

/-- The header of a reply to position 0 from position 1, for an operation. -/
def replyHdr (kind opIx : Nat) : List Byte :=
  leBytes 1 kind ++ [0] ++ leBytes 2 7 ++ leBytes 2 1 ++ leBytes 2 0 ++ leBytes 2 1 ++ leBytes 2 opIx ++ leBytes 4 0
/-- A transfer in flight of the SEND and of the notify, at an instance state. -/
def flying (f : Flight) (st : TwSt := .running) : TwInst := twInst 0x1000 fun i => { i with
  st
  ops := [{ idleOp with fired := true, flight := some f, order := 1 }] ++ List.replicate 5 idleOp
    ++ [{ idleOp with fired := true, token := true, flight := some f, order := 2 }] }
/-- An instance that has failed, with a FAIL chunk on its way. -/
def failing (f : Flight) : TwInst := twInst 0x1000 fun i => { i with st := .failed, kind := 4, fpos := 0, failing := [(1, f)] }

theorem witness_TidewayReplyResults :
    (([.running, .recovery] : List TwSt).all (fun st => [3, 4, 5, 6].all fun kind => [0, 6].all fun n =>
      ([⟨0, 0, false, false⟩, ⟨2, 0, false, false⟩, ⟨1, 0, true, false⟩] : List Flight).all fun f =>
        ((twDemo (flying f st)).replyTo 0 3 kind (replyHdr kind n)).isSome)
    && ([⟨14, 0, false, false⟩, ⟨15, 0, false, false⟩, ⟨3, 0, true, false⟩] : List Flight).all (fun f => [3, 4].all fun kind =>
      let s := twDemo (failing f)
      (s.replyTo 0 3 kind (replyHdr kind 0)).isNone && (match s.failReply 0 3 kind (replyHdr kind 0) with
        | some (_, i, q, g) => i.st == .failed && q == 1 && g == f | none => false))
    && (twOp .send (peer := 1)).retry == 2
    && ([0, 1] : List Nat).all (fun credit =>
      let s := twDemo (flying ⟨0, 0, false, false⟩) [] credit
      mayLeave s { twSched with starts := 1 } 1 == (credit == 1) && mayLeave s { twSched with starts := 1 } 2 == (credit == 1)
        && mayLeave s { twSched with starts := 1 } 0 == (credit == 1))
    -- Times at their limits: ACKTO 1,000 ns, for a transfer and a FAIL, and ITIMEOUT 10 µs.
    && ([999, 1000] : List Nat).all (fun now =>
      let s : State := { twDemo (flying ⟨0, 0, false, false⟩) with now }
      match (s.engine 0).sched? 7, (s.engine 0).inst? 7 1 with
      | some c, some i => c.ackto == 1000 && c.itimeout == 10 && (i.opSt 0).flight == some ⟨0, 0, false, false⟩ && i.st == .running && i.last == 0
        && i.stallAt.isNone
      | _, _ => false)
    && (match ((twDemo (failing ⟨0, 0, false, false⟩)).engine 0).inst? 7 1 with
      | some i => lookupN i.failing 1 == some ⟨0, 0, false, false⟩ | none => false)
    -- What waits for a rank when its peer grants credit: nothing, a SEND, a notify.
    && (let e (i : TwInst) : TwEngine := (twDemo i [] 0).engine 0
      let wait (f : Flight) (n : Nat) : TwInst := twInst 0x1000 fun i => i.updOp n fun x => { x with fired := true, token := decide (n = 6), flight := some f, order := 3 }
      ((e (twInst 0)).waiting 3).isEmpty && ((e (twInst 0)).failsTo 3).isEmpty
      && ([0, 6] : List Nat).all fun n => (e (wait ⟨0, 0, true, false⟩ n)).waiting 3 == [(3, ⟨0, 7, 1, n⟩)] && ((e (wait ⟨0, 0, true, false⟩ n)).failsTo 3).isEmpty)
    && ([(.completed, 0), (.gangFailed, 1)] : List (Status × Nat)).all (fun st =>
      let s : State := { twDemo (twInst 0 fun i => i.updOp 3 fun x => { x with fired := true, src := some (1, 9) }) with
        launches := [{ launch9 [] with origin := .reduce 0 7 1 0, status := some st }] }
      (match s.launch? 9 with | some l => l.origin == .reduce 0 7 1 0 && l.status == some st | none => false)
      && match (s.engine 0).sched? 7, (s.engine 0).inst? 7 1 with
        | some c, some i => i.st == .running && (i.opSt 3).src == some (1, 9) && (match c.ops[3]? with | some o => o.op == .red && o.redop == 3 && o.dslot == 0 | none => false)
        | _, _ => false)) = true := by decide +kernel

/-- A load record at 0x1000 of a schedule of one WAIT without arrivals, whose image stands at 0x2000. -/
def loadable : State :=
  let s := enabled
  { s with dram := ((((((((s.dram.writeN (phys 0x1000) (leBytes 8 0x2000)).writeN (phys 0x1008) (leBytes 2 7)).writeN (phys 0x100C) (leBytes 2 2)).writeN
    (phys 0x1010) (leBytes 4 1000)).writeN (phys 0x1018) (leBytes 2 1)).writeN (phys 0x1222) (leBytes 2 3)).writeN
    (phys 0x2000) (leBytes 4 0x31535754 ++ leBytes 2 1 ++ leBytes 2 2)).writeN
    (phys 0x2040) (leBytes 16 (5 + 0xFFF * 2 ^ 76 + 0xFFF * 2 ^ 88 + 0xFFF * 2 ^ 100 + 0xFFF * 2 ^ 112))) }

theorem witness_ScheduleAndStartResults :
    (let loads (s : State) (addr : DWord) (p : State → List Byte → List Byte → Bool) : Bool := match s.fwRead [12, 0, 0] 0 addr 0x220 with
      | (s1, some hd) => decide (fieldAt hd 0x0C 2 ≤ 512) && s1.deviceMemory (BitVec.ofNat 64 (fieldAt hd 0 8))
        && (match s1.fwRead [12, 0, 0] 0 (addr + 0x220) (2 * fieldAt hd 0x0C 2) with
          | (s2, some ranks) => (match s2.fwRead [12, 0, 0] 0 (BitVec.ofNat 64 (fieldAt hd 0 8)) 0x40 with
            | (s3, some head) => decide (fieldAt head 4 2 ≤ 4096) && (match s3.fwRead [12, 0, 0] 0 (BitVec.ofNat 64 (fieldAt hd 0 8) + 0x40) (16 * fieldAt head 4 2) with
              | (s4, some ops) => p s4 (hd ++ ranks) (head ++ ops) | _ => false)
            | _ => false)
          | _ => false)
      | _ => false
    (walked.fwRead [12, 0, 0] 0 0x1000 0x220).2.isNone && walked.deviceMemory 0x1000 && loadable.deviceMemory 0x1000 && !loadable.deviceMemory nowhere
    && loads loadable 0x1000 (fun s4 a b => (s4.parseSched 0 0 a b).isSome) && loadable.hasTideway
    && loads loadable 0x8000 (fun s4 a b => (s4.parseSched 0 0 a b).isNone))
    && (let s := twDemo (twInst 0)
      let t := twDemo (twInst 0 fun i => { i with st := .complete })
      ((s.engine 0).insts.any fun i => i.sched == 7 && i.live) && (t.engine 0).insts.all (fun i => !i.live)
      && match (t.engine 0).sched? 7 with | some c => c.part == 0 | none => false)
    && (let q (n : Nat) (w : Option (WarpId × Nat)) (d : Option Due) : TwStart := ⟨n, 0x40, w, d⟩
      let due : Due := ⟨0x40, true, 0, 3, .completed, 0, 0, 5, 9, 0, none, none⟩
      let s (x : TwStart) : State := engineOf (fun e => { e with queue := [x, x] }) (twDemo (twInst 0))
      ([q 8 (some (⟨⟨1, 0, 0⟩, 0⟩, 4)) none, q 8 none (some due)] : List TwStart).all (fun x => (s x).engines[0].queue == [x, x]
        && (((s x).engine 0).sched? x.sched).isNone)
      && ([q 7 (some (⟨⟨1, 0, 0⟩, 0⟩, 4)) none, q 7 none (some due)] : List TwStart).all (fun x => (((s x).engine 0).sched? x.sched).isSome)
      && (match (s (q 7 none none)).engines[0].table[0]?, (s (q 7 none none)).engines[0].table[1]? with
        | some a, some b => a.state == 1 && b.state == 0 | _, _ => false)
      && (let full := engineOf (fun e => { e with table := Vector.replicate 64 ⟨1, 1, 0, 0x1FF, 7⟩ }) (s (q 7 none none))
        (List.range 65).all fun n => match (full.engine 0).table[n]? with | some x => x.state == 1 || x.state == 2 | none => true)) = true := by decide +kernel

/-- A code object of a number of kernels at the page 32 of `walked`, at its frame 64. -/
def codeAt (kernels size : Nat) : State :=
  let w (s : State) (k : Nat) (bs : List Byte) : State := { s with dram := s.dram.writeN (0x400000 + k) bs }
  w (w (w (w (w walked 0 (leBytes 4 0x4E4C5946 ++ leBytes 2 1 ++ leBytes 2 1)) 8 (leBytes 4 kernels)) 0x10 (leBytes 8 size)) 0x18 (leBytes 8 64)) 0x20 (leBytes 8 64)

/-- An image of one kernel of one warp and no prologue, its body a MACQ and a GIVE. -/
def oneKernel (flags : Nat) : List Byte :=
  leBytes 4 0x4E4C5946 ++ leBytes 4 0x10001 ++ leBytes 4 1 ++ leBytes 4 0 ++ leBytes 8 136 ++ leBytes 8 64 ++ leBytes 8 64 ++ leBytes 24 0
    ++ leBytes 4 128 ++ leBytes 4 8 ++ leBytes 2 0x101 ++ leBytes 2 flags ++ leBytes 8 0 ++ leBytes 4 0xFFFFFFFF ++ leBytes 4 0xFFFFFFFF
    ++ leBytes 36 0
    ++ ([Instr.macq 1, Instr.give 3 4].flatMap fun i => match i.words with | some (w, _) => leBytes 4 w.toNat | none => [])

theorem witness_CodeAndRecordResults :
    (let reads (s : State) (p : State → List Byte → Bool) : Bool := match s.readCode 0 1 0x200000 64 with
      | (s1, some (hd, false)) => codeHeaderOk hd && (match s1.readCode 0 1 0x200000 (fieldAt hd 0x10 8) with
        | (s2, some (img, false)) => p s2 img | _ => false)
      | _ => false
    reads (codeAt 1 128) (fun _ img => (parseImage img).isNone)
    && reads (codeAt 0 64) (fun s2 img => (parseImage img).isSome && s2.pagesMapped 0 1 32 1 && !s2.pagesMapped 0 1 31 1 && s2.dram.wf
      && img.length == 64)
    && !codeHeaderOk (List.replicate 64 0)
    -- An image of one kernel, with its handoff and matrix flags, whose body is a MACQ and a GIVE, and without them.
    && ([3, 1, 2] : List Nat).map (fun flags => (parseImage (oneKernel flags)).isSome) == [true, false, false])
    -- Replies that have not left: one of a page without a meter, one of a page that is gone, and one of a transfer.
    && (let s (b : Bound) : State := { paged with reqs := [req9 0 .read (.performed [(1, false)] none (some b))] }
      let moved : State := { paged with moves := [⟨[14, 0, 1], 0x40, 8, none, [(0, ⟨[(1, false)], none, some ⟨7, 0x40, some 5⟩⟩)]⟩] }
      let counts (s : State) (b : Bound) : Bool := match (s.translate (stackOf b.addr) b.asid (offsetOf b.addr)).2 with
        | .ok leaf _ => pteMet leaf
        | _ => b.meter.isSome
      let asked (s : State) : Bool := s.reqs.any fun r => match r.st with | .performed bs _ (some b) => !bs.isEmpty && counts s b | _ => false
      let kept (s : State) : Bool := s.moves.any fun m => m.got.any fun g => match g.2.held with | some b => counts s b | none => false
      !asked (s ⟨1, 0, none⟩) && asked (s ⟨7, 0, some 5⟩) && kept moved && !asked paged && !kept paged)
    && (paged.boot == 5 && (List.replicate 32 (0 : Byte)).length == 32 && decide (paged.seqNum ≤ paged.seqBound)
      && ({ paged with retiring := true } : State).retiring && !paged.retired && !paged.retiring && demo.boot == 0) = true := by decide +kernel

theorem witness_MeterResults :
    (let s : State := { paged with tenancies := [⟨0, 3, 9⟩, ⟨4, 6, 9⟩], allots := [⟨5, 0, 3⟩, ⟨6, 4, 6⟩], journal := [⟨5, 2 ^ 29, 0⟩] }
    let bound (leaf : BitVec 64) : State := { s with dies := s.dies.set 1 { s.dies[1] with tlb := [⟨1, 0, 1, leaf⟩] } }
    (s.part? 0).isSome && (s.tenancy? 0 3).isSome && (s.tenancies.any fun x => x.num == 6 && x.part != 0)
    && (s.tenancies.all fun x => x.num != 65535) && (s.allots.any fun a => a.meter == 6 && a.part != 0)
    && (s.allots.all fun a => a.meter != 4095) && !s.meterBound 5 && (bound 0x00050027).meterBound 5
    && decide (((s.dies.toList.map fun d => (lookupN d.partials 4095).getD 0).zip (List.replicate 8 (2 ^ 27)) |>.map fun x => max x.1 x.2).sum ≤ s.bound 4095)
    && !decide (((s.dies.toList.map fun d => (lookupN d.partials 5).getD 0).zip (List.replicate 8 (2 ^ 27)) |>.map fun x => max x.1 x.2).sum ≤ s.bound 5)
    && decide (s.bound 5 ≤ s.meterValue 5 + 2 ^ 29) && decide (s.meterValue 4095 + 2 ^ 29 < s.bound 4095)) = true := by decide +kernel

theorem witness_PartitionAndUpdateResults :
    (let cut : List CutPart := [⟨0, 4, 1, List.replicate 4 0x10001, 0, 2⟩, ⟨4, 4, 3, List.replicate 4 0x10001, 0, 4⟩]
    let idle : State := { paged with launches := [], blocks := [] }
    (cut.all fun c => idle.cutPartOk c) && decide (cut.Pairwise fun a b => cutApart a b = true)
    && ((idle.parts.filter fun p => cutsAway cut p).all fun p => idle.idlePart p.first) && (idle.parts.all fun p => 1 ≤ p.n)
    && ((List.range 8).all fun i => (idle.afterCut cut).tablesOk i) && (idle.afterCut cut).framesAtPeers
    && !paged.idlePart 0 && (paged.parts.any fun p => cutsAway cut p))
    && (match paged.launch? 1 with | some l => l.part == 0 && l.st == .running && l.status.isNone && (l.gangs.any fun g => g.st == .placed)
                                      | none => false)
    && (paged.boot == 5 && paged.faults.isEmpty && paged.update.isNone && ({ paged with update := some 1 } : State).update == some 1)
    && paged.hasTideway && !decide (8 * 8 * 9 ≤ 512) = true := by decide +kernel

theorem witness_PowerAndResetResults :
    (let s (stop : Option Nat) (boot : Nat) : State := { paged with booting := some stop, boot }
    paged.booting.isNone && ([1, 2, 3, 4] : List Nat).all fun n => (s none n).booting == some none && (s (some n) n).booting == some (some n)
      && (s (some 5) n).booting == some (some 5) && (s none n).boot == n)
    && ({ paged with retired := true } : State).retired && !paged.retired = true := by decide +kernel

theorem witness_TimeAndHostResults :
    (!paged.timeSet && ({ paged with timeSet := true } : State).timeSet
    && (({ paged with tctl := 2 } : State).tctl.toNat % 4 == 2) && paged.tctl.toNat % 4 == 0 && paged.timeSource.isNone
    && (let s : State := { paged with tctl := 0x7F5, tstat := 3 }
      s.tctl.toNat % 4 == 1 && decide (s.tctl.toNat / 4 % 4 < s.eports) && s.tctl.toNat / 16 % 256 == 0x7F && s.timeSource.isSome)
    && (paged.part? 0).isSome && paged.stackCount == 8
    && (let a : Asker := ⟨0, some 1, none, .wide, false⟩
      let poisoned : State := { paged with poison := [phys 0x40 / 32] }
      (paged.transfer [13, 0] a 0x40 8 none).2.isSome && (walked.transfer [13, 0] a 0x40 8 none).2.isNone
      && (paged.transfer [13, 0] a 0x1FFFF8 8 (some (leBytes 8 5))).2.isSome
      && (walked.transfer [14, 0, 1] a 0x40 8 none).2.isNone
      && (match (paged.transfer [14, 0, 1] a 0x40 8 none).2 with | some (r, _) => !r.any (·.2) | none => false)
      && (match poisoned.transfer [14, 0, 1] a 0x40 8 none with | (s1, some (r, _)) => r.any (·.2) && !s1.frozen | _ => false))
    && (match paged.part? 0 with | some p => p.wasid == 1 && p.wbase == 0 | none => false)) = true := by decide +kernel

/-- The values of 1, of 0 and of -2 in FP32. -/
theorem witness_values : Spec.val .f32 0x3F800000 = some 1 ∧ Spec.val .f32 0 = some 0 ∧ Spec.val .f32 0xC0000000 = some (-2) := by
  decide +kernel

theorem witness_RoundingAndSpecialOperands :
    (Spec.isFmt .f32 ∧ 0xFFFFFFFF < Spec.codes .f32)
    ∧ (let f := Fmt.f32
      Spec.isNaN f 0x7FC00001 && !Spec.isSNaN f 0x7FC00001 && Spec.isSNaN f 0xFF800001 && Spec.isInf f 0x7F800000 && Spec.isInf f 0xFF800000
      && Spec.isNeg f 0xFF800000 && !Spec.isNaN f 0x7F800000 && Spec.isNeg f 0x80000000) = true := by
  exact ⟨⟨.inr (.inl rfl), by decide⟩, by decide⟩

end Sys2Proof.Tests
end

/-! SUPPORT. Little-endian bytes and fields (R18), and canonical memory: what is read back of what was written (R364). -/
namespace Sys2Proof.Machine

/-! ### Little-endian numbers -/

theorem leNat_lt (bs : List Byte) : leNat bs < 256 ^ bs.length := by
  induction bs with
  | nil => exact Nat.one_pos
  | cons b t ih =>
    have hb := b.isLt
    simp only [leNat, List.length_cons, Nat.pow_succ]
    omega

@[simp] theorem leBytes_length (n x : Nat) : (leBytes n x).length = n := by
  induction n generalizing x with
  | zero => rfl
  | succ n ih => simp [leBytes, ih]

/-- The low `n` bytes of a number hold it modulo `256 ^ n`. -/
theorem leNat_leBytes (n x : Nat) : leNat (leBytes n x) = x % 256 ^ n := by
  induction n generalizing x with
  | zero => simp [leBytes, leNat, Nat.mod_one]
  | succ n ih =>
    rw [leBytes, leNat, ih, Nat.pow_succ', Nat.mod_mul]
    simp

theorem fieldAt_lt (bs : List Byte) (off n : Nat) : fieldAt bs off n < 256 ^ n :=
  Nat.lt_of_lt_of_le (leNat_lt _) (Nat.pow_le_pow_right (by decide) (List.length_take_le ..))

/-- A field inside a slice of a list is the field of the list at the slice's offset. -/
theorem fieldAt_slice (bs : List Byte) (base size off n : Nat) (h : off + n ≤ size) :
    fieldAt ((bs.drop base).take size) off n = fieldAt bs (base + off) n := by
  unfold fieldAt
  rw [List.drop_take, List.take_take, List.drop_drop, Nat.min_eq_left (by omega)]

/-- A number laid down in bytes after others is the field at their end. -/
theorem fieldAt_append_leBytes (pre rest : List Byte) (n x off : Nat) (h : pre.length = off) :
    fieldAt (pre ++ (leBytes n x ++ rest)) off n = x % 256 ^ n := by
  unfold fieldAt
  rw [List.drop_left' h, List.take_left' (leBytes_length n x), leNat_leBytes]

/-! ### Canonical memory -/

/-- Below the bound of a canonical list every byte is 0. -/
theorem readCells_below (l : List Host.Cell) (lo a : Nat) (hw : cellsWf lo l = true) (h : a < lo) : readCells l a = 0 := by
  induction l generalizing lo with
  | nil => rfl
  | cons x t ih =>
    obtain ⟨b, v⟩ := x
    simp only [cellsWf, Bool.and_eq_true, decide_eq_true_eq] at hw
    rw [readCells, if_neg (by omega), ih (b + 1) hw.2 (by omega)]

/-- A byte written to a canonical list is read back, and no other byte changes. -/
theorem readCells_writeCells (l : List Host.Cell) (lo a b : Nat) (v : Byte) (hw : cellsWf lo l = true) :
    readCells (writeCells l a v) b = if a = b then v else readCells l b := by
  induction l generalizing lo with
  | nil =>
    rw [writeCells]
    split <;> simp_all [readCells]
  | cons x t ih =>
    obtain ⟨c, w⟩ := x
    simp only [cellsWf, Bool.and_eq_true, decide_eq_true_eq] at hw
    have hbelow : ∀ k, k < c + 1 → readCells t k = 0 := fun k hk => readCells_below t (c + 1) k hw.2 hk
    rcases Nat.lt_trichotomy a c with hac | rfl | hca
    · rw [writeCells, if_pos hac]
      split
      · by_cases hab : a = b
        · subst hab
          rw [if_pos rfl, readCells, if_neg (by omega), hbelow a (by omega)]
          exact Eq.symm ‹v = 0›
        · rw [if_neg hab]
      · rfl
    · rw [writeCells, if_neg (Nat.lt_irrefl a), if_pos rfl]
      split
      · by_cases hab : a = b
        · subst hab
          rw [if_pos rfl, hbelow a (by omega)]
          exact Eq.symm ‹v = 0›
        · rw [if_neg hab, readCells, if_neg hab]
      · by_cases hab : a = b <;> simp [readCells, hab]
    · rw [writeCells, if_neg (by omega), if_neg (by omega), readCells, readCells, ih (c + 1) hw.2]
      by_cases hcb : c = b
      · rw [if_pos hcb, if_neg (by omega), if_pos hcb]
      · rw [if_neg hcb, if_neg hcb]

theorem Memory.read_write (m : Memory) (a b : Nat) (v : Byte) (hw : m.wf = true) :
    (m.write a v).read b = if a = b then v else m.read b := readCells_writeCells m.cells 0 a b v hw

/-- Bytes outside a written range are as they were. -/
theorem Memory.read_writeN_apart (m : Memory) (a b : Nat) (bs : List Byte) (hw : m.wf = true)
    (h : b < a ∨ a + bs.length ≤ b) : (m.writeN a bs).read b = m.read b := by
  induction bs generalizing m a with
  | nil => rfl
  | cons v t ih =>
    rw [List.length_cons] at h
    rw [writeN, ih _ _ (m.write_wf a v hw) (by omega), m.read_write a b v hw, if_neg (by omega)]

/-- A written range is read back. -/
theorem Memory.readN_writeN (m : Memory) (a : Nat) (bs : List Byte) (hw : m.wf = true) :
    (m.writeN a bs).readN a bs.length = bs := by
  induction bs generalizing m a with
  | nil => rfl
  | cons v t ih =>
    have htail := ih (m.write a v) (a + 1) (m.write_wf a v hw)
    have hhead : ((m.write a v).writeN (a + 1) t).read (a + 0) = v := by
      rw [Nat.add_zero a, Memory.read_writeN_apart _ _ _ _ (m.write_wf a v hw) (.inl (Nat.lt_succ_self a)),
        m.read_write a a v hw, if_pos rfl]
    rw [writeN, List.length_cons, readN, List.range_succ_eq_map, List.map_cons, List.map_map, hhead]
    refine congrArg (v :: ·) (Eq.trans (List.map_congr_left fun i _ => ?_) htail)
    simp only [Function.comp_apply, Nat.succ_eq_add_one]
    rw [Nat.add_comm i 1, Nat.add_assoc]

/-- A range apart from a written one is read as before. -/
theorem Memory.readN_writeN_apart (m : Memory) (a b n : Nat) (bs : List Byte) (hw : m.wf = true)
    (h : b + n ≤ a ∨ a + bs.length ≤ b) : (m.writeN a bs).readN b n = m.readN b n :=
  List.map_congr_left fun i hi => m.read_writeN_apart a (b + i) bs hw (by have := List.mem_range.mp hi; omega)

end Sys2Proof.Machine

/-! SUPPORT. Pages that lose W (R169, R289): clearing W in a leaf keeps every walk of its stack's tables, and a page once
protected stays so. -/
namespace Sys2Proof.Machine

/-! ### Entries with W cleared -/

/-- An entry with W cleared. -/
def clearW (e : BitVec 64) : BitVec 64 := e &&& ~~~4#64

theorem clearW_getLsbD (e : BitVec 64) (i : Nat) : (clearW e).getLsbD i = (e.getLsbD i && decide (i ≠ 2)) := by
  have hbit : ∀ j, j < 64 → (~~~4#64).getLsbD j = decide (j ≠ 2) := by decide
  unfold clearW
  rw [BitVec.getLsbD_and]
  by_cases hi : i < 64
  · rw [hbit i hi]
  · rw [BitVec.getLsbD_of_ge e i (by omega), Bool.false_and, Bool.false_and]

/-- A field of an entry that leaves bit 2 out. -/
theorem clearW_extract (e : BitVec 64) (lo n : Nat) (h : 2 < lo) : (clearW e).extractLsb' lo n = e.extractLsb' lo n := by
  ext i hi
  simp only [BitVec.getElem_extractLsb', clearW_getLsbD]
  simp [show lo + i ≠ 2 by omega]

@[simp] theorem clearW_W (e : BitVec 64) : (clearW e).getLsbD 2 = false := by rw [clearW_getLsbD]; exact Bool.and_false _
@[simp] theorem clearW_clearW (e : BitVec 64) : clearW (clearW e) = clearW e := by
  unfold clearW
  rw [BitVec.and_assoc, BitVec.and_self]
@[simp] theorem pteV_clearW (e : BitVec 64) : pteV (clearW e) = pteV e :=
  (clearW_getLsbD e 0).trans (Bool.and_true _)
@[simp] theorem pteLeaf_clearW (e : BitVec 64) : pteLeaf (clearW e) = pteLeaf e :=
  (clearW_getLsbD e 1).trans (Bool.and_true _)
@[simp] theorem pteFrame_clearW (e : BitVec 64) : pteFrame (clearW e) = pteFrame e := by
  unfold pteFrame
  rw [clearW_extract e 28 20 (by decide)]

@[simp] theorem leafOk_clearW (e : BitVec 64) (pages : Nat) : leafOk (clearW e) pages = leafOk e pages := by
  unfold leafOk
  rw [pteLeaf_clearW, pteFrame_clearW, clearW_extract e 6 10 (by decide), clearW_extract e 48 16 (by decide)]

/-- A legal non-leaf entry has no bit at W's place. -/
theorem clearW_nextOk (e : BitVec 64) (size : Nat) (h : nextOk e size = true) : clearW e = e := by
  simp only [nextOk, Bool.and_eq_true, beq_iff_eq] at h
  obtain ⟨⟨⟨_, hlow⟩, _⟩, _⟩ := h
  have h2 : e.getLsbD 2 = false := by simpa using congrArg (fun x => BitVec.getLsbD x 0) hlow
  refine BitVec.eq_of_getLsbD_eq fun i _ => ?_
  rw [clearW_getLsbD]
  by_cases hi : i = 2
  · rw [hi, h2]; rfl
  · rw [decide_eq_true hi, Bool.and_true]

/-! ### Tables whose leaves lost W -/

/-- `t` has the tables of `s` in a stack, W cleared in some entries. -/
def State.Protects (s t : State) (stack : Nat) : Prop :=
  (t.die stack).root = (s.die stack).root
  ∧ ∀ p, p % 8 = 0 → t.tableEntry stack p = s.tableEntry stack p ∨ t.tableEntry stack p = clearW (s.tableEntry stack p)

theorem State.Protects.of_eq {s t : State} (stack : Nat) (hdram : t.dram = s.dram) (hdies : t.dies = s.dies) :
    s.Protects t stack :=
  ⟨by unfold State.die; rw [hdies], fun p _ => .inl (by unfold State.tableEntry; rw [hdram])⟩

theorem State.Protects.trans {s t u : State} {stack : Nat} (h1 : s.Protects t stack) (h2 : t.Protects u stack) :
    s.Protects u stack := by
  refine ⟨h2.1.trans h1.1, fun p hp => ?_⟩
  rcases h1.2 p hp with e1 | e1 <;> rcases h2.2 p hp with e2 | e2 <;> rw [e2, e1]
  · exact .inl rfl
  · exact .inr rfl
  · exact .inr rfl
  · exact .inr (clearW_clearW _)

/-- The table an entry points to is aligned to its entries. -/
theorem pteNext_aligned (e : BitVec 64) : pteNext e % 8 = 0 := by
  unfold pteNext
  omega

/-- A walk ends at an entry: at level 0, and at level 1 where LEAF is set (R166). -/
def endsWalk (shift : Nat) (e : BitVec 64) : Prop := shift = 16 ∨ shift = 21 ∧ pteLeaf e = true

/-- The pages of a leaf of a level. -/
def leafPages (shift : Nat) : Nat := if shift = 16 then 1 else 32

/-- A walk from a table on finds a leaf in the table, or below the entry it reads there. -/
theorem leafPlace_cons (s : State) (stack off shift entries below table : Nat) (rest : List (Nat × Nat × Nat))
    (x : Nat × BitVec 64 × Nat) :
    leafPlace s stack off ((shift, entries, below) :: rest) table = some x ↔
      ∃ p, p = table + 8 * (off / 2 ^ shift % entries) ∧ pteV (s.tableEntry stack p) = true
        ∧ (endsWalk shift (s.tableEntry stack p) ∧ leafOk (s.tableEntry stack p) (leafPages shift) = true
            ∧ x = (p, s.tableEntry stack p, leafPages shift)
          ∨ ¬ endsWalk shift (s.tableEntry stack p) ∧ nextOk (s.tableEntry stack p) below = true
            ∧ leafPlace s stack off rest (pteNext (s.tableEntry stack p)) = some x) := by
  rw [exists_eq_left]
  simp only [leafPlace]
  generalize table + 8 * (off / 2 ^ shift % entries) = p
  generalize s.tableEntry stack p = e
  by_cases hv : pteV e = true
  · rw [if_neg (by simp [hv])]
    by_cases h16 : shift = 16
    · simp [endsWalk, leafPages, hv, h16, @eq_comm _ x]
    by_cases h21 : shift = 21 ∧ pteLeaf e = true
    · simp [endsWalk, leafPages, hv, h21, @eq_comm _ x]
    · simp [endsWalk, hv, h16, h21]
  · simp [hv]

/-- A leaf found stands at the place where it was found, among the table's entries. -/
theorem leafPlace_entry (s : State) (stack off : Nat) (levels : List (Nat × Nat × Nat)) (table : Nat) (ht : table % 8 = 0)
    (a : Nat) (e : BitVec 64) (k : Nat) (h : leafPlace s stack off levels table = some (a, e, k)) :
    a % 8 = 0 ∧ e = s.tableEntry stack a := by
  induction levels generalizing table with
  | nil => cases h
  | cons lv rest ih =>
    obtain ⟨shift, entries, below⟩ := lv
    obtain ⟨p, hp, _, ⟨_, _, hx⟩ | ⟨_, _, hbelow⟩⟩ := (leafPlace_cons ..).mp h
    · obtain ⟨rfl, rfl, -⟩ : a = p ∧ e = s.tableEntry stack p ∧ k = leafPages shift := by simpa using hx
      exact ⟨by omega, rfl⟩
    · exact ih _ (pteNext_aligned _) hbelow

/-- A walk that finds a leaf finds it at the same place where some entries have lost W. -/
theorem leafPlace_protects (s t : State) (stack off : Nat) (hp : s.Protects t stack) (levels : List (Nat × Nat × Nat))
    (table : Nat) (ht : table % 8 = 0) (a : Nat) (e : BitVec 64) (k : Nat)
    (h : leafPlace s stack off levels table = some (a, e, k)) :
    leafPlace t stack off levels table = some (a, t.tableEntry stack a, k) := by
  induction levels generalizing table with
  | nil => cases h
  | cons lv rest ih =>
    obtain ⟨shift, entries, below⟩ := lv
    obtain ⟨p, hat, hv, hfound⟩ := (leafPlace_cons ..).mp h
    have hent := hp.2 p (by omega)
    have hvalid : pteV (t.tableEntry stack p) = true := by rcases hent with e' | e' <;> simp [e', hv]
    have hends : endsWalk shift (t.tableEntry stack p) ↔ endsWalk shift (s.tableEntry stack p) := by
      rcases hent with e' | e' <;> simp [e', endsWalk]
    refine (leafPlace_cons ..).mpr ⟨p, hat, hvalid, ?_⟩
    rcases hfound with ⟨hend, hok, hx⟩ | ⟨hend, hn, hbelow⟩
    · obtain ⟨rfl, -, rfl⟩ : a = p ∧ e = s.tableEntry stack p ∧ k = leafPages shift := by simpa using hx
      exact .inl ⟨hends.mpr hend, by rcases hent with e' | e' <;> simp [e', hok], rfl⟩
    · have hsame : t.tableEntry stack p = s.tableEntry stack p := by
        rcases hent with e' | e'
        · exact e'
        · rw [e', clearW_nextOk _ _ hn]
      rw [hsame]
      exact .inr ⟨hend, hn, ih _ (pteNext_aligned _) hbelow⟩

/-- The root entry of an identifier's leaf, and the walk from it. -/
theorem leafOf_eq_some (s : State) (stack asid off : Nat) (x : Nat × BitVec 64 × Nat) :
    s.leafOf stack asid off = some x ↔ ∃ r, lookupN (s.die stack).root asid = some r ∧ (pteV r && nextOk r 65536) = true
      ∧ leafPlace s stack off walkLevels (pteNext r) = some x := by
  unfold State.leafOf
  cases lookupN (s.die stack).root asid with
  | none => simp
  | some r =>
    simp only [Option.some.injEq, exists_eq_left']
    by_cases hr : (pteV r && nextOk r 65536) = true
    · rw [if_pos hr]
      exact (and_iff_right hr).symm
    · rw [if_neg hr]
      exact iff_of_false nofun (fun h => hr h.1)

theorem leafOf_entry (s : State) (stack asid off a : Nat) (e : BitVec 64) (k : Nat)
    (h : s.leafOf stack asid off = some (a, e, k)) : a % 8 = 0 ∧ e = s.tableEntry stack a := by
  obtain ⟨r, _, _, hwalk⟩ := (leafOf_eq_some ..).mp h
  exact leafPlace_entry s stack off walkLevels _ (pteNext_aligned r) a e k hwalk

theorem leafOf_protects (s t : State) (stack asid off a : Nat) (e : BitVec 64) (k : Nat) (hp : s.Protects t stack)
    (h : s.leafOf stack asid off = some (a, e, k)) : t.leafOf stack asid off = some (a, t.tableEntry stack a, k) := by
  obtain ⟨r, hroot, hok, hwalk⟩ := (leafOf_eq_some ..).mp h
  exact (leafOf_eq_some ..).mpr
    ⟨r, by rw [hp.1, hroot], hok, leafPlace_protects s t stack off hp walkLevels _ (pteNext_aligned r) a e k hwalk⟩

/-- A page maps through a leaf without W. -/
def State.ReadOnly (s : State) (stack asid page : Nat) : Prop :=
  ∃ a e k, s.leafOf stack asid (65536 * page) = some (a, e, k) ∧ e.getLsbD 2 = false

/-- A read-only page stays so where other entries lose W. -/
theorem State.ReadOnly.of_protects {s t : State} {stack asid page : Nat} (h : s.ReadOnly stack asid page)
    (hp : s.Protects t stack) : t.ReadOnly stack asid page := by
  obtain ⟨a, e, k, hleaf, hw⟩ := h
  obtain ⟨ha, he⟩ := leafOf_entry s stack asid _ a e k hleaf
  refine ⟨a, _, k, leafOf_protects s t stack asid _ a e k hp hleaf, ?_⟩
  rcases hp.2 a ha with e' | e' <;> rw [e']
  · rw [← he, hw]
  · exact clearW_W _

/-! ### A table entry written -/

@[simp] theorem writeEntry_wf (s : State) (stack a : Nat) (x : BitVec 64) (h : s.dram.wf = true) :
    (s.writeEntries stack [(a, x)]).dram.wf = true := s.dram.writeN_wf _ _ h

/-- An aligned entry written: that entry, and no other, changes. -/
theorem tableEntry_writeEntry (s : State) (stack a p : Nat) (x : BitVec 64) (hw : s.dram.wf = true) (ha : a % 8 = 0)
    (hp : p % 8 = 0) : (s.writeEntries stack [(a, x)]).tableEntry stack p = if p = a then x else s.tableEntry stack p := by
  change BitVec.ofNat 64 (leNat ((s.dram.writeN (dramKey stack a) (leBytes 8 x.toNat)).readN (dramKey stack p) 8)) = _
  by_cases hpa : p = a
  · subst hpa
    have hread := s.dram.readN_writeN (dramKey stack p) (leBytes 8 x.toNat) hw
    rw [leBytes_length] at hread
    rw [if_pos rfl, hread, leNat_leBytes, show 256 ^ 8 = 2 ^ 64 from rfl, Nat.mod_eq_of_lt x.isLt, BitVec.ofNat_toNat,
      BitVec.setWidth_eq]
  · rw [if_neg hpa, Memory.readN_writeN_apart _ _ _ _ _ hw (by rw [leBytes_length]; unfold dramKey; omega)]
    rfl

/-! ### A page protected -/

theorem setDie_root (s : State) (i j : Nat) (d : BaseDie) (h : d.root = (s.die i).root) :
    ((s.setDie i d).die j).root = (s.die j).root := by
  unfold State.die State.setDie at *
  simp only at h ⊢
  by_cases hij : i = j
  · subst hij
    by_cases hi : i < 8
    · simp_all
    · simp [hi]
  · simp [Vector.getElem?_setIfInBounds_ne, hij]

theorem dropLeaf_root (s : State) (stack place j : Nat) : ((s.dropLeaf stack place).die j).root = (s.die j).root :=
  setDie_root s stack j _ rfl

@[simp] theorem dropLeaf_dram (s : State) (stack place : Nat) : (s.dropLeaf stack place).dram = s.dram := rfl

theorem dropTlb_root (s : State) (stack asid page n j : Nat) :
    ((s.setDie stack ((s.die stack).dropTlb asid page n)).die j).root = (s.die j).root := setDie_root s stack j _ rfl

theorem protectPage_mapped (s : State) (stack asid page a : Nat) (e : BitVec 64) (k : Nat)
    (h : s.leafOf stack asid (65536 * page) = some (a, e, k)) :
    s.protectPage stack asid page = ((s.writeEntries stack [(a, clearW e)]).setDie stack
      ((s.die stack).dropTlb asid page 1)).dropLeaf stack a := by
  unfold State.protectPage
  rw [h]
  rfl

theorem protectPage_unmapped (s : State) (stack asid page : Nat) (h : s.leafOf stack asid (65536 * page) = none) :
    s.protectPage stack asid page = s := by
  unfold State.protectPage
  rw [h]

/-- The protection of a page changes main memory and the base dies alone. -/
theorem protectPage_frame (s : State) (stack asid page : Nat) :
    s.protectPage stack asid page
      = { s with dram := (s.protectPage stack asid page).dram, dies := (s.protectPage stack asid page).dies } := by
  cases hleaf : s.leafOf stack asid (65536 * page) with
  | none => rw [protectPage_unmapped s stack asid page hleaf]
  | some x =>
    rw [protectPage_mapped s stack asid page x.1 x.2.1 x.2.2 hleaf]
    unfold State.dropLeaf State.setDie State.writeEntries
    rfl

/-- A page that a leaf maps is read-only once protected, and every walk of the stack stands. -/
theorem protectPage_spec (s : State) (stack asid page : Nat) (hw : s.dram.wf = true) :
    (s.protectPage stack asid page).dram.wf = true ∧ s.Protects (s.protectPage stack asid page) stack
      ∧ ((s.leafOf stack asid (65536 * page)).isSome = true → (s.protectPage stack asid page).ReadOnly stack asid page) := by
  cases hleaf : s.leafOf stack asid (65536 * page) with
  | none =>
    rw [protectPage_unmapped s stack asid page hleaf]
    exact ⟨hw, .of_eq stack rfl rfl, fun h => by cases h⟩
  | some x =>
    obtain ⟨a, e, k⟩ := x
    obtain ⟨ha, he⟩ := leafOf_entry s stack asid _ a e k hleaf
    have hdram : (s.protectPage stack asid page).dram = (s.writeEntries stack [(a, clearW e)]).dram := by
      rw [protectPage_mapped s stack asid page a e k hleaf, dropLeaf_dram, State.setDie_dram]
    have hroot : ((s.protectPage stack asid page).die stack).root = (s.die stack).root := by
      rw [protectPage_mapped s stack asid page a e k hleaf, dropLeaf_root]
      exact dropTlb_root (s.writeEntries stack [(a, clearW e)]) ..
    have hentry : ∀ p, p % 8 = 0 → (s.protectPage stack asid page).tableEntry stack p
        = if p = a then clearW e else s.tableEntry stack p := fun p hp => by
      rw [← tableEntry_writeEntry s stack a p (clearW e) hw ha hp]
      unfold State.tableEntry
      rw [hdram]
    have hprot : s.Protects (s.protectPage stack asid page) stack := by
      refine ⟨hroot, fun p hp => ?_⟩
      rw [hentry p hp]
      split
      · next hpa => subst hpa; exact .inr (by rw [← he])
      · exact .inl rfl
    refine ⟨by rw [hdram]; exact writeEntry_wf s stack a _ hw, hprot, fun _ => ?_⟩
    refine ⟨a, _, k, leafOf_protects s _ stack asid _ a e k hprot hleaf, ?_⟩
    rw [hentry a ha, if_pos rfl, clearW_W]

/-- The first `n` pages of a range protected, in turn. -/
def State.protectPages (s : State) (stack asid first n : Nat) : State :=
  (List.range n).foldl (fun (s : State) i => s.protectPage stack asid (first + i)) s

theorem protectPages_succ (s : State) (stack asid first n : Nat) :
    s.protectPages stack asid first (n + 1) = (s.protectPages stack asid first n).protectPage stack asid (first + n) := by
  simp only [State.protectPages, List.range_succ, List.foldl_append, List.foldl_cons, List.foldl_nil]

theorem protectPages_frame (s : State) (stack asid first n : Nat) :
    s.protectPages stack asid first n
      = { s with dram := (s.protectPages stack asid first n).dram, dies := (s.protectPages stack asid first n).dies } := by
  induction n with
  | zero => rfl
  | succ n ih =>
    rw [protectPages_succ]
    refine (protectPage_frame ..).trans ?_
    generalize (s.protectPages stack asid first n).protectPage stack asid (first + n) = u
    rw [ih]

/-- Every mapped page of a range is read-only once the range is protected. -/
theorem protectPages_spec (s : State) (stack asid first n : Nat) (hw : s.dram.wf = true)
    (hm : s.pagesMapped stack asid first n = true) :
    (s.protectPages stack asid first n).dram.wf = true ∧ s.Protects (s.protectPages stack asid first n) stack
      ∧ ∀ i, i < n → (s.protectPages stack asid first n).ReadOnly stack asid (first + i) := by
  induction n with
  | zero => exact ⟨hw, .of_eq stack rfl rfl, fun i hi => absurd hi (Nat.not_lt_zero i)⟩
  | succ n ih =>
    unfold State.pagesMapped at hm ih
    rw [List.all_eq_true] at hm ih
    have hmap : (s.leafOf stack asid (65536 * (first + n))).isSome = true := hm n (List.mem_range.mpr n.lt_succ_self)
    obtain ⟨hw', hprot, hro⟩ := ih fun i hi => hm i (List.mem_range.mpr (Nat.lt_trans (List.mem_range.mp hi) n.lt_succ_self))
    obtain ⟨hw'', hstep, hlast⟩ := protectPage_spec (s.protectPages stack asid first n) stack asid (first + n) hw'
    rw [protectPages_succ]
    refine ⟨hw'', hprot.trans hstep, fun i hi => ?_⟩
    rcases Nat.lt_succ_iff_lt_or_eq.mp hi with hlt | rfl
    · exact (hro i hlt).of_protects hstep
    · obtain ⟨⟨a, e, k⟩, hleaf⟩ := Option.isSome_iff_exists.mp hmap
      exact hlast (by rw [leafOf_protects s _ stack asid _ a e k hprot hleaf]; rfl)

end Sys2Proof.Machine

/-! SUPPORT. What a read of main memory by firmware leaves alone (R163), and the registration of code objects (R289, R355). -/
namespace Sys2Proof.Machine

/-- Changes in turn, each of which leads to a related value, lead to a related value. -/
theorem foldl_related {α β : Type} (R : β → β → Prop) (refl : ∀ b, R b b) (trans : ∀ {a b c}, R a b → R b c → R a c)
    (f : β → α → β) (hf : ∀ b a, R b (f b a)) (l : List α) (b : β) : R b (l.foldl f b) := by
  induction l generalizing b with
  | nil => exact refl b
  | cons a t ih => exact trans (hf b a) (ih _)

/-! ### Reads of main memory -/

/-- `t` is `s` after base dies have served reads: their own state, corrected granules, faults reported, and the answers kept of
transfers may differ. -/
def State.Served (s t : State) : Prop :=
  t = { s with fresh := t.fresh, symErr := t.symErr, dies := t.dies, faults := t.faults, moves := t.moves }

theorem State.Served.refl (s : State) : s.Served s := rfl

theorem State.Served.trans {s t u : State} (h1 : s.Served t) (h2 : t.Served u) : s.Served u :=
  Eq.trans h2 (congrArg (fun x : State =>
    { x with fresh := u.fresh, symErr := u.symErr, dies := u.dies, faults := u.faults, moves := u.moves }) h1)

theorem State.Served.codes {s t : State} (h : s.Served t) : t.codes = s.codes := by rw [h]
theorem State.Served.mlog {s t : State} (h : s.Served t) : t.mlog = s.mlog := by rw [h]
theorem State.Served.mdigest {s t : State} (h : s.Served t) : t.mdigest = s.mdigest := by rw [h]
theorem State.Served.now {s t : State} (h : s.Served t) : t.now = s.now := by rw [h]
theorem State.Served.blocks {s t : State} (h : s.Served t) : t.blocks = s.blocks := by rw [h]


theorem setDie_served (s : State) (i : Nat) (d : BaseDie) : s.Served (s.setDie i d) := rfl

theorem correct_served (s : State) (gs : List Nat) : s.Served (s.correct gs) :=
  foldl_related State.Served .refl .trans _ (fun s g => by dsimp only; split <;> rfl) gs s

theorem report_served (s : State) (stack asid page : Nat) : s.Served (s.report stack asid page) := by
  unfold State.report
  split <;> rfl

theorem translate_served (s : State) (stack asid off : Nat) : s.Served (s.translate stack asid off).1 := by
  unfold State.translate
  dsimp only
  split
  · rfl
  · split
    · exact correct_served ..
    · split
      · exact (correct_served ..).trans (setDie_served ..)
      · exact correct_served ..

/-- The state in which a request has been located. -/
def Locate.state : Locate → State
  | .fault s _ | .hold s | .at s _ => s

theorem locate_served (s : State) (a : Asker) (addr : DWord) (n : Nat) (writes : Bool) :
    s.Served (s.locate a addr n writes).state := by
  unfold State.locate
  dsimp only
  split
  · rfl
  rename_i asid _
  split
  · rfl
  have ht := translate_served s (stackOf addr) asid (offsetOf addr)
  split
  · exact ht
  · split
    · split <;> exact ht
    · exact ht.trans (report_served ..)
  · split
    · exact ht
    split
    · exact ht
    split
    · exact ht
    · exact ht.trans (setDie_served ..)

theorem replyLeaves_served (s t : State) (n : Nat) (b : Bound) (h : s.replyLeaves n b = some t) : s.Served t := by
  rcases replyLeaves_cases s t n b h with rfl | ⟨_, d, _, _, _, rfl⟩
  · rfl
  · rfl

/-- A read at a spot corrects granules alone, where it leaves no record of a writing core. -/
theorem access_read_served (s : State) (a : Asker) (n : Nat) (p : Spot) : s.Served (s.access a .read n p).1 := by
  have hrec : s.recordWrite a .read p.home n = s := by
    unfold State.recordWrite
    split <;> rfl
  unfold State.access
  rw [hrec]
  exact correct_served ..

/-- The state a base die leaves. -/
def Serve.state : Serve → State
  | .reply s _ _ | .held s _ _ _ | .hold s => s

theorem serve_read_served (s : State) (a : Asker) (addr : DWord) (n : Nat) : s.Served (s.serve a addr n .read).state := by
  unfold State.serve
  split
  · rfl
  have hl := locate_served s a addr n ReqKind.read.writes
  rcases hloc : s.locate a addr n ReqKind.read.writes with ⟨t, k⟩ | t | ⟨t, p⟩
  · rw [hloc] at hl; exact hl
  · rw [hloc] at hl; exact hl
  · rw [hloc] at hl
    have ha := hl.trans (access_read_served t a n p)
    dsimp only
    split
    · next h => exact ha.trans (replyLeaves_served _ _ _ _ h)
    · exact ha

theorem moveOne_served (one : State → Nat → Nat → Serve) (h : ∀ (s : State) off n, s.Served (one s off n).state)
    (x : State × Move) (r : Nat × Nat) : x.1.Served (State.moveOne one x r).1 := by
  obtain ⟨s, m⟩ := x
  have hone := h s r.1 r.2
  unfold State.moveOne
  dsimp only
  split
  · split
    · next hl => exact replyLeaves_served _ _ _ _ hl
    · rfl
  · rfl
  · split
    · next e => rw [e] at hone; exact hone
    · next e => rw [e] at hone; exact hone
    · next e => rw [e] at hone; exact hone

theorem foldl_moveOne_served (one : State → Nat → Nat → Serve) (h : ∀ (s : State) off n, s.Served (one s off n).state)
    (rs : List (Nat × Nat)) (x : State × Move) : x.1.Served (rs.foldl (State.moveOne one) x).1 :=
  foldl_related (fun x y : State × Move => x.1.Served y.1) (fun x => .refl x.1) (.trans · ·) _ (moveOne_served one h) rs x

theorem transferParts_served (s : State) (who : List Nat) (addr : DWord) (n : Nat) (data : Option (List Byte))
    (rs : List (Nat × Nat)) (one : State → Nat → Nat → Serve) (h : ∀ (s : State) off n, s.Served (one s off n).state) :
    s.Served (s.transferParts who addr n data rs one).1 := by
  unfold State.transferParts
  dsimp only
  refine State.Served.trans (t := { s with moves := s.moves.filter fun m =>
    !(m.who == who && m.addr == addr && m.size == n && m.data == data) }) rfl ?_
  generalize ({ s with moves := _ } : State) = s0
  generalize (s.moves.find? _).getD _ = m0
  have hf := foldl_moveOne_served one h rs (s0, m0)
  split
  · split
    · exact hf
    · exact hf.trans rfl
  · exact hf

/-- A code object's bytes read leave the log, the code objects, the blocks, memory and time as they were. -/
theorem readCode_served (s : State) (part asid : Nat) (addr : DWord) (n : Nat) : s.Served (s.readCode part asid addr n).1 :=
  transferParts_served s _ addr n none _ _ fun s _ _ => serve_read_served s _ _ _

/-! ### Code objects -/

@[simp] theorem protectPages_mlog (s : State) (stack asid first n : Nat) :
    (s.protectPages stack asid first n).mlog = s.mlog := by rw [protectPages_frame]
@[simp] theorem protectPages_mdigest (s : State) (stack asid first n : Nat) :
    (s.protectPages stack asid first n).mdigest = s.mdigest := by rw [protectPages_frame]
@[simp] theorem protectPages_blocks (s : State) (stack asid first n : Nat) :
    (s.protectPages stack asid first n).blocks = s.blocks := by rw [protectPages_frame]

/-- An object entered, in place of one registered at the same place before. -/
def State.enter (s : State) (c : CodeObj) : State :=
  { s with codes := (s.codes.filter fun x => !(x.part == c.part && x.addr == c.addr)) ++ [c] }

/-- An object just entered is the one found at its place. -/
theorem code?_enter (s : State) (c : CodeObj) : (s.enter c).code? c.part c.addr = some c := by
  unfold State.code? State.enter
  dsimp only
  rw [List.find?_append, List.find?_eq_none.mpr, Option.none_or]
  · simp
  · intro x hx
    have hother := (List.mem_filter.mp hx).2
    rw [Bool.not_eq_true'] at hother
    rw [hother]
    exact Bool.false_ne_true

/-- Registration measures an object whose pages are mapped, protects its pages, and enters it. -/
theorem register_mapped (s : State) (part asid : Nat) (addr : DWord) (img : List Byte) (ks : List Kernel) (ps : List Prologue)
    (first n : Nat) (hfirst : first = offsetOf addr / 65536) (hn : n = (offsetOf addr % 65536 + img.length + 65535) / 65536)
    (hm : s.pagesMapped (stackOf addr) asid first n = true) :
    s.register part asid addr img ks ps
      = ((s.measure 3 part (some (addr, img.length)) (Sha.hash img)).protectPages (stackOf addr) asid first n).enter
          ⟨part, addr, img.length, Sha.hash img, asid, ks, ps⟩ := by
  subst hfirst hn
  unfold State.register
  dsimp only
  rw [hm]
  rfl

theorem register_unmapped (s : State) (part asid : Nat) (addr : DWord) (img : List Byte) (ks : List Kernel) (ps : List Prologue)
    (hm : s.pagesMapped (stackOf addr) asid (offsetOf addr / 65536) ((offsetOf addr % 65536 + img.length + 65535) / 65536) = false) :
    s.register part asid addr img ks ps = s := by
  unfold State.register
  simp [hm]

theorem exec_codeObjectRegistration (s : State) (part asid : Nat) (addr : DWord) :
    exec (.codeObjectRegistration part asid addr) s = execCodeObjectRegistration part asid addr s := rfl

/-- An object whose header breaks its table is not registered. -/
theorem codeObjectRegistration_badHeader (s s1 : State) (part asid : Nat) (addr : DWord) (hd : List Byte)
    (hread : s.readCode part asid addr 64 = (s1, some (hd, false))) (hbad : codeHeaderOk hd = false) :
    exec (.codeObjectRegistration part asid addr) s = .next s1 := by
  rw [exec_codeObjectRegistration]
  unfold execCodeObjectRegistration
  rw [hread]
  dsimp only
  rw [if_pos (by simp [hbad])]

/-- An object whose header and image have been read without a fault is registered where the image keeps to its table. -/
theorem codeObjectRegistration_read (s s1 s2 : State) (part asid : Nat) (addr : DWord) (hd img : List Byte)
    (hread : s.readCode part asid addr 64 = (s1, some (hd, false))) (hok : codeHeaderOk hd = true)
    (hread2 : s1.readCode part asid addr (fieldAt hd 0x10 8) = (s2, some (img, false))) :
    exec (.codeObjectRegistration part asid addr) s
      = .next ((parseImage img).elim s2 fun x => s2.register part asid addr img x.1 x.2) := by
  rw [exec_codeObjectRegistration]
  unfold execCodeObjectRegistration
  rw [hread]
  dsimp only
  rw [if_neg (by simp [hok]), hread2]
  dsimp only
  cases parseImage img with
  | none => rfl
  | some x =>
    obtain ⟨ks, ps⟩ := x
    dsimp only
    rw [if_neg Bool.false_ne_true, Option.elim_some]

/-- Measurement leaves the tables alone. -/
theorem measure_protects (s : State) (stack kind part : Nat) (code : Option (DWord × Nat)) (hash : BitVec 256) :
    s.Protects (s.measure kind part code hash) stack := .of_eq stack rfl rfl

theorem pagesMapped_protects (s t : State) (stack asid first n : Nat) (hp : s.Protects t stack)
    (hm : s.pagesMapped stack asid first n = true) : t.pagesMapped stack asid first n = true := by
  refine List.all_eq_true.mpr fun i hi => ?_
  obtain ⟨⟨a, e, k⟩, hleaf⟩ := Option.isSome_iff_exists.mp (List.all_eq_true.mp hm i hi)
  rw [leafOf_protects s t stack asid _ a e k hp hleaf]
  rfl

/-- A registered object is found at its place, measured in the log, its pages read-only (R289, R355). -/
theorem register_spec (s : State) (part asid : Nat) (addr : DWord) (img : List Byte) (ks : List Kernel) (ps : List Prologue)
    (first n : Nat) (hfirst : first = offsetOf addr / 65536) (hn : n = (offsetOf addr % 65536 + img.length + 65535) / 65536)
    (hm : s.pagesMapped (stackOf addr) asid first n = true) (hw : s.dram.wf = true) :
    let t := s.register part asid addr img ks ps
    t.code? part addr = some ⟨part, addr, img.length, Sha.hash img, asid, ks, ps⟩
      ∧ t.mlog = (s.measure 3 part (some (addr, img.length)) (Sha.hash img)).mlog
      ∧ t.mdigest = (s.measure 3 part (some (addr, img.length)) (Sha.hash img)).mdigest ∧ t.blocks = s.blocks
      ∧ ∀ i, i < n → t.ReadOnly (stackOf addr) asid (first + i) := by
  rw [register_mapped s part asid addr img ks ps first n hfirst hn hm]
  have hmeas := measure_protects s (stackOf addr) 3 part (some (addr, img.length)) (Sha.hash img)
  obtain ⟨_, _, hro⟩ := protectPages_spec (s.measure 3 part (some (addr, img.length)) (Sha.hash img)) (stackOf addr) asid
    first n hw (pagesMapped_protects _ _ _ asid _ _ hmeas hm)
  exact ⟨code?_enter _ ⟨part, addr, _, _, _, _, _⟩, protectPages_mlog .., protectPages_mdigest .., protectPages_blocks ..,
    fun i hi => (hro i hi).of_protects (.of_eq _ rfl rfl)⟩

/-- An image that is read is registered, or not, as its header, its table and its pages say. -/
theorem codeObjectResults : Spec.CodeObjectResults := by
  intro s s1 s2 part asid addr hd img hread
  have hs1 : s.Served s1 := by simpa [hread] using readCode_served s part asid addr 64
  refine ⟨fun hbad => ⟨s1, codeObjectRegistration_badHeader s s1 part asid addr hd hread hbad, hs1.codes, hs1.mlog⟩,
    fun hok hread2 => ?_⟩
  have hs2 : s.Served s2 := hs1.trans (by simpa [hread2] using readCode_served s1 part asid addr (fieldAt hd 0x10 8))
  rw [codeObjectRegistration_read s s1 s2 part asid addr hd img hread hok hread2]
  refine ⟨fun hno => ⟨s2, congrArg Host.Outcome.next ?_, hs2.codes, hs2.mlog, rfl⟩, fun ks ps hparse hm hw => ?_⟩
  · cases hparse : parseImage img with
    | none => rfl
    | some x =>
      rw [Option.elim_some]
      exact register_unmapped s2 part asid addr img x.1 x.2 (hno.resolve_left (by simp [hparse]))
  · obtain ⟨hcode, hlog, hdigest, hblocks, hro⟩ := register_spec s2 part asid addr img ks ps _ _ rfl rfl hm hw
    refine ⟨_, by rw [hparse, Option.elim_some], hcode, hlog.trans ?_, hdigest.trans ?_, hblocks.trans hs2.blocks, hro⟩
    · simp [State.measure, logEntry, hs2.mlog, hs2.now]
    · simp [State.measure, logEntry, hs2.mdigest, hs2.now]

end Sys2Proof.Machine

/-! SUPPORT. The image of a code object against the table of R289. -/
namespace Sys2Proof.Machine

/-! ### The instructions of a body -/

theorem bodyInstr_eq (w : Word) (x : Option Word) : bodyInstr w x = (decode w x).toOption := by
  unfold bodyInstr
  cases decode w x <;> rfl

/-- Some instruction start of a body has a property. -/
theorem bodyHas_iff (p : Word → Option Instr → Bool) (ws : List Word) :
    bodyHas p ws = true ↔ ∃ x, x ∈ Spec.bodyStarts ws ∧ p x.1 x.2 = true := by
  induction ws using Spec.bodyStarts.induct with
  | case1 => simp [bodyHas, Spec.bodyStarts]
  | case2 w => simp [bodyHas, Spec.bodyStarts, bodyInstr_eq]
  | case3 w x t i hd ihLong ihShort =>
    rw [bodyHas, Spec.bodyStarts, bodyInstr_eq, hd]
    by_cases hlen : i.len = 8
    · simp [Except.toOption, hlen, ihLong]
    · simp [Except.toOption, hlen, ihShort]
  | case4 w x t e hd ih =>
    rw [bodyHas, Spec.bodyStarts, bodyInstr_eq, hd]
    simp [Except.toOption, ih]

theorem isHandoff_iff (w : Word) (i : Option Instr) :
    isHandoff w i = true ↔ ∃ j, i = some j ∧ ((∃ a b, j = .give a b) ∨ (∃ a b, j = .givex a b) ∨ ∃ a b, j = .take a b) := by
  unfold isHandoff
  split
  · exact iff_of_true rfl ⟨_, rfl, .inl ⟨_, _, rfl⟩⟩
  · exact iff_of_true rfl ⟨_, rfl, .inr (.inl ⟨_, _, rfl⟩)⟩
  · exact iff_of_true rfl ⟨_, rfl, .inr (.inr ⟨_, _, rfl⟩)⟩
  · next hgive hgivex htake =>
    refine iff_of_false Bool.false_ne_true ?_
    rintro ⟨_, rfl, ⟨a, b, rfl⟩ | ⟨a, b, rfl⟩ | ⟨a, b, rfl⟩⟩
    · exact hgive a b rfl
    · exact hgivex a b rfl
    · exact htake a b rfl

theorem isMatrix_iff (w : Word) (i : Option Instr) :
    isMatrix w i = true ↔ 0x80000000#32 ≤ w ∧ 0x60 ≤ (fOp w).toNat ∧ (fOp w).toNat ≤ 0x6C := by
  have hmsb : w.msb = true ↔ 0x80000000#32 ≤ w := by
    rw [BitVec.msb_eq_decide, decide_eq_true_eq, BitVec.le_def]
    rfl
  rw [isMatrix, Bool.and_eq_true, decide_eq_true_eq, hmsb]

/-- The instruction starts of the body of a kernel. -/
def kernelStarts (img : List Byte) (k : Kernel) : List (Word × Option Instr) := Spec.bodyStarts (bodyWords img k)

/-- A kernel has the handoff flag if some instruction of its body is a handoff (R82), and the matrix flag if some
instruction of it is one of the matrix engine (R237). -/
theorem flagsOk_iff (img : List Byte) (k : Kernel) :
    flagsOk img k = true ↔
      ((∃ w i, (w, some i) ∈ kernelStarts img k ∧ ((∃ a b, i = .give a b) ∨ (∃ a b, i = .givex a b) ∨ ∃ a b, i = .take a b)) →
        k.handoff = true)
      ∧ ((∃ x, x ∈ kernelStarts img k ∧ 0x80000000#32 ≤ x.1 ∧ 0x60 ≤ (fOp x.1).toNat ∧ (fOp x.1).toNat ≤ 0x6C) →
        k.matrix = true) := by
  have himp : ∀ a b : Bool, (a || !b) = true ↔ (b = true → a = true) := by decide
  have hhand : bodyHas isHandoff (bodyWords img k) = true ↔ ∃ w i, (w, some i) ∈ kernelStarts img k
      ∧ ((∃ a b, i = .give a b) ∨ (∃ a b, i = .givex a b) ∨ ∃ a b, i = .take a b) := by
    rw [bodyHas_iff]
    refine ⟨fun ⟨⟨w, o⟩, hx, hp⟩ => ?_, fun ⟨w, i, hx, hp⟩ => ⟨(w, some i), hx, (isHandoff_iff ..).mpr ⟨i, rfl, hp⟩⟩⟩
    obtain ⟨i, rfl, hi⟩ := (isHandoff_iff ..).mp hp
    exact ⟨w, i, hx, hi⟩
  rw [flagsOk, Bool.and_eq_true, himp, himp, hhand, bodyHas_iff]
  simp only [isMatrix_iff]
  rfl

/-! ### Entries -/

theorem entryOk_iff (n x : Nat) : entryOk n (entryAddr x) = true ↔ Spec.EntryIn n x := by
  unfold entryAddr Spec.EntryIn
  by_cases hx : x = noEntry
  · rw [if_pos hx]
    exact iff_of_true rfl (.inl hx)
  · rw [if_neg hx, entryOk, Bool.and_eq_true, beq_iff_eq, decide_eq_true_eq]
    exact (or_iff_right hx).symm

theorem codeHeaderOk_iff (hd : List Byte) :
    codeHeaderOk hd = true ↔ fieldAt hd 0 4 = 0x4E4C5946 ∧ fieldAt hd 4 2 = 1 ∧ fieldAt hd 6 2 = 1 ∧ fieldAt hd 0x38 8 = 0
      ∧ 64 ≤ fieldAt hd 0x10 8 ∧ fieldAt hd 0x18 8 + 64 * fieldAt hd 8 4 ≤ fieldAt hd 0x10 8
      ∧ fieldAt hd 0x20 8 + 16 * fieldAt hd 0xC 4 ≤ fieldAt hd 0x10 8 ∧ fieldAt hd 0x28 8 + fieldAt hd 0x30 8 ≤ fieldAt hd 0x10 8 := by
  simp only [codeHeaderOk, within, Bool.and_eq_true, beq_iff_eq, decide_eq_true_eq, and_assoc, Nat.zero_add]

/-- An entry of a table of the image: `size` bytes at `base + size * n`. -/
def imageEntry (img : List Byte) (base size n : Nat) : List Byte := (img.drop (base + size * n)).take size

theorem fieldAt_imageEntry (img : List Byte) (base size n off k : Nat) (h : off + k ≤ size) :
    fieldAt (imageEntry img base size n) off k = fieldAt img (base + size * n + off) k :=
  fieldAt_slice img (base + size * n) size off k h

/-- An image gives kernels and prologues exactly where its header, its kernel entries and its prologue entries are legal. -/
theorem parseImage_eq_some (img : List Byte) (x : List Kernel × List Prologue) :
    parseImage img = some x ↔
      (codeHeaderOk img = true
        ∧ (∀ n, n < fieldAt img 8 4 →
            let e := imageEntry img (fieldAt img 0x18 8) 64 n
            kernelOk (fieldAt img 0x10 8) e (parseKernel img e) = true ∧ flagsOk img (parseKernel img e) = true)
        ∧ ∀ n, n < fieldAt img 0xC 4 → prologueOk (fieldAt img 0x10 8) (imageEntry img (fieldAt img 0x20 8) 16 n) = true)
      ∧ x = ((List.range (fieldAt img 8 4)).map fun n => parseKernel img (imageEntry img (fieldAt img 0x18 8) 64 n),
          (List.range (fieldAt img 0xC 4)).map fun n =>
            ⟨fieldAt (imageEntry img (fieldAt img 0x20 8) 16 n) 0 4, fieldAt (imageEntry img (fieldAt img 0x20 8) 16 n) 4 4⟩) := by
  unfold parseImage
  simp only [List.map_map, Option.ite_none_right_eq_some, Option.some.injEq, Bool.and_eq_true, List.all_map, List.all_eq_true,
    List.mem_range, Function.comp_apply, and_assoc, @eq_comm _ x]
  rfl

/-- The limits of a kernel entry, by its fields. -/
theorem kernelOk_iff (img e : List Byte) (size : Nat) :
    kernelOk size e (parseKernel img e) = true ↔
      fieldAt e 0 4 + fieldAt e 4 4 ≤ size ∧ fieldAt e 0 4 % 4 = 0 ∧ fieldAt e 4 4 % 4 = 0
      ∧ 1 ≤ fieldAt e 8 1 ∧ fieldAt e 8 1 ≤ 16 ∧ 1 ≤ fieldAt e 9 1 ∧ fieldAt e 9 1 ≤ 48 ∧ fieldAt e 0xA 2 < 4
      ∧ fieldAt e 0xC 4 ≤ 0x80000 ∧ fieldAt e 0x11 1 ≤ 16 ∧ fieldAt e 0x12 2 = 0
      ∧ Spec.EntryIn (fieldAt e 4 4) (fieldAt e 0x14 4) ∧ Spec.EntryIn (fieldAt e 4 4) (fieldAt e 0x18 4)
      ∧ (fieldAt e 0x18 4 ≠ 0xFFFFFFFF → fieldAt e 0x1C 4 ≠ 0) ∧ fieldAt e 0x2C 4 ≤ 16
      ∧ fieldAt e 0x28 4 + 8 * fieldAt e 0x2C 4 ≤ size ∧ fieldAt e 0x34 12 = 0 := by
  have hbudget : ((entryAddr (fieldAt e 0x18 4)).isNone || fieldAt e 0x1C 4 != 0) = true
      ↔ (fieldAt e 0x18 4 ≠ 0xFFFFFFFF → fieldAt e 0x1C 4 ≠ 0) := by
    unfold entryAddr noEntry
    by_cases h : fieldAt e 0x18 4 = 0xFFFFFFFF <;> simp [h]
  simp only [kernelOk, bodyOk, within, Bool.and_eq_true, beq_iff_eq, decide_eq_true_eq]
  simp only [parseKernel, entryOk_iff, hbudget, and_assoc]
  exact ⟨fun ⟨hfit, hoff, hsize, hw, hw', hg, hg', hv, hparams, hflags, h12, h34, htrap, hwrap, hbud, hcount, hcarry⟩ =>
      ⟨hfit, hoff, hsize, hw, hw', hg, hg', hflags, hv, hparams, h12, htrap, hwrap, hbud, hcount, hcarry, h34⟩,
    fun ⟨hfit, hoff, hsize, hw, hw', hg, hg', hflags, hv, hparams, h12, htrap, hwrap, hbud, hcount, hcarry, h34⟩ =>
      ⟨hfit, hoff, hsize, hw, hw', hg, hg', hv, hparams, hflags, h12, h34, htrap, hwrap, hbud, hcount, hcarry⟩⟩

theorem prologueOk_iff (size : Nat) (e : List Byte) :
    prologueOk size e = true ↔ fieldAt e 0 4 + fieldAt e 4 4 ≤ size ∧ fieldAt e 0 4 % 4 = 0 ∧ fieldAt e 4 4 % 4 = 0
      ∧ fieldAt e 0xC 4 = 0 := by
  simp only [prologueOk, bodyOk, within, Bool.and_eq_true, beq_iff_eq, decide_eq_true_eq, and_assoc]

theorem parseImage_isSome (img : List Byte) : (parseImage img).isSome = true ↔ Spec.KeepsTable img := by
  rw [Option.isSome_iff_exists]
  simp only [parseImage_eq_some, exists_and_left, exists_eq, and_true]
  rw [codeHeaderOk_iff]
  unfold Spec.KeepsTable
  simp only [kernelOk_iff, flagsOk_iff, prologueOk_iff]
  simp only [kernelStarts, bodyWords, parseKernel]
  simp (disch := decide) only [fieldAt_imageEntry]
  simp only [and_assoc, Nat.zero_add, Nat.add_zero, beq_iff_eq]

theorem getElem?_map_range {α : Type} (f : Nat → α) (n i : Nat) (x : α) :
    ((List.range n).map f)[i]? = some x ↔ i < n ∧ f i = x := by
  rw [List.getElem?_map]
  by_cases hi : i < n <;> simp [hi]

theorem codeImageResults : Spec.CodeImageResults := by
  intro img
  refine ⟨parseImage_isSome img, fun ks ps hparse => ?_⟩
  obtain ⟨⟨_, hkernels, _⟩, hx⟩ := (parseImage_eq_some img (ks, ps)).mp hparse
  cases hx
  refine ⟨by simp, by simp, fun n k hk => ?_, fun n p hp => ?_⟩
  · obtain ⟨hn, rfl⟩ := (getElem?_map_range ..).mp hk
    obtain ⟨hok, _⟩ := hkernels n hn
    obtain ⟨_, _, _, _, _, _, _, _, _, _, _, _, _, _, hcarry, _, _⟩ := (kernelOk_iff ..).mp hok
    simp only [parseKernel, Nat.min_eq_right hcarry]
    simp (disch := decide) only [fieldAt_imageEntry, true_and, and_true]
    refine ⟨rfl, rfl, ?_⟩
    rw [BitVec.toNat_ofNat]
    exact Nat.mod_eq_of_lt (fieldAt_lt img _ 8)
  · obtain ⟨hn, rfl⟩ := (getElem?_map_range ..).mp hp
    simp (disch := decide) only [fieldAt_imageEntry]
    rfl

end Sys2Proof.Machine

/-! SUPPORT. Signed records (R356, R359), and the final statement of a retired part (R361). -/
namespace Sys2Proof.Machine

/-! ### The bytes of a record -/

/-- A signed record: its type, the rest of a header of 64 bytes, its body, and the signature. -/
theorem signed_layout (s : State) (type seq : Nat) (body : List Byte) :
    ∃ hdr sig, s.signed type seq body = leBytes 4 type ++ (hdr ++ (body ++ sig)) ∧ hdr.length = 60 := by
  refine ⟨leBytes 4 (0x40 + body.length + sigSize) ++ (leBytes 32 s.identity.toNat ++ (leBytes 8 seq ++ (leBytes 8 s.now
    ++ (leBytes 1 (s.tstat.toNat % 4) ++ List.replicate 7 0)))), ?_⟩
  unfold State.signed
  extract_lets msg sig
  refine ⟨(List.range sigSize).map fun i => sig.getD i 0, ?_, ?_⟩
  · simp only [msg, List.append_assoc]
  · simp only [List.length_append, leBytes_length, List.length_replicate]

theorem signed_type (s : State) (type seq : Nat) (body : List Byte) (h : type < 2 ^ 32) :
    fieldAt (s.signed type seq body) 0 4 = type := by
  obtain ⟨hdr, sig, e, _⟩ := signed_layout s type seq body
  rw [e]
  exact (fieldAt_append_leBytes [] _ 4 type 0 rfl).trans (Nat.mod_eq_of_lt h)

/-- A record's body stands after its header. -/
theorem signed_body (s : State) (type seq : Nat) (body : List Byte) :
    ∃ sig, (s.signed type seq body).drop 0x40 = body ++ sig := by
  obtain ⟨hdr, sig, e, hlen⟩ := signed_layout s type seq body
  refine ⟨sig, ?_⟩
  rw [e, ← List.append_assoc]
  exact List.drop_left' (by simp [hlen])

/-- An attestation carries the nonce and the log's digest. -/
theorem report_fields (s s0 : State) (seq : Nat) (nonce : List Byte) (h : nonce.length = 32) :
    ((s.signed 3 seq (s0.reportBody nonce)).drop 0x40).take 32 = nonce
      ∧ fieldAt (s.signed 3 seq (s0.reportBody nonce)) 0x60 32 = s0.mdigest.toNat := by
  obtain ⟨sig, e⟩ := signed_body s 3 seq (s0.reportBody nonce)
  have hbody : ∃ rest, (s.signed 3 seq (s0.reportBody nonce)).drop 0x40 = nonce ++ (leBytes 32 s0.mdigest.toNat ++ rest) := by
    rw [e]
    unfold State.reportBody
    exact ⟨_, by simp only [List.append_assoc]; rfl⟩
  obtain ⟨rest, e⟩ := hbody
  refine ⟨by rw [e, List.take_left' h], ?_⟩
  have hshift : fieldAt (s.signed 3 seq (s0.reportBody nonce)) 0x60 32
      = fieldAt ((s.signed 3 seq (s0.reportBody nonce)).drop 0x40) 32 32 := by
    unfold fieldAt
    rw [List.drop_drop]
  rw [hshift, e, fieldAt_append_leBytes nonce rest 32 _ 32 h]
  exact Nat.mod_eq_of_lt s0.mdigest.isLt

/-! ### Signing -/

theorem signs_iff (s : State) : s.signs = true ↔ 2 < s.boot := decide_eq_true_iff

/-- A signed record takes the next sequence number, within the block the journal reserves (R359). -/
theorem signOut_seqBound (s : State) (type : Nat) (body : List Byte) :
    (s.seqNum ≤ s.seqBound → (s.signOut type body).seqNum ≤ (s.signOut type body).seqBound)
      ∧ s.seqBound ≤ (s.signOut type body).seqBound := by
  have hnum : (s.signOut type body).seqNum = s.seqNum + 1 := rfl
  have hbound : (s.signOut type body).seqBound
      = if s.seqBound < s.seqNum + 1 then s.seqBound + 2 ^ 20 else s.seqBound := rfl
  rw [hnum, hbound]
  split <;> omega

/-! ### The final statement -/

/-- A reply counts at a meter where its page is bound to one. -/
theorem meterNow_ok (s : State) (b : Bound) (leaf : BitVec 64) (pages : Nat)
    (h : (s.translate (stackOf b.addr) b.asid (offsetOf b.addr)).2 = .ok leaf pages) :
    (s.meterNow b).isSome = pteMet leaf := by
  unfold State.meterNow leafMeter
  simp only [h]
  cases pteMet leaf <;> rfl

/-- A reply whose page is mapped no more counts at the meter it had. -/
theorem meterNow_unmapped (s : State) (b : Bound)
    (h : ∀ leaf pages, (s.translate (stackOf b.addr) b.asid (offsetOf b.addr)).2 ≠ .ok leaf pages) :
    s.meterNow b = b.meter := by
  unfold State.meterNow
  split
  · next hw => exact absurd hw (h _ _)
  · rfl

/-- A reply that a meter counts is still at its base die: of a request, or of a part of a transfer. -/
theorem replyInFlight_iff (s : State) :
    s.replyInFlight = true ↔
      (∃ r, r ∈ s.reqs ∧ ∃ bs f b, r.st = .performed bs f (some b) ∧ bs ≠ [] ∧ (s.meterNow b).isSome = true)
      ∨ ∃ m, m ∈ s.moves ∧ ∃ g, g ∈ m.got ∧ ∃ b, g.2.held = some b ∧ (s.meterNow b).isSome = true := by
  unfold State.replyInFlight
  rw [Bool.or_eq_true, List.any_eq_true, List.any_eq_true]
  refine or_congr (exists_congr fun r => and_congr_right fun _ => ?_) (exists_congr fun m => and_congr_right fun _ => ?_)
  · cases r.st with
    | sent => simp
    | performed bs f b =>
      cases b with
      | none => simp
      | some b =>
        rw [Bool.and_eq_true, Bool.not_eq_true', List.isEmpty_eq_false_iff]
        exact ⟨fun ⟨hbs, hb⟩ => ⟨bs, f, b, rfl, hbs, hb⟩, fun ⟨_, _, _, e, hbs, hb⟩ => by cases e; exact ⟨hbs, hb⟩⟩
  · rw [List.any_eq_true]
    refine exists_congr fun g => and_congr_right fun _ => ?_
    cases g.2.held <;> simp

/-- The final values listed of some meters: those that are not 0. -/
def finalsOf (f : Nat → Nat) (ms : List Nat) : List (Nat × Nat) := (ms.map fun m => (m, f m)).filter fun x => x.2 != 0

theorem lookupN_finalsOf (f : Nat → Nat) (ms : List Nat) (n : Nat) :
    (lookupN (finalsOf f ms) n).getD 0 = if n ∈ ms then f n else 0 := by
  induction ms with
  | nil => rfl
  | cons m t ih =>
    have hcons : finalsOf f (m :: t) = if f m = 0 then finalsOf f t else (m, f m) :: finalsOf f t := by
      by_cases hm : f m = 0 <;> simp [finalsOf, hm]
    rw [hcons]
    by_cases hnm : m = n
    · subst hnm
      by_cases hm : f m = 0
      · rw [if_pos hm, ih]
        simp [hm]
      · rw [if_neg hm, lookupN_cons]
        simp
    · have hmem : n ∈ m :: t ↔ n ∈ t := by simp [Ne.symm hnm]
      simp only [hmem]
      split
      · exact ih
      · rw [lookupN_cons, if_neg hnm, ih]

/-- A retired part's final statement, signed, leaves every meter at its value. -/
def State.finalStated (s : State) : State :=
  { (s.signOut 2 s.finalBody) with finals := finalsOf s.meterValue (List.range 4096), retired := true }

theorem exec_finalStatement (s : State) :
    exec .finalStatement s = if s.retiring = true ∧ s.retired = false ∧ 2 < s.boot ∧ s.replyInFlight = false
      then .next s.finalStated else .next s := by
  change execFinalStatement s = _
  unfold execFinalStatement
  simp only [signs_iff, Bool.not_eq_true']
  rfl

theorem finalStated_meterValue (s : State) (n : Nat) (hn : n < 4096) : s.finalStated.meterValue n = s.meterValue n := by
  have hret : s.finalStated.retired = true := rfl
  have hfin : s.finalStated.finals = finalsOf s.meterValue (List.range 4096) := by simp only [State.finalStated]
  rw [State.meterValue, if_pos hret, hfin, lookupN_finalsOf, if_pos (List.mem_range.mpr hn)]

theorem exec_attestation (s : State) (nonce : List Byte) :
    exec (.attestation nonce) s = if 2 < s.boot ∧ nonce.length = 32 then .next (s.signOut 3 (s.reportBody nonce)) else .next s := by
  change execAttestation nonce s = _
  unfold execAttestation
  simp only [signs_iff]

/-- Attestation, the log, and retirement with its final statement. -/
theorem signedRecordResults : Spec.SignedRecordResults := by
  intro s nonce
  refine ⟨fun hboot hlen => ?_, fun h => by rw [exec_attestation, if_neg h], rfl, rfl, ?_⟩
  · obtain ⟨hnonce, hdigest⟩ := report_fields s.nextNumber s s.nextNumber.seqNum nonce hlen
    obtain ⟨hnum, hbound⟩ := signOut_seqBound s 3 (s.reportBody nonce)
    exact ⟨_, _, by rw [exec_attestation, if_pos ⟨hboot, hlen⟩], rfl, rfl, hnum, hbound, signed_type _ 3 _ _ (by decide),
      hnonce, hdigest⟩
  intro counts inFlight
  have hcounts : ∀ b, counts b ↔ (s.meterNow b).isSome = true := by
    intro b
    dsimp only [counts]
    cases hw : (s.translate (stackOf b.addr) b.asid (offsetOf b.addr)).2 with
    | ok leaf pages => rw [meterNow_ok s b leaf pages hw]
    | fault k => rw [meterNow_unmapped s b (by simp [hw])]
    | unmapped d => rw [meterNow_unmapped s b (by simp [hw])]
  have hflight : ¬ inFlight ↔ s.replyInFlight = false := by
    rw [← Bool.not_eq_true, replyInFlight_iff]
    simp only [inFlight, hcounts]
  rw [exec_finalStatement, hflight]
  refine ⟨fun h1 h2 h3 h4 => ?_, fun h => if_neg h⟩
  exact ⟨s.finalStated, _, if_pos ⟨h1, h2, h3, h4⟩, rfl, rfl, rfl, signed_type _ 2 _ _ (by decide), finalStated_meterValue s⟩

/-- Settles O54, by its three parts: an image against the table, an object's registration, and the signed records. -/
theorem codeAndRecordResults : Obligations.CodeAndRecordResults :=
  ⟨codeImageResults, codeObjectResults, signedRecordResults⟩

end Sys2Proof.Machine

/-! SUPPORT. A step: the turns of the agenda, the fetch of an instruction, and the undo logs kept within their pools (R9, R42,
R81, R96). -/
namespace Sys2Proof.Machine

/-! ### The undo logs of a step (R81) -/

/-- `t` is `s` but for its blocks. -/
def State.BlocksOnly (s t : State) : Prop := t = { s with blocks := t.blocks }

theorem State.BlocksOnly.refl (s : State) : s.BlocksOnly s := rfl

theorem State.BlocksOnly.trans {s t u : State} (h1 : s.BlocksOnly t) (h2 : t.BlocksOnly u) : s.BlocksOnly u :=
  Eq.trans h2 (congrArg (fun x : State => { x with blocks := u.blocks }) h1)

theorem updBlock_blocksOnly (s : State) (k : BlockId) (f : Block → Block) : s.BlocksOnly (s.updBlock k f) := by
  unfold State.updBlock
  split <;> rfl

theorem trimPool_blocksOnly (own : WarpId) (n : Nat) (s : State) : s.BlocksOnly (State.trimPool own n s) := by
  induction n generalizing s with
  | zero => rfl
  | succ n ih =>
    unfold State.trimPool
    split
    · rfl
    split
    · rfl
    split
    · rfl
    · exact (updBlock_blocksOnly ..).trans (ih _)

/-- Keeping every core's pool changes the blocks alone. -/
theorem trimLogs_blocksOnly (s : State) : s.BlocksOnly s.trimLogs := by
  unfold State.trimLogs
  split
  · rfl
  · exact foldl_related State.BlocksOnly .refl .trans _ (fun s b => trimPool_blocksOnly ..) _ s

/-! ### Fetch (R9, R42, R96) -/

/-- The four bytes of a word, lowest first. -/
theorem ofNat_leNat_bytes (x : Word) :
    BitVec.ofNat 32 (leNat ((List.range 4).map fun i => x.extractLsb' (8 * i) 8)) = x := by
  have hx := x.isLt
  apply BitVec.eq_of_toNat_eq
  simp only [List.range_succ, List.range_zero, List.nil_append, List.map_cons, List.map_nil, List.cons_append,
    leNat, BitVec.extractLsb'_toNat, BitVec.toNat_ofNat, Nat.shiftRight_eq_div_pow]
  omega

/-- A code word whose bytes stand where its code object's pages are mapped. -/
theorem codeWord_mapped (s : State) (b : Block) (co : CodeObj) (at_ : Nat) (x : Word) (hco : s.code? b.part b.code = some co)
    (hin : at_ + 4 ≤ b.kern.codeSize)
    (hx : ∀ i, i < 4 → ∃ k, s.codePlace co (b.kern.codeOff + at_ + i) = some k ∧ s.dram.read k = x.extractLsb' (8 * i) 8) :
    s.codeWord b at_ = x := by
  have hbyte : ∀ i, i < 4 → s.codeByte co (b.kern.codeOff + at_ + i) = x.extractLsb' (8 * i) 8 := by
    intro i hi
    obtain ⟨k, hk, hread⟩ := hx i hi
    unfold State.codeByte
    rw [hk]
    exact hread
  unfold State.codeWord
  rw [if_neg (Nat.not_lt.mpr hin), hco]
  dsimp only
  rw [List.map_congr_left fun i hi => hbyte i (List.mem_range.mp hi), ofNat_leNat_bytes]

/-- What a fetch gives: the instruction its words decode to, or an illegal opcode. -/
theorem fetch_eq (s : State) (b : Block) (w : Warp) (w0 : Word) (x : Option Word) (h0 : s.codeWord b w.pc.toNat = w0)
    (hx : (if b.kern.codeSize < w.pc.toNat + 8 then none else some (s.codeWord b (w.pc.toNat + 4))) = x) :
    (∀ i, decode w0 x = .ok i → s.fetch b w = i) ∧ ∀ e, decode w0 x = .error e → s.fetch b w = .illegalOpcode w0 := by
  subst h0 hx
  constructor <;> intro _ h <;> unfold State.fetch <;> dsimp only <;> rw [h]

/-! ### A turn -/

/-- A turn of the agenda's head before its party moves: device time and the core clocks pass, and a step of bring-up ends. -/
def State.timed (s : State) (ns clocks : Nat) (rest : List Turn) : State :=
  ((State.countTime { s with agenda := rest } ns).countClocks clocks).bootStep

theorem turn_current (s : State) (h : s.agenda = []) : s.turn = s.go := by
  unfold State.turn
  rw [h]

theorem turn_agent (s : State) (ns clocks : Nat) (w : WarpId) (rest : List Turn) (h : s.agenda = ⟨ns, clocks, .agent w⟩ :: rest) :
    s.turn = ((s.timed ns clocks rest).takeTurn w).go := by
  unfold State.turn
  rw [h]
  rfl

theorem turn_event (s : State) (ns clocks : Nat) (i : Instr) (rest : List Turn) (h : s.agenda = ⟨ns, clocks, .event i⟩ :: rest) :
    s.turn = (s.timed ns clocks rest, if Instr.isEvent i then some i else none) := by
  unfold State.turn
  rw [h]
  rfl

theorem turn_upset (s : State) (ns clocks : Nat) (u : Upset) (rest : List Turn) (h : s.agenda = ⟨ns, clocks, .upset u⟩ :: rest) :
    s.turn = ((s.timed ns clocks rest).strike u, none) := by
  unfold State.turn
  rw [h]
  rfl

theorem go_idle (s : State) (h : s.ctx = none) : s.go = (s, none) := by
  unfold State.go
  rw [h]

theorem go_fetched (s : State) (c : Ctx) (h : s.ctx = some c)
    (hk : ∀ k, k ∈ s.codeKeys c.b c.w.pc.toNat → s.poison.contains (k / 32) = false) :
    s.go = (s.fetched c.b c.w.pc.toNat, some (s.fetch c.b c.w)) := by
  unfold State.go
  rw [h]
  exact if_neg (by simpa using hk)

theorem go_poisoned (s : State) (c : Ctx) (h : s.ctx = some c)
    (hk : ∃ k, k ∈ s.codeKeys c.b c.w.pc.toNat ∧ s.poison.contains (k / 32) = true) :
    s.go = ((s.fetched c.b c.w.pc.toNat).asyncMCheck c.wid .poisonConsumed, none) := by
  unfold State.go
  rw [h]
  exact if_pos (List.any_eq_true.mpr hk)

/-- An event of the machine has no instruction word, and is no illegal opcode that a fetch gives. -/
theorem isEvent_iff (i : Instr) : Instr.isEvent i = true ↔ i.words = none ∧ ∀ w, i ≠ .illegalOpcode w := by
  unfold Instr.isEvent
  split
  · simp
  · next h =>
    rw [Option.isNone_iff_eq_none]
    exact (and_iff_left fun w e => h w e).symm

theorem step_runs (s s' : State) (i : Instr) (h : s.turn = (s', some i)) : step s = settle (exec i s') := by
  unfold step
  rw [h]

theorem step_turnAlone (s s' : State) (h : s.turn = (s', none)) : step s = .next s' := by
  unfold step
  rw [h]

/-- Settles O1, by the turns of the agenda. -/
theorem stepRunsDecodedInstruction : Obligations.StepRunsDecodedInstruction := by
  unfold Obligations.StepRunsDecodedInstruction
  intro runs timed
  have hruns : ∀ s s0 : State, s.turn = s0.go → runs s s0 := by
    intro s s0 h
    refine ⟨fun c hc => ⟨fun hk => ?_, fun hk => ?_⟩, fun hc => ?_⟩
    · exact step_runs s _ _ (h.trans (go_fetched s0 c hc hk))
    · exact step_turnAlone s _ (h.trans (go_poisoned s0 c hc hk))
    · exact step_turnAlone s _ (h.trans (go_idle s0 hc))
  refine ⟨fun s h => hruns s s (turn_current s h), fun s ns clocks w rest h => hruns s _ (turn_agent s ns clocks w rest h),
    fun s ns clocks i rest h => ⟨fun hw hi => ?_, fun hw => ?_⟩,
    fun s ns clocks u rest h => step_turnAlone s _ (turn_upset s ns clocks u rest h), fun o ho => ?_, fun s => ?_, ?_⟩
  · have hev : Instr.isEvent i = true := (isEvent_iff i).mpr ⟨hw, hi⟩
    exact step_runs s _ i ((turn_event s ns clocks i rest h).trans (by rw [if_pos hev]; rfl))
  · have hev : ¬ Instr.isEvent i = true := fun e => hw ((isEvent_iff i).mp e).1
    exact step_turnAlone s _ ((turn_event s ns clocks i rest h).trans (by rw [if_neg hev]; rfl))
  · cases o with
    | next t => exact absurd rfl (ho t)
    | fault f => rfl
    | refused r => rfl
  · exact ⟨s.trimLogs, rfl, trimLogs_blocksOnly s, trimLogs_plain s⟩
  · intro s b w co w0 hco pc word hw0 hpc
    have h0 := codeWord_mapped s b co pc w0 hco hpc hw0
    have hlong : ∀ w1, word (pc + 4) w1 → pc + 8 ≤ b.kern.codeSize →
        (if b.kern.codeSize < pc + 8 then none else some (s.codeWord b (pc + 4))) = some w1 := fun w1 hw1 hin => by
      rw [if_neg (Nat.not_lt.mpr hin), codeWord_mapped s b co (pc + 4) w1 hco (by omega) hw1]
    exact ⟨fun w1 i hw1 hin hd => (fetch_eq s b w w0 _ h0 (hlong w1 hw1 hin)).1 i hd,
      fun i hend hd => (fetch_eq s b w w0 none h0 (if_pos hend)).1 i hd,
      fun w1 e hw1 hin hd => (fetch_eq s b w w0 _ h0 (hlong w1 hw1 hin)).2 e hd⟩

end Sys2Proof.Machine

/-! SUPPORT. Guards and v-names of the L-form instructions (R13, R21, R49, R79): the guard a word of format LR or LI carries, the
names an instruction of the lane and cross-lane families checks before it does anything else, and the trap of the first that maps no
row. -/
namespace Sys2Proof.Machine

/-! ### The set and the guard of a word (R18, R21) -/

/-- Bit 31 of a word is the top bit of its set and opcode. -/
theorem msb_fOp (w : Word) : (fOp w).msb = w.msb := by
  simp [fOp, BitVec.msb_eq_getLsbD_last]

theorem fOp_packLR (op : BitVec 7) (d a b : Name) (g : Guard) (mod : BitVec 3) : fOp (packLR op d a b g mod) = op := by
  change BitVec.extractLsb' 25 7 (op ++ d ++ a ++ b ++ g.p ++ bit g.neg ++ mod : BitVec (7 + 6 + 6 + 6 + 3 + 1 + 3)) = op
  simp only [BitVec.extractLsb'_append_eq_of_le, Nat.reduceLeDiff, Nat.reduceSub, BitVec.extractLsb'_eq_self]

theorem fG_packLR (op : BitVec 7) (d a b : Name) (g : Guard) (mod : BitVec 3) : fG (packLR op d a b g mod) = g := by
  have hp : BitVec.extractLsb' 4 3 (packLR op d a b g mod) = g.p := by
    change BitVec.extractLsb' 4 3 (op ++ d ++ a ++ b ++ g.p ++ bit g.neg ++ mod : BitVec (7 + 6 + 6 + 6 + 3 + 1 + 3)) = g.p
    rw [BitVec.extractLsb'_append_eq_of_le (by decide), BitVec.extractLsb'_append_eq_of_le (by decide)]
    exact BitVec.extractLsb'_append_eq_right
  have hneg : (packLR op d a b g mod).getLsbD 3 = g.neg := by
    change BitVec.getLsbD (op ++ d ++ a ++ b ++ g.p ++ bit g.neg ++ mod : BitVec (7 + 6 + 6 + 6 + 3 + 1 + 3)) 3 = g.neg
    rw [BitVec.getLsbD_append, if_neg (by decide), BitVec.getLsbD_append, if_pos (by decide)]
    simp [bit]
  unfold fG
  rw [hp, hneg]

theorem fOp_packLI (op : BitVec 7) (d a : Name) (imm : BitVec 9) (g : Guard) : fOp (packLI op d a imm g) = op := by
  change BitVec.extractLsb' 25 7 (op ++ d ++ a ++ imm ++ g.p ++ bit g.neg : BitVec (7 + 6 + 6 + 9 + 3 + 1)) = op
  simp only [BitVec.extractLsb'_append_eq_of_le, Nat.reduceLeDiff, Nat.reduceSub, BitVec.extractLsb'_eq_self]

theorem fGI_packLI (op : BitVec 7) (d a : Name) (imm : BitVec 9) (g : Guard) : fGI (packLI op d a imm g) = g := by
  have hp : BitVec.extractLsb' 1 3 (packLI op d a imm g) = g.p := by
    change BitVec.extractLsb' 1 3 (op ++ d ++ a ++ imm ++ g.p ++ bit g.neg : BitVec (7 + 6 + 6 + 9 + 3 + 1)) = g.p
    rw [BitVec.extractLsb'_append_eq_of_le (by decide)]
    exact BitVec.extractLsb'_append_eq_right
  have hneg : (packLI op d a imm g).getLsbD 0 = g.neg := by
    change BitVec.getLsbD (op ++ d ++ a ++ imm ++ g.p ++ bit g.neg : BitVec (7 + 6 + 6 + 9 + 3 + 1)) 0 = g.neg
    rw [BitVec.getLsbD_append, if_pos (by decide)]
    simp [bit]
  unfold fGI
  rw [hp, hneg]

theorem firstWord_of_words {i : Instr} {w : Word} {x : Option Word} (h : i.words = some (w, x)) : i.firstWord = w := by
  unfold Instr.firstWord
  rw [h]

theorem isL_of_words {i : Instr} {w : Word} {x : Option Word} (h : i.words = some (w, x)) : i.isL = !(fOp w).msb := by
  rw [Instr.isL, firstWord_of_words h, h, msb_fOp]
  exact Bool.and_true _

/-- An opcode of the L-form set has format LI (R21). -/
def opLI (op : BitVec 7) : Bool := decide (0x18 ≤ op.toNat ∧ op.toNat ≤ 0x1F)

/-- An instruction's guard is the field that the format of its opcode has. -/
theorem guard_of_words {i : Instr} {w : Word} {x : Option Word} (h : i.words = some (w, x)) :
    i.guard = if opLI (fOp w) = true then fGI w else fG w := by
  rw [← firstWord_of_words h]
  exact ite_congr (propext decide_eq_true_iff.symm) (fun _ => rfl) fun _ => rfl

/-! ### What an effect checks first (R49, R79) -/

/-- An effect of the warp checks some v-names under a guard before anything else. -/
def Ctx.ChecksNames (c : Ctx) (g : Guard) (ns : List Name) (e : Eff) : Prop := ∃ k, e = c.needs (c.active g) ns k

/-- An L-form instruction checks some v-names under its guard before anything else. -/
structure ChecksFirst (i : Instr) (ns : List Name) : Prop where
  lform : i.isL = true
  meaning : ∃ f, (∀ s, exec i s = s.run i f) ∧ ∀ c : Ctx, c.ChecksNames i.guard ns (f c)

theorem checksFirst_LR {i : Instr} {op : BitVec 7} {d a b : Name} {g : Guard} {mod : BitVec 3} {x : Option Word}
    {f : Ctx → Eff} {ns : List Name} (hw : i.words = some (packLR op d a b g mod, x)) (hop : (op.msb || opLI op) = false)
    (he : ∀ s, exec i s = s.run i f) (hf : ∀ c : Ctx, c.ChecksNames g ns (f c)) : ChecksFirst i ns := by
  obtain ⟨hset, hfmt⟩ := Bool.or_eq_false_iff.mp hop
  have hg : i.guard = g := by rw [guard_of_words hw, fOp_packLR, hfmt, fG_packLR]; rfl
  exact ⟨by rw [isL_of_words hw, fOp_packLR, hset]; rfl, f, he, hg ▸ hf⟩

theorem checksFirst_LI {i : Instr} {op : BitVec 7} {d a : Name} {imm : BitVec 9} {g : Guard} {x : Option Word}
    {f : Ctx → Eff} {ns : List Name} (hw : i.words = some (packLI op d a imm g, x)) (hop : (!op.msb && opLI op) = true)
    (he : ∀ s, exec i s = s.run i f) (hf : ∀ c : Ctx, c.ChecksNames g ns (f c)) : ChecksFirst i ns := by
  obtain ⟨hset, hfmt⟩ := Bool.and_eq_true_iff.mp hop
  have hg : i.guard = g := by rw [guard_of_words hw, fOp_packLI, hfmt, fGI_packLI]; rfl
  exact ⟨by rw [isL_of_words hw, fOp_packLI, hset], f, he, hg ▸ hf⟩

/-! ### The names of each shape (R100) -/

section
variable {c : Ctx} {ns ns' : List Name} {g : Guard} {e : Eff} {x y z : Opnd}

theorem Ctx.ChecksNames.of_eq (hn : ns = ns') (h : c.ChecksNames g ns e) : c.ChecksNames g ns' e := hn ▸ h

theorem Ctx.ChecksNames.one (h : c.ChecksNames g ([x].flatMap Opnd.vnames) e) : c.ChecksNames g x.vnames e := by
  simpa using h

theorem Ctx.ChecksNames.two (h : c.ChecksNames g ([x, y].flatMap Opnd.vnames) e) : c.ChecksNames g (x.vnames ++ y.vnames) e := by
  simpa using h

theorem Ctx.ChecksNames.three (h : c.ChecksNames g ([x, y, z].flatMap Opnd.vnames) e) :
    c.ChecksNames g (x.vnames ++ y.vnames ++ z.vnames) e := by
  simpa using h

end

theorem laneOp_checks (c : Ctx) (g : Guard) (len : Nat) (d : Name) (wide : Bool) (os : List Opnd)
    (f : Nat → List (BitVec 64) → BitVec 64) :
    c.ChecksNames g (os.flatMap Opnd.vnames) (c.laneOp g len d wide os f) := ⟨_, rfl⟩

theorem predOp_checks (c : Ctx) (g : Guard) (len : Nat) (pd : PName) (os : List Opnd) (f : Nat → List (BitVec 64) → Bool) :
    c.ChecksNames g (os.flatMap Opnd.vnames) (c.predOp g len pd os f) := ⟨_, rfl⟩

theorem fpOp_checks (c : Ctx) (g : Guard) (len : Nat) (d : Name) (t t2 : Ty) (srcs : List FSrc) (f : List Nat → FRes)
    (sh : Option (List Nat → Shadow)) :
    c.ChecksNames g ((srcs.map FSrc.o).flatMap Opnd.vnames) (c.fpOp g len d t t2 srcs f sh) :=
  ⟨_, by rw [List.flatMap_map]; rfl⟩

theorem bin_checks (c : Ctx) (r : LrA) (f : BitVec 64 → BitVec 64 → BitVec 64) :
    c.ChecksNames r.g (r.a :: srcNames r.b r.bs false) (c.bin r f) := (laneOp_checks ..).two

theorem binM_checks (c : Ctx) (r : LrM) (bw : Bool) (f : BitVec 64 → BitVec 64 → BitVec 64) :
    c.ChecksNames r.g (srcNames r.a false r.m.t.wide ++ srcNames r.b r.bs (bw && r.m.t.wide)) (c.binM r bw f) :=
  (laneOp_checks ..).two

theorem triM_checks (c : Ctx) (r : LrM) (cw : Bool) (f : BitVec 64 → BitVec 64 → BitVec 64 → BitVec 64) :
    c.ChecksNames r.g (srcNames r.a false r.m.t.wide ++ srcNames r.b r.bs r.m.t.wide
      ++ srcNames r.m.c r.m.cs (cw && r.m.t.wide)) (c.triM r cw f) := (laneOp_checks ..).three

theorem un_checks (c : Ctx) (r : LrU) (f : BitVec 64 → BitVec 64) : c.ChecksNames r.g [r.a] (c.un r f) := (laneOp_checks ..).one

theorem unM_checks (c : Ctx) (r : LrUM) (dw : Bool) (f : BitVec 64 → BitVec 64) :
    c.ChecksNames r.g (srcNames r.a false r.m.t.wide) (c.unM r dw f) := (laneOp_checks ..).one

theorem binImm_checks (c : Ctx) (d a : Name) (imm : BitVec 64) (g : Guard) (f : BitVec 64 → BitVec 64 → BitVec 64) :
    c.ChecksNames g [a] (c.binImm d a imm g f) := (laneOp_checks ..).one

/-- DP4 and ASA. -/
theorem accum_checks (c : Ctx) (r : LrM) (t : Ty) (f : BitVec 64 → BitVec 64 → BitVec 64 → Int) :
    c.ChecksNames r.g (r.a :: srcNames r.b r.bs false ++ srcNames r.m.c r.m.cs false) (c.accum r t f) :=
  Ctx.ChecksNames.three ⟨_, rfl⟩

/-- FADD, FSUB, FMUL and FDIV. -/
theorem fpBin_checks (c : Ctx) (g : Guard) (len : Nat) (d : Name) (t : Ty) (rm : Rm) (a b : FSrc)
    (op : Fmt → Rm → Bool → Nat → Nat → FRes) (adds : Bool) :
    c.ChecksNames g (a.o.vnames ++ b.o.vnames) (c.fpBin g len d t rm a b op adds) := by
  dsimp only [Ctx.fpBin]
  exact (fpOp_checks ..).two

theorem fpMinMax_checks (c : Ctx) (g : Guard) (len : Nat) (d : Name) (t : Ty) (a b : FSrc) (hi : Bool) :
    c.ChecksNames g (a.o.vnames ++ b.o.vnames) (c.fpMinMax g len d t a b hi) := (fpOp_checks ..).two

theorem fpRnd_checks (c : Ctx) (g : Guard) (len : Nat) (d : Name) (t : Ty) (rm : Rm) (a : FSrc) :
    c.ChecksNames g a.o.vnames (c.fpRnd g len d t rm a) := (fpOp_checks ..).one

theorem fpSqrt_checks (c : Ctx) (g : Guard) (len : Nat) (d : Name) (t : Ty) (rm : Rm) (a : FSrc) :
    c.ChecksNames g a.o.vnames (c.fpSqrt g len d t rm a) := by
  dsimp only [Ctx.fpSqrt]
  exact (fpOp_checks ..).one

theorem fpSfu_checks (c : Ctx) (g : Guard) (len : Nat) (d : Name) (u : Sfu) (a : FSrc) :
    c.ChecksNames g a.o.vnames (c.fpSfu g len d u a) := by
  dsimp only [Ctx.fpSfu]
  exact (fpOp_checks ..).one

theorem fpClass_checks (c : Ctx) (g : Guard) (len : Nat) (d : Name) (t : Ty) (a : FSrc) :
    c.ChecksNames g a.o.vnames (c.fpClass g len d t a) := (laneOp_checks ..).one

theorem fpCmp_checks (c : Ctx) (g : Guard) (len : Nat) (pd : PName) (t : Ty) (k : FCond) (a b : FSrc) :
    c.ChecksNames g (a.o.vnames ++ b.o.vnames) (c.fpCmp g len pd t k a b) := ⟨_, rfl⟩

/-- A group of one-name operands. -/
theorem groupNames_vnames (n : Name) (s : Bool) (k : Nat) :
    ((groupNames n k).map fun m => (⟨m, s, false⟩ : Opnd)).flatMap Opnd.vnames
      = if s then [] else (List.range k).map fun j => n + BitVec.ofNat 6 j := by
  rw [groupNames, List.map_map, List.flatMap_map]
  cases s
  · exact List.map_eq_flatMap.symm
  · exact List.flatMap_eq_nil_iff.mpr fun _ _ => rfl

/-- The names of a group by the width of their elements (R269). -/
theorem packGroup_eq (m : ModWord) : packGroup m = 16 / Spec.packW m := by
  unfold packGroup Spec.packW
  by_cases h4 : (m.c == 1) = true
  · simp only [if_pos h4]
    cases m.t <;> rfl
  · simp only [if_neg h4]
    cases m.t <;> rfl

end Sys2Proof.Machine

/-! SUPPORT. The lane and cross-lane families check the names they read before anything else (R49, R79). -/
namespace Sys2Proof.Machine

/-! ### The instructions whose names depend on a type -/

theorem packi_checks (c : Ctx) (r : LrM) (f : Nat → List (BitVec 64) → BitVec 64) :
    c.ChecksNames r.g (Spec.reads (.packi r)) (c.laneOp r.g 8 r.d false
      ((groupNames r.a (packGroup r.m)).map (fun n => ⟨n, false, false⟩)
        ++ (groupNames r.b (packGroup r.m)).map fun n => ⟨n, r.bs, false⟩) f) := by
  have h := laneOp_checks c r.g 8 r.d false ((groupNames r.a (packGroup r.m)).map (fun n => ⟨n, false, false⟩)
    ++ (groupNames r.b (packGroup r.m)).map fun n => ⟨n, r.bs, false⟩) f
  rw [List.flatMap_append, groupNames_vnames, groupNames_vnames, packGroup_eq] at h
  rw [packGroup_eq]
  exact h

/-- The sources of CVT: two where a packed result joins two unpacked elements (R118). -/
theorem cvt_names (r : LrM) (t2 : Ty) :
    (if t2.packed && !r.m.t.packed then [LrM.srcA r, LrM.srcB r] else [LrM.srcA r]).flatMap (fun x => x.o.vnames)
      = Spec.reads (.cvt r t2) := by
  change _ = (LrM.srcA r).o.vnames ++ if t2.packed && !r.m.t.packed then (LrM.srcB r).o.vnames else []
  split <;> simp

/-- The sources of PKF8: a pair of names each at .f32, two names else (R120). -/
theorem pkf8_names (r : LrM) (k : F8) (na aa nb ab : Bool) :
    (if r.m.t == .f32 then [⟨⟨r.a, false, false⟩, na, aa⟩, ⟨⟨Name.after r.a 1, false, false⟩, na, aa⟩,
        ⟨⟨r.b, r.bs, false⟩, nb, ab⟩, ⟨⟨Name.after r.b 1, r.bs, false⟩, nb, ab⟩]
      else [⟨⟨r.a, false, false⟩, na, aa⟩, ⟨⟨r.b, r.bs, false⟩, nb, ab⟩]).flatMap (fun x : FSrc => x.o.vnames)
      = Spec.reads (.pkf8 r k) := by
  change _ = srcNames r.a false (r.m.t == .f32) ++ srcNames r.b r.bs (r.m.t == .f32)
  cases r.bs <;> cases r.m.t == .f32 <;> rfl

/-! ### Every instruction of the two families -/

/-- Each meaning is a shape whose first step is `Ctx.needs` on the names that R49 gives the instruction. -/
theorem reads_checksFirst (i : Instr) (h : Spec.reads i ≠ []) : ChecksFirst i (Spec.reads i) := by
  cases i with
  | iadd r | isub r | imul r | imulh r | imin r | imax r | andLane r | orLane r | xorLane r | shl r | shr r | sra r | rot r
  | bfe r => exact checksFirst_LR rfl rfl (fun _ => rfl) fun c => bin_checks c r _
  | iaddModw r | isubModw r | imulModw r | imulhModw r | iminModw r | imaxModw r | andLaneModw r | orLaneModw r
  | xorLaneModw r => exact checksFirst_LR rfl rfl (fun _ => rfl) fun c => binM_checks c r true _
  | shlModw r | shrModw r | sraModw r | rotModw r | bfeModw r =>
    exact checksFirst_LR rfl rfl (fun _ => rfl) fun c => binM_checks c r false _
  | imad r => exact checksFirst_LR rfl rfl (fun _ => rfl) fun c => triM_checks c r true _
  | bfi r => exact checksFirst_LR rfl rfl (fun _ => rfl) fun c => triM_checks c r false _
  | iabs r | ineg r | popc r | clz r | brev r | mov r => exact checksFirst_LR rfl rfl (fun _ => rfl) fun c => un_checks c r _
  | iabsModw r | inegModw r | brevModw r => exact checksFirst_LR rfl rfl (fun _ => rfl) fun c => unM_checks c r true _
  | popcModw r | clzModw r => exact checksFirst_LR rfl rfl (fun _ => rfl) fun c => unM_checks c r false _
  | iaddImm d a imm g | andImm d a imm g | orImm d a imm g | xorImm d a imm g =>
    exact checksFirst_LI rfl rfl (fun _ => rfl) fun c => binImm_checks c d a _ g _
  | shlImm d a k g | shrImm d a k g | sraImm d a k g | rotImm d a k g =>
    exact checksFirst_LI rfl rfl (fun _ => rfl) fun c => binImm_checks c d a _ g _
  | icmp k pd r => exact checksFirst_LR rfl rfl (fun _ => rfl) fun c => (predOp_checks ..).two
  | icmpModw k pd r => exact checksFirst_LR rfl rfl (fun _ => rfl) fun c => (predOp_checks ..).two
  | icmpS32Imm k pd a imm g | icmpN32Imm k pd a imm g =>
    exact checksFirst_LI rfl rfl (fun _ => rfl) fun c => (predOp_checks ..).one
  | sel r => exact checksFirst_LR rfl rfl (fun _ => rfl) fun c => Ctx.ChecksNames.two ⟨_, rfl⟩
  | dp4 r | asa r => exact checksFirst_LR rfl rfl (fun _ => rfl) fun c => accum_checks c r _ _
  | unt5 r => exact checksFirst_LR rfl rfl (fun _ => rfl) fun c => Ctx.ChecksNames.two ⟨_, rfl⟩
  | packi r => exact checksFirst_LR rfl rfl (fun _ => rfl) fun c => packi_checks c r _
  | unpki r => exact checksFirst_LR rfl rfl (fun _ => rfl) fun c => ⟨_, rfl⟩
  | fadd r | fsub r | fmul r | fdiv r => exact checksFirst_LR rfl rfl (fun _ => rfl) fun c => fpBin_checks ..
  | faddModw r | fsubModw r | fmulModw r | fdivModw r =>
    exact checksFirst_LR rfl rfl (fun _ => rfl) fun c => fpBin_checks ..
  | fmin r | fmax r => exact checksFirst_LR rfl rfl (fun _ => rfl) fun c => fpMinMax_checks ..
  | fminModw r | fmaxModw r => exact checksFirst_LR rfl rfl (fun _ => rfl) fun c => fpMinMax_checks ..
  | ffma r =>
    exact checksFirst_LR rfl rfl (fun _ => rfl) fun c =>
      (fpOp_checks c r.g 8 r.d r.m.t r.m.t [LrM.srcA r, LrM.srcB r, LrM.srcC r] _ _).three
  | fcmp k pd r => exact checksFirst_LR rfl rfl (fun _ => rfl) fun c => fpCmp_checks ..
  | fcmpModw k pd r => exact checksFirst_LR rfl rfl (fun _ => rfl) fun c => fpCmp_checks ..
  | fclass r => exact checksFirst_LR rfl rfl (fun _ => rfl) fun c => fpClass_checks ..
  | fclassModw r => exact checksFirst_LR rfl rfl (fun _ => rfl) fun c => fpClass_checks ..
  | frnd r => exact checksFirst_LR rfl rfl (fun _ => rfl) fun c => fpRnd_checks ..
  | frndModw r => exact checksFirst_LR rfl rfl (fun _ => rfl) fun c => fpRnd_checks ..
  | fsqrt r => exact checksFirst_LR rfl rfl (fun _ => rfl) fun c => fpSqrt_checks ..
  | fsqrtModw r => exact checksFirst_LR rfl rfl (fun _ => rfl) fun c => fpSqrt_checks ..
  | frcp r | frsq r | fexp2 r | flog2 r | fsin r | fcos r =>
    exact checksFirst_LR rfl rfl (fun _ => rfl) fun c => fpSfu_checks ..
  | frcpModw r | frsqModw r | fexp2Modw r | flog2Modw r | fsinModw r | fcosModw r =>
    exact checksFirst_LR rfl rfl (fun _ => rfl) fun c => fpSfu_checks ..
  | cvt r t2 => exact checksFirst_LR rfl rfl (fun _ => rfl) fun c => .of_eq (cvt_names r t2) ⟨_, rfl⟩
  | pkf8 r k => exact checksFirst_LR rfl rfl (fun _ => rfl) fun c => .of_eq (pkf8_names r k ..) ⟨_, rfl⟩
  | upf8 r k => exact checksFirst_LR rfl rfl (fun _ => rfl) fun c => ⟨_, rfl⟩
  | shfl m r => exact checksFirst_LR rfl rfl (fun _ => rfl) fun c => ⟨_, rfl⟩
  | bcast toS r => exact checksFirst_LR rfl rfl (fun _ => rfl) fun c => ⟨_, rfl⟩
  | _ => exact absurd rfl h

end Sys2Proof.Machine

/-! SUPPORT. The trap of a name that maps no row (R49, R79, R85, R86), the counts of rows under a map edit (R77, R85), and the slots
of a handoff (R86). -/
namespace Sys2Proof.Machine

/-! ### A name that maps no row (R49, R79) -/

/-- A trap of the warp as it stands, taken over the lanes it names or the retire mask. -/
theorem finish_trap_self (c : Ctx) (i : Instr) (t : TrapInfo) :
    c.finish i (.trap c t) = c.takeTrap t (t.lanes.getD (c.retireMask i)) (i.len == 8) := by
  simp only [Ctx.finish, ite_self]

theorem needs_unmapped (c : Ctx) (act : Mask) (ns : List Name) (k : Eff) (m : Name) (ha : act ≠ 0)
    (h : ns.find? (fun n => (c.w.vmap n).isNone) = some m) : c.needs act ns k = c.unmapped m := by
  unfold Ctx.needs Ctx.unmapped?
  rw [if_neg ha, h]

/-- An instruction whose meaning finds a name unmapped traps. -/
theorem traps_unmapped (s : State) (c : Ctx) (i : Instr) (f : Ctx → Eff) (m : Name) (h : s.ctx = some c)
    (ha : c.admits i = true) (he : exec i s = s.run i f) (hf : f c = c.unmapped m) :
    Spec.Traps s c i { cause := .unmappedName, info := m.setWidth 32 } := by
  unfold Spec.Traps
  rw [he, run_admits s c i f h ha, hf]
  exact congrArg _ (finish_trap_self ..)

/-- The first name that maps no row among those checked first traps, over the active lanes. -/
theorem ChecksFirst.traps {s : State} {c : Ctx} {i : Instr} {ns : List Name} {m : Name} (hi : ChecksFirst i ns)
    (h : s.ctx = some c) (ha : c.admits i = true) (hact : c.active i.guard ≠ 0)
    (hm : ns.find? (fun n => (c.w.vmap n).isNone) = some m) :
    exec i s = .next (c.takeTrap { cause := .unmappedName, info := m.setWidth 32 } (c.active i.guard) (i.len == 8)) := by
  obtain ⟨f, he, hf⟩ := hi.meaning
  obtain ⟨k, hk⟩ := hf c
  have hlanes : c.retireMask i = c.active i.guard := if_pos hi.lform
  rw [← hlanes]
  exact traps_unmapped s c i f m h ha (he s) (hk.trans (needs_unmapped c _ ns k m hact hm))

/-- GIVE and GIVEX check their name before the slot (R86). -/
theorem handoff_unmapped (c : Ctx) (i : Instr) (op : HandOp) (m b : Name) (h : c.w.vmap m = none) :
    c.handoff i op (some m) b = c.unmapped m := by
  simp [Ctx.handoff, h]

/-- R49, R79, R85, R86: the first unmapped name of a lane or cross-lane instruction, and the name of ALIAS, GIVE and GIVEX. -/
theorem unmappedNameTraps : Spec.UnmappedNameTraps := by
  intro s c i m h ha
  refine ⟨fun hact hm => ?_, fun n hi hm => ?_⟩
  · have hreads : Spec.reads i ≠ [] := fun e => by rw [e] at hm; cases hm
    exact (reads_checksFirst i hreads).traps h ha hact hm
  · rcases hi with rfl | ⟨rfl | rfl, -⟩
    · exact traps_unmapped s c _ _ m h ha rfl (by rw [hm])
    · exact traps_unmapped s c _ _ m h ha rfl (handoff_unmapped c _ _ m n hm)
    · exact traps_unmapped s c _ _ m h ha rfl (handoff_unmapped c _ _ m n hm)

/-! ### References to rows (R77, R83, R85) -/

theorem row?_incRow (b : Block) (id k : Nat) :
    (b.incRow id).row? k = (b.row? k).map fun r => { r with count := r.count + if id = k then 1 else 0 } := by
  unfold Block.incRow
  cases h : b.row? id with
  | none =>
    by_cases e : id = k
    · subst e; simp [h]
    · simp [e]
  | some r =>
    change lookupN (insertN b.rows id _) k = _
    rw [lookupN_insertN]
    by_cases e : id = k
    · subst e; simp [h]
    · rw [if_neg e]; simp [e, Block.row?]

theorem incRow_frame (b : Block) (id : Nat) : b.incRow id = { b with rows := (b.incRow id).rows } := by
  unfold Block.incRow
  split <;> rfl

/-- What dropping the reference of a mapping leaves of a row. -/
theorem row?_dropRef (b : Block) (m : Option Nat) (k : Nat) :
    (b.dropRef m).row? k = if m = some k then
        (b.row? k).bind fun r => if r.count ≤ 1 then none else some { r with count := r.count - 1 }
      else b.row? k := by
  cases m with
  | none => rfl
  | some id =>
    change (b.decRow id).row? k = _
    rw [row?_decRow]
    by_cases e : id = k
    · subst e; simp
    · simp [e]

/-- A mapping replaced, in a block where the new row has gained its reference: the old mapping's reference is dropped. -/
theorem remapped_dropRef (c : Ctx) (d : Name) (row : Option Nat) (more : Bool) (b1 : Block)
    (hframe : b1 = { c.b with rows := b1.rows })
    (hrow : ∀ k, b1.row? k = (c.b.row? k).map fun r =>
      { r with count := r.count + if more = true ∧ row = some k then 1 else 0 }) :
    Spec.Remapped c d row more { c with b := b1.dropRef (c.w.vmap d), w := c.w.setVmap d row } := by
  refine ⟨rfl, rfl, ?_, fun k => ⟨fun r hr => ?_, fun hr => ?_⟩⟩
  · change b1.dropRef (c.w.vmap d) = { c.b with rows := (b1.dropRef (c.w.vmap d)).rows }
    rw [dropRef_frame b1, hframe]
  · change (b1.dropRef (c.w.vmap d)).row? k = _
    rw [row?_dropRef, hrow k, hr]
    rfl
  · exact row?_dropRef_none b1 _ k (by rw [hrow k, hr]; rfl)

/-! ### Mappings (R83, R85) -/

theorem vmap_setVmap (w : Warp) (d n : Name) (r : Option Nat) :
    (w.setVmap d r).vmap n = if n = d then r else w.vmap n := by
  change (w.v.set d.toNat r d.isLt)[n.toNat] = _
  rw [Vector.getElem_set]
  exact ite_congr (propext (by rw [BitVec.toNat_inj, eq_comm])) (fun _ => rfl) fun _ => rfl

/-- R85: the map edits. -/
theorem mapEditResults : Spec.MapEditResults := by
  intro s c d a h
  refine ⟨fun id ha hmap => ⟨fun hne => ?_, fun heq => ?_⟩, fun ha => ?_, fun ha => ?_, fun ha => ?_⟩
  · exact runs_done s c _ _ _ _ _ h ha rfl (by rw [hmap]; exact if_neg hne)
      (remapped_dropRef c d (some id) true (c.b.incRow id) (incRow_frame ..) fun k => by
        simp [row?_incRow])
  · exact runs_done s c _ _ _ _ _ h ha rfl (by rw [hmap]; exact if_pos heq) rfl
  · exact runs_done s c _ _ _ _ _ h ha rfl rfl (remapped_dropRef c d none false c.b rfl fun k => by simp)
  · refine runs_done s c _ _ _ _ _ h ha rfl rfl ⟨rfl, ?_, ?_, fun n hd hn => ?_⟩
    · change ((c.w.setVmap d (c.w.vmap a)).setVmap a (c.w.vmap d)).vmap d = _
      rw [vmap_setVmap, vmap_setVmap]
      by_cases e : d = a <;> simp [e]
    · exact (vmap_setVmap ..).trans (if_pos rfl)
    · exact (vmap_setVmap ..).trans ((if_neg hn).trans ((vmap_setVmap ..).trans (if_neg hd)))
  · exact runs_done s c _ _ _ _ _ h ha rfl rfl (sput_setS ..)

end Sys2Proof.Machine

/-! SUPPORT. The handoff of rows between warps (R86), and the map edits, the handoff and the unmapped names together (O16). -/
namespace Sys2Proof.Machine

/-! ### Slots -/

theorem slot_setSlot (b : Block) (k : Nat) (r : Option Nat) (hk : k < 16) : (b.setSlot k r).slot k = r := by
  simp [Block.slot, Block.setSlot, hk]

/-- TAKE goes on at a full slot, GIVE and GIVEX at an empty one. -/
theorem ready_iff (op : HandOp) (a : Name) (slot : Option Nat) (hop : op = .give a ∨ op = .givex a ∨ op = .take a) :
    op.ready slot = true ↔ slot.isSome = decide (op = .take a) := by
  rcases hop with rfl | rfl | rfl <;> cases slot <;> simp [HandOp.ready]

/-! ### The instruction -/

/-- The name whose row a handoff instruction reads. -/
def HandOp.source? : HandOp → Option Name
  | .give a | .givex a => some a
  | .take _ => none

/-- The instruction of a handoff operation, on the slot that an s-name names. -/
def HandOp.instr (op : HandOp) (b : Name) : Instr :=
  match op with
  | .give a => .give a b
  | .givex a => .givex a b
  | .take d => .take d b

theorem exec_hand (op : HandOp) (b : Name) (s : State) :
    exec (op.instr b) s = s.run (op.instr b) fun c => c.handoff (op.instr b) op op.source? b := by
  cases op <;> rfl

/-- The state once a handoff instruction has retired and the warps parked on its slot have gone on. -/
def Ctx.handedOn (c : Ctx) (i : Instr) (k : Nat) (op : HandOp) : State :=
  ((Spec.handed c i k op).block? c.b.key).elim (Spec.handed c i k op) fun b => (Spec.handed c i k op).setBlock (b.slotEvents k 16)

theorem handedOn_block (c : Ctx) (i : Instr) (k : Nat) (op : HandOp) (b : Block)
    (h : (Spec.handed c i k op).block? c.b.key = some b) :
    c.handedOn i k op = (Spec.handed c i k op).setBlock (b.slotEvents k 16) := by
  unfold Ctx.handedOn
  rw [h]
  rfl

/-- A handoff instruction whose source maps a row and whose slot number is not poisoned: it goes on at a ready slot, or parks. -/
theorem handoff_checked (c : Ctx) (i : Instr) (op : HandOp) (b : Name) (k : Nat) (hk : slotOf (c.w.sget b) = k)
    (hsrc : ∀ a, op.source? = some a → (c.w.vmap a).isSome = true) (hb : c.w.sbad b = false) :
    c.handoff i op op.source? b =
      if op.ready (c.b.slot k) = true then .goto (c.handedOn i k op) else .stay c (.handoff k op) := by
  have hnone : (op.source?.bind fun a => if (c.w.vmap a).isNone then some a else none) = none := by
    rw [Option.bind_eq_none_iff]
    intro a ha
    simpa using Option.isSome_iff_ne_none.mp (hsrc a ha)
  unfold Ctx.handoff
  simp only [hnone, hb, hk, Bool.false_eq_true, if_false]
  refine ite_congr rfl (fun _ => congrArg Eff.goto ?_) fun _ => rfl
  unfold Ctx.handedOn Spec.handed
  generalize State.block? _ _ = x
  cases x <;> rfl

/-- R86: a ready slot takes or gives the row at once, and any other parks the warp. -/
theorem handoffResults : Spec.HandoffResults := by
  intro s c a b op i h hi ha hb hsrc k full
  have hop : op = .give a ∨ op = .givex a ∨ op = .take a := hi.imp And.left (Or.imp And.left And.left)
  obtain rfl : i = op.instr b := by rcases hi with ⟨rfl, rfl⟩ | ⟨rfl, rfl⟩ | ⟨rfl, rfl⟩ <;> rfl
  have hk : k < 16 := Nat.mod_lt _ (by decide)
  have hsource : ∀ n, op.source? = some n → (c.w.vmap n).isSome = true := by
    rcases hop with rfl | rfl | rfl
    · rintro n ⟨⟩; exact hsrc (.inl rfl)
    · rintro n ⟨⟩; exact hsrc (.inr rfl)
    · rintro n ⟨⟩
  have hrun : exec (op.instr b) s = .next (c.finish (op.instr b)
      (if op.ready (c.b.slot k) = true then .goto (c.handedOn (op.instr b) k op) else .stay c (.handoff k op))) := by
    rw [exec_hand, run_admits s c _ _ h ha, handoff_checked c _ op b k rfl hsource hb]
  have hready : op.ready (c.b.slot k) = true ↔ full = decide (op = .take a) := ready_iff op a (c.b.slot k) hop
  rw [hrun]
  refine ⟨fun hfull => ?_, fun hfull => ?_⟩
  · rw [if_pos (hready.mpr hfull)]
    refine ⟨_, rfl, fun b0 hb0 => handedOn_block c _ k op b0 hb0, ?_, ?_, ?_⟩
    · rintro rfl
      exact ⟨rfl, slot_setSlot _ _ _ hk, rfl⟩
    · rintro rfl
      obtain ⟨r, hr⟩ := Option.isSome_iff_exists.mp (hsrc (.inr rfl))
      simp only [HandOp.act, hr]
      exact ⟨trivial, slot_setSlot _ _ _ hk⟩
    · rintro rfl
      exact ⟨rfl, slot_setSlot _ _ _ hk⟩
  · rw [if_neg fun hr => hfull (hready.mp hr)]
    rfl

/-- Settles O16, by its three parts: the map edits, the handoff, and the names that map no row. -/
theorem mapAndHandoffResults : Obligations.MapAndHandoffResults :=
  ⟨mapEditResults, handoffResults, unmappedNameTraps⟩

end Sys2Proof.Machine
